-- ==== Sys2Proof/Word.lean ====
section
/-! DEFINITION. The word and byte types of the K9 (R1-R3: little-endian bytes, 64-bit instruction words). -/

namespace Sys2Proof

/-- A 64-bit word: an instruction word, an s register, an address being computed. -/
abbrev Word := BitVec 64

/-- One byte of memory. -/
abbrev Byte := BitVec 8

/-- One v register of one lane (R82). -/
abbrev Lane := BitVec 32

end Sys2Proof
end

