-- ==== Sys2Proof/Machine/Cells.lean ====
section
/-! DEFINITION. Finite maps from numbers as data in one canonical form: keys strictly rising and no entry equal to what
an unlisted key reads as, so that equal maps are equal lists. DRAM is such a map of bytes; register files, lane memory,
scratchpad and accumulator tiles are such maps of their cells. -/

namespace Sys2Proof.Machine

/-- A finite map from Nat; an unlisted key reads as the default the reader gives. -/
abbrev Cells (α : Type) := List (Nat × α)

/-- The value at a key; dflt is what an unlisted key reads as. -/
def Cells.get {α : Type} (dflt : α) : Cells α → Nat → α
  | [], _ => dflt
  | (k, v) :: rest, a => if k = a then v else if a < k then dflt else Cells.get dflt rest a

/-- Writing one key; a value equal to dflt removes the entry. -/
def Cells.set {α : Type} [DecidableEq α] (dflt : α) : Cells α → Nat → α → Cells α
  | [], a, x => if x = dflt then [] else [(a, x)]
  | (k, v) :: rest, a, x =>
    if k = a then (if x = dflt then rest else (a, x) :: rest)
    else if a < k then (if x = dflt then (k, v) :: rest else (a, x) :: (k, v) :: rest)
    else (k, v) :: Cells.set dflt rest a x

/-- The canonical form: keys strictly rising, no default value listed. -/
def Cells.wf {α : Type} [DecidableEq α] (dflt : α) : Cells α → Bool
  | [] => true
  | [(_, v)] => decide (v ≠ dflt)
  | (k, v) :: (k', v') :: rest => decide (v ≠ dflt) && decide (k < k') && Cells.wf dflt ((k', v') :: rest)

/-- Removing every key that p selects. -/
def Cells.drop {α : Type} (p : Nat → Bool) (m : Cells α) : Cells α := m.filter (fun e => !p e.1)

/-- The values at n keys from lo upwards. -/
def Cells.slice {α : Type} (dflt : α) : Cells α → Nat → Nat → List α
  | [], _, n => List.replicate n dflt
  | (k, v) :: rest, lo, n =>
    if k < lo then Cells.slice dflt rest lo n
    else if lo + n ≤ k then List.replicate n dflt
    else List.replicate (k - lo) dflt ++ v :: Cells.slice dflt rest (k + 1) (n - (k - lo) - 1)

/-- The values at the keys from lo upwards replaced by a list. -/
def Cells.splice {α : Type} [DecidableEq α] (dflt : α) (m : Cells α) (lo : Nat) (xs : List α) : Cells α :=
  m.filter (fun e => decide (e.1 < lo)) ++
    xs.zipIdx.filterMap (fun x => if x.1 = dflt then none else some (lo + x.2, x.1)) ++
    m.filter (fun e => decide (lo + xs.length ≤ e.1))

end Sys2Proof.Machine
end

