-- ==== Sys2Proof/Syntax.lean ====
section
/-! DEFINITION. The instructions of the K9: one constructor of Instr for each row of spec/opcode_table.json.
A full-form word (R10) carries its header first and then its operands; a paired word (R25) is the constructor of
slot A's operation and carries slot B whole; the remaining constructors are the events the table lists (engines,
dispatcher, host, security unit, debugger, power and repair), with what the outside or the engine supplies. -/

namespace Sys2Proof

/-- R13: one guard of a full-form word: predicate index and negate bit. -/
structure Guard where
  neg : Bool
  idx : BitVec 3
  deriving DecidableEq, Repr

/-- R10: the fields every full-form word has beside its opcode and operands. -/
structure Hdr where
  stall : BitVec 4
  ch    : BitVec 2
  g0    : Guard
  g1    : Guard
  deriving DecidableEq, Repr

/-- R15: an 8-bit operand specifier names a v register or an s register. -/
inductive Opr where
  | v (n : Fin 192)
  | s (n : Fin 64)
  deriving DecidableEq, Repr

/-- R19, R64: the operand types of class 0. -/
inductive ITy where
  | i32 | n32 | i64 | n64 | z16 | z32 | z64
  deriving DecidableEq, Repr

/-- R19, R60: the operand types of class 1. -/
inductive FTy where
  | f32 | bf16 | bf16x2
  deriving DecidableEq, Repr

/-- R70: the rounding codes 0 to 6. -/
inductive Rnd where
  | dyn | rne | rtz | rdn | rup | rna | sr
  deriving DecidableEq, Repr

/-- R23: the access sizes SZ. -/
inductive Sz where
  | i8 | n8 | i16 | n16 | b32 | b64 | b128
  deriving DecidableEq, Repr

/-- R113: the conditions of icmp. -/
inductive ICond where
  | eq | ne | lt | le | gt | ge
  deriving DecidableEq, Repr

/-- R124: the conditions of fcmp. -/
inductive FCond where
  | eq | ne | lt | le | gt | ge | ord | uno
  deriving DecidableEq, Repr

/-- R107: the target ranges of isat. -/
inductive SatTo where
  | i8 | n8 | i16 | n16 | i32 | n32
  deriving DecidableEq, Repr

/-- R132: the modes of prm. -/
inductive PrmMode where
  | idx | xor | up | down | rot
  deriving DecidableEq, Repr

/-- R135: the combining operations of lred and lscan. -/
inductive RedOp where
  | addI32 | addZ32 | addZ16 | addI64 | minI32 | maxI32 | minN32 | maxN32 | and | or | xor | fadd | fmin | fmax
  deriving DecidableEq, Repr

/-- R173: the scratchpad windows. -/
inductive Window where
  | core | clu | span
  deriving DecidableEq, Repr

/-- R174: the bank reductions. -/
inductive BredOp where
  | add | smin | smax | umin | umax | fadd | bfadd
  deriving DecidableEq, Repr

/-- R175: the bank scale-and-add operations. -/
inductive BupdOp where
  | f32 | bf16x2 | z32
  deriving DecidableEq, Repr

/-- R181: the atomic operations. -/
inductive AtomOp where
  | exch | cas | add | and | or | xor | smin | smax | umin | umax | fadd
  deriving DecidableEq, Repr

/-- R183: the declared uses of an atomic. -/
inductive AtomOrd where
  | unp | com | nord | qnt | spec | acq | rel | acqrel
  deriving DecidableEq, Repr

/-- R184: the kinds of fence. -/
inductive FenceKind where
  | full | acq | rel
  deriving DecidableEq, Repr

/-- R194: the levels of a named barrier. -/
inductive BarLevel where
  | team | die | pkg
  deriving DecidableEq, Repr

/-- R24: the methods of inv. -/
inductive InvMeth where
  | bis | sec | ulp
  deriving DecidableEq, Repr

/-- R238: the ring widths of the exchange instructions. -/
inductive ZWidth where
  | z16 | z32 | z64
  deriving DecidableEq, Repr

/-- R245: the message lengths 8 to 256 bytes. -/
inductive MsgLen where
  | l8 | l16 | l32 | l64 | l128 | l256
  deriving DecidableEq, Repr

/-- R92: the special registers. -/
inductive SpecialReg where
  | mode | flags | gstat | laneid | groupid | teamid | spanid | dieid | core | width | clock
  | tcause | tpc | tval | ebudget | chainpos
  deriving DecidableEq, Repr

/-- R35, R91: the role of a group: copy, matrix or vector. -/
inductive Role where
  | c | m | v
  deriving DecidableEq, Repr

/-- R20: an accumulator fragment: tile, row, column quarter. -/
structure AccFrag where
  tile : BitVec 6
  row  : BitVec 6
  q    : BitVec 2
  deriving DecidableEq, Repr

/-- R20, R101, R118: source A of an instruction that accepts AF: a register or an accumulator fragment. -/
inductive ASrc where
  | reg (a : Opr)
  | acc (f : AccFrag)
  deriving DecidableEq, Repr

/-- R118: ffma's sources A and C; with AF the addend is read from D. -/
inductive FfmaSrc where
  | reg (a c : Opr)
  | acc (f : AccFrag)
  deriving DecidableEq, Repr

/-- R118, R124: fcmp's source A and its condition, which stands in SUB with AF. -/
inductive FcmpSrc where
  | reg (a : Opr) (cond : FCond)
  | acc (f : AccFrag) (cond : FCond)
  deriving DecidableEq, Repr

/-- R126: the types of cvt. -/
inductive CvtTy where
  | f32 | bf16 | bf16x2 | i32 | n32 | i64 | n64 | z16 | z32 | z64 | bf16h
  deriving DecidableEq, Repr

/-- R126, R118: cvt's source and types: one register, two f32 registers for bf16x2, or an accumulator fragment. -/
inductive CvtSrc where
  | reg (a : Opr) (src dst : CvtTy)
  | pair (a b : Opr)
  | acc (f : AccFrag) (dst : CvtTy)
  deriving DecidableEq, Repr

/-- R23: the base s register and the optional scaled v index of an FM address. -/
structure Mem where
  base : Fin 64
  idx  : Option (Fin 192 × BitVec 2)
  deriving DecidableEq, Repr

/-- R133: vote's mode with its destination. -/
inductive VoteDst where
  | any (p : BitVec 3)
  | all (p : BitVec 3)
  | uni (p : BitVec 3)
  | ballot (s : Fin 64)
  deriving DecidableEq, Repr

/-- R138: p2r's two forms. -/
inductive P2rDst where
  | v (d : Fin 192)
  | s (d : Fin 64) (p : BitVec 3)
  deriving DecidableEq, Repr

/-- R199: what a yield waits on. -/
inductive YieldOn where
  | bar (nb : BitVec 4)
  | tl (t : BitVec 3)
  deriving DecidableEq, Repr

/-- R205: the modes of mma with their widths (w - 1) and rounding. -/
inductive MmaMode where
  | bfp (wa wb : BitVec 3) (rnd : Rnd)
  | bf16 (rnd : Rnd)
  | z16
  | z32
  deriving DecidableEq, Repr

/-- R211: the output formats of acccvt (w - 1 for the block forms). -/
inductive AccFmt where
  | bf16
  | bfp (w : BitVec 3)
  | bfpc (w : BitVec 3)
  deriving DecidableEq, Repr

/-- R217: PRE of an affine scan. -/
inductive ScanPre where
  | none | exp2 | sig
  deriving DecidableEq, Repr

/-- R217: the scan kinds; k32 selects z32 for .rng. -/
inductive ScanKind where
  | aff (pre : ScanPre)
  | trp
  | rng (k32 : Bool)
  deriving DecidableEq, Repr

/-- R240: shin with the value it owns, or without. -/
inductive ShinSrc where
  | own (a : Fin 192)
  | other
  deriving DecidableEq, Repr

/-- R25: the fields of a paired slot beside its operation. -/
structure PArg where
  d   : Opr
  s   : Opr
  gi  : BitVec 3
  gn  : Bool
  aux : BitVec 4
  deriving DecidableEq, Repr

/-- R26: the operations of a paired slot. -/
inductive POp where
  | nop | mov | movi | iadd | isub | and | or | xor | shl | shr | sar | imin | imax | ineg | not
  | fadd | fsub | fmul | fmin | fmax | fneg | fabs | iaddZ16 | isubZ16 | iaddZ32 | isubZ32
  deriving DecidableEq, Repr

/-- R25: one slot of a paired word. -/
structure PSlot where
  op  : POp
  arg : PArg
  deriving DecidableEq, Repr

/-- R387, R392, R420: the path by which a register of the device is written or read: the physical function PF0 of a
link, a virtual function of a link, the owner's SPDM session of a partition, or a launch's store to the register window (R343). -/
inductive Path where
  | pf0 (link : Nat)
  | vf (link part : Nat)
  | owner (part : Nat)
  | window
  deriving DecidableEq, Repr

/-- R389: a session, named by the path it belongs to and its number. -/
structure SessionRef where
  path : Path
  sid : Nat
  deriving DecidableEq, Repr

/-- R291: a physical address, and the host link on which a request for it arrives. -/
structure LinkAddr where
  link : Nat
  pa : Nat
  deriving DecidableEq, Repr

/-- The register blocks of the I/O die's window that the spec names. -/
inductive Blk where
  /-- control-core window (R322, R334, R342) -/
  | control
  /-- translation, adjacency and way masks (R353, R361, R367) -/
  | xlat
  /-- security unit (R372, R379, R380, R396, R426, R445-R447) -/
  | sec
  /-- host link (R388, R398) -/
  | hostLink
  /-- peer block (R405) -/
  | peer
  /-- configuration block (R312) -/
  | config
  /-- debug block (R409) -/
  | debug
  /-- sensor block (R437, R443) -/
  | sensor
  /-- repair block (R438) -/
  | repair
  /-- power block (R442) -/
  | power
  /-- package control (R444) -/
  | pkg
  deriving DecidableEq, Repr

/-- R286, R290: what a request over the peer links asks of its home. -/
inductive PeerFn where
  | read
  | write (data : List Byte)
  | red (op : BredOp) (x : Nat)
  | bfma (op : BupdOp) (x a : Nat)
  | atom (op : AtomOp) (x x2 : Nat)
  deriving DecidableEq, Repr

/-- R405, R406: one request over the peer links: the requester's and the addressed package's number, the hops made, the
physical address, the number of bytes and what is asked. -/
structure PeerReq where
  src   : Nat
  dst   : Nat
  hops  : Nat
  pa    : Nat
  n     : Nat
  fn    : PeerFn
  deriving DecidableEq, Repr

/-- R400: how the host answers a descriptor's reads: the read of the descriptor fails, or the read of SRC does, after some
units of 64 bytes. -/
inductive HostErr where
  | none
  | desc
  | src (units : Nat)
  deriving DecidableEq, Repr

/-- R435, R436: where a memory error lies. -/
inductive ErrLoc where
  /-- state of a resident team: registers, lane memory, scratchpad, accumulators, bracket or scan state -/
  | team (t unit : Nat)
  /-- a line in L1 or a slice of die d -/
  | cache (d line : Nat)
  /-- a DRAM line -/
  | dram (line : Nat)
  /-- security unit SRAM -/
  | secSram
  deriving DecidableEq, Repr

/-- The instructions and events of spec/opcode_table.json, one constructor for each row. -/
inductive Instr where
  /-- R37: Does nothing; its STALL delays its fragment. -/
  | nop (h : Hdr)
  /-- R104: Copies a register or accumulator fragment to the destination at the operand width. -/
  | mov (h : Hdr) (d : Opr) (a : ASrc) (ty : ITy)
  /-- R104: Writes a sign-extended 23-bit immediate to the destination. -/
  | movi (h : Hdr) (d : Opr) (imm : BitVec 23)
  /-- R104: Writes a 16-bit immediate into one quarter of the destination and keeps its other bits. -/
  | movh (h : Hdr) (d : Opr) (q : BitVec 2) (imm : BitVec 16)
  /-- R104: Selects A or B per lane by a predicate. -/
  | sel (h : Hdr) (d : Fin 192) (a b : Opr) (p : BitVec 3) (neg : Bool) (ty : ITy)
  /-- R105: Wrapping integer addition. -/
  | iadd (h : Hdr) (d : Opr) (a : ASrc) (b : Opr) (ty : ITy)
  /-- R105: Wrapping integer subtraction. -/
  | isub (h : Hdr) (d : Opr) (a : ASrc) (b : Opr) (ty : ITy)
  /-- R105: Low w bits of an integer product. -/
  | imul (h : Hdr) (d a b : Opr) (ty : ITy)
  /-- R105: High w bits of a signed or unsigned product. -/
  | imulh (h : Hdr) (d a b : Opr) (ty : ITy)
  /-- R105: Integer multiply-add, low w bits. -/
  | imad (h : Hdr) (d a b c : Opr) (ty : ITy)
  /-- R106: Signed or unsigned minimum. -/
  | imin (h : Hdr) (d a b : Opr) (ty : ITy)
  /-- R106: Signed or unsigned maximum. -/
  | imax (h : Hdr) (d a b : Opr) (ty : ITy)
  /-- R106: Integer absolute value modulo 2^w. -/
  | iabs (h : Hdr) (d a : Opr) (ty : ITy)
  /-- R106: Integer negation modulo 2^w. -/
  | ineg (h : Hdr) (d a : Opr) (ty : ITy)
  /-- R107: Clamps a value to the range of a target integer type. -/
  | isat (h : Hdr) (d a : Opr) (tgt : SatTo) (ty : ITy)
  /-- R108: Issues an integer quotient computation on the pipe's divider, result pending. -/
  | idiv (h : Hdr) (d a b : Opr) (ty : ITy)
  /-- R108: Issues an integer remainder computation on the pipe's divider, result pending. -/
  | irem (h : Hdr) (d a b : Opr) (ty : ITy)
  /-- R109: Bitwise and. -/
  | and (h : Hdr) (d : Opr) (a : ASrc) (b : Opr) (ty : ITy)
  /-- R109: Bitwise or. -/
  | or (h : Hdr) (d : Opr) (a : ASrc) (b : Opr) (ty : ITy)
  /-- R109: Bitwise exclusive or. -/
  | xor (h : Hdr) (d : Opr) (a : ASrc) (b : Opr) (ty : ITy)
  /-- R109: Bitwise a and not b. -/
  | andn (h : Hdr) (d a b : Opr) (ty : ITy)
  /-- R109: Bitwise complement. -/
  | not (h : Hdr) (d a : Opr) (ty : ITy)
  /-- R110: Left shift with zero fill, amount modulo w. -/
  | shl (h : Hdr) (d a b : Opr) (ty : ITy)
  /-- R110: Logical right shift, amount modulo w. -/
  | shr (h : Hdr) (d a b : Opr) (ty : ITy)
  /-- R110: Arithmetic right shift. -/
  | sar (h : Hdr) (d a b : Opr) (ty : ITy)
  /-- R110: Left rotation at width w. -/
  | rot (h : Hdr) (d a b : Opr) (ty : ITy)
  /-- R112: Extracts a bit field, sign- or zero-extended. -/
  | bfe (h : Hdr) (d a b : Opr) (ty : ITy)
  /-- R112: Inserts a bit field into a value. -/
  | bfi (h : Hdr) (d a b c : Opr) (ty : ITy)
  /-- R111: Counts one bits. -/
  | popc (h : Hdr) (d a : Opr) (ty : ITy)
  /-- R111: Counts leading zero bits. -/
  | clz (h : Hdr) (d a : Opr) (ty : ITy)
  /-- R111: Reverses the bits of a value. -/
  | brev (h : Hdr) (d a : Opr) (ty : ITy)
  /-- R113: Integer comparison into a predicate. -/
  | icmp (h : Hdr) (p : BitVec 3) (a b : Opr) (cond : ICond) (ty : ITy)
  /-- R114: Computes a 64-bit address without translation. -/
  | lea (h : Hdr) (d a b : Opr) (sh : BitVec 3) (ty : ITy)
  /-- R119: Floating addition rounded once. -/
  | fadd (h : Hdr) (d : Opr) (a : ASrc) (b : Opr) (ty : FTy) (rnd : Rnd)
  /-- R119: Floating subtraction rounded once. -/
  | fsub (h : Hdr) (d : Opr) (a : ASrc) (b : Opr) (ty : FTy) (rnd : Rnd)
  /-- R119: Floating multiplication rounded once. -/
  | fmul (h : Hdr) (d : Opr) (a : ASrc) (b : Opr) (ty : FTy) (rnd : Rnd)
  /-- R119: Fused multiply-add rounded once. -/
  | ffma (h : Hdr) (d : Opr) (a : FfmaSrc) (b : Opr) (ty : FTy) (rnd : Rnd)
  /-- R120: Floating minimum with defined NaN and zero handling. -/
  | fmin (h : Hdr) (d : Opr) (a : ASrc) (b : Opr) (ty : FTy)
  /-- R120: Floating maximum with defined NaN and zero handling. -/
  | fmax (h : Hdr) (d : Opr) (a : ASrc) (b : Opr) (ty : FTy)
  /-- R124: Floating comparison into a predicate. -/
  | fcmp (h : Hdr) (p : BitVec 3) (a : FcmpSrc) (b : Opr) (ty : FTy)
  /-- R125: Classifies a floating value into a one-hot mask. -/
  | fclass (h : Hdr) (d a : Opr) (ty : FTy)
  /-- R122: Correctly rounded reciprocal. -/
  | frcp (h : Hdr) (d a : Opr) (ty : FTy)
  /-- R122: Correctly rounded reciprocal square root. -/
  | frsq (h : Hdr) (d a : Opr) (ty : FTy)
  /-- R121: Issues a correctly rounded square root on the pipe's divider, result pending. -/
  | fsqrt (h : Hdr) (d a : Opr) (ty : FTy) (rnd : Rnd)
  /-- R121: Issues a correctly rounded division on the pipe's divider, result pending. -/
  | fdiv (h : Hdr) (d a b : Opr) (ty : FTy) (rnd : Rnd)
  /-- R122: Correctly rounded 2^a. -/
  | fexp2 (h : Hdr) (d a : Opr) (ty : FTy)
  /-- R122: Correctly rounded log2 a. -/
  | flog2 (h : Hdr) (d a : Opr) (ty : FTy)
  /-- R122: Correctly rounded sine. -/
  | fsin (h : Hdr) (d a : Opr) (ty : FTy)
  /-- R122: Correctly rounded cosine. -/
  | fcos (h : Hdr) (d a : Opr) (ty : FTy)
  /-- R122: Correctly rounded hyperbolic tangent. -/
  | ftanh (h : Hdr) (d a : Opr) (ty : FTy)
  /-- R122: Correctly rounded logistic sigmoid. -/
  | fsig (h : Hdr) (d a : Opr) (ty : FTy)
  /-- R119: Rounds to an integral value in its own format. -/
  | fround (h : Hdr) (d a : Opr) (ty : FTy) (rnd : Rnd)
  /-- R119: Multiplies by 2^k rounded once. -/
  | fscale (h : Hdr) (d a b : Opr) (ty : FTy) (rnd : Rnd)
  /-- R126: Converts one value per lane between scalar types. -/
  | cvt (h : Hdr) (d : Opr) (src : CvtSrc) (rnd : Rnd)
  /-- R129: Chooses a block scale and packs a value image into a BFP block. -/
  | bfpk (h : Hdr) (d a : Fin 192) (w : BitVec 3) (desc : Fin 64) (ty : FTy) (rnd : Rnd)
  /-- R129: Unpacks a BFP block into a value image. -/
  | bfup (h : Hdr) (d a : Fin 192) (w : BitVec 3) (desc : Fin 64) (ty : FTy) (rnd : Rnd)
  /-- R129: Packs a value image into a BFP block at a given scale. -/
  | bfscl (h : Hdr) (d a : Fin 192) (w : BitVec 3) (desc : Fin 64) (ty : FTy) (rnd : Rnd)
  /-- R119: Two-element BF16 dot product plus FP32 addend, rounded once. -/
  | fdot2 (h : Hdr) (d a b c : Opr) (rnd : Rnd)
  /-- R148: Conditional branch that may split the fragment and create a join record. -/
  | bra (h : Hdr) (off : BitVec 24) (rc : BitVec 15)
  /-- R149: Indirect jump, dividing lanes by target. -/
  | jmp (h : Hdr) (a : Opr)
  /-- R150: Branch that pushes a return address to lane memory. -/
  | call (h : Hdr) (off : BitVec 24) (rc : BitVec 15)
  /-- R151: Returns each lane to its popped address or exits it. -/
  | ret (h : Hdr)
  /-- R152: Arrives at a regang record and fuses the expected lanes. -/
  | regang (h : Hdr) (mask : Option (Fin 64))
  /-- R153: Removes lanes from the group once their pending registers clear. -/
  | exit (h : Hdr)
  /-- R159: Runs its body round by round to invert a monotone routine per lane. -/
  | inv (h : Hdr) (d a : Fin 192) (b : Opr) (len : BitVec 5) (br : BitVec 3) (meth : InvMeth) (dec isInt : Bool)
  /-- R156: Initialises a bracket register. -/
  | bkset (h : Hdr) (br : BitVec 3) (a b : Opr) (maxit tol : BitVec 6) (isInt : Bool)
  /-- R157: Reads a field of a bracket register. -/
  | bkget (h : Hdr) (d : Opr) (br fld : BitVec 3)
  /-- R132: Cross-lane permute. -/
  | prm (h : Hdr) (d a : Fin 192) (b : Opr) (mode : PrmMode) (w64 : Bool)
  /-- R133: Cross-lane vote or ballot over a predicate. -/
  | vote (h : Hdr) (d : VoteDst) (p : BitVec 3)
  /-- R136: Cross-lane tree reduction into an s register. -/
  | lred (h : Hdr) (d : Fin 64) (a : Fin 192) (op : RedOp) (rnd : Rnd)
  /-- R137: Cross-lane inclusive or exclusive scan. -/
  | lscan (h : Hdr) (d a : Fin 192) (excl : Bool) (op : RedOp) (rnd : Rnd)
  /-- R134: Reads one lane's value into an s register. -/
  | rdlane (h : Hdr) (d : Fin 64) (a : Fin 192) (b : Fin 64) (w64 : Bool)
  /-- R138: Predicate logic by truth table. -/
  | plop (h : Hdr) (d a b : BitVec 3) (tt : BitVec 4)
  /-- R138: Copies predicates into a register. -/
  | p2r (h : Hdr) (d : P2rDst)
  /-- R138: Copies register bits into predicates under a mask. -/
  | r2p (h : Hdr) (a : Opr) (mask : BitVec 8)
  /-- R170: Plain load per participant. -/
  | ld (h : Hdr) (d : Opr) (m : Mem) (sz : Sz) (ofs : BitVec 9)
  /-- R170: Plain store per participant. -/
  | st (h : Hdr) (d : Opr) (m : Mem) (sz : Sz) (ofs : BitVec 9)
  /-- R172: Load from the lane's own lane memory. -/
  | ldl (h : Hdr) (d : Opr) (m : Mem) (sz : Sz) (ofs : BitVec 9)
  /-- R172: Store to the lane's own lane memory. -/
  | stl (h : Hdr) (d : Opr) (m : Mem) (sz : Sz) (ofs : BitVec 9)
  /-- R173: Load from scratchpad through a window. -/
  | lds (h : Hdr) (d : Opr) (m : Mem) (sz : Sz) (win : Window) (ofs : BitVec 7)
  /-- R173: Store to scratchpad through a window. -/
  | sts (h : Hdr) (d : Opr) (m : Mem) (sz : Sz) (win : Window) (ofs : BitVec 7)
  /-- R171: Prefetches lines; never traps after issue. -/
  | pf (h : Hdr) (m : Mem) (sz : Sz) (ofs : BitVec 9)
  /-- R174: Sends values for reduction at the home bank. -/
  | bred (h : Hdr) (d : Opr) (m : Mem) (sz : Sz) (op : BredOp) (ofs : BitVec 6)
  /-- R175: Sends a scale-and-add update to the home bank. -/
  | bupd (h : Hdr) (d : Fin 192) (m : Mem) (sz : Sz) (op : BupdOp) (ofs : BitVec 6)
  /-- R178: Creates, re-creates or dissolves a queue. -/
  | qinit (h : Hdr) (a b : Fin 64)
  /-- R179: Enqueues per participant, failing or waiting when full. -/
  | qenq (h : Hdr) (d : Opr) (m : Mem) (sz : Sz) (wait : Bool) (p : BitVec 3) (ofs : BitVec 5)
  /-- R179: Dequeues per participant, failing or waiting when empty. -/
  | qdeq (h : Hdr) (d : Opr) (m : Mem) (sz : Sz) (wait : Bool) (p : BitVec 3) (ofs : BitVec 5)
  /-- R182: Atomic read-modify-write at the home bank with a declared use. -/
  | atom (h : Hdr) (d : Fin 192) (m : Mem) (sz : Sz) (op : AtomOp) (ord : AtomOrd)
  /-- R170: Acquire load. -/
  | lda (h : Hdr) (d : Opr) (m : Mem) (sz : Sz) (ofs : BitVec 9)
  /-- R170: Release store. -/
  | str (h : Hdr) (d : Opr) (m : Mem) (sz : Sz) (ofs : BitVec 9)
  /-- R184: Full, acquire or release fence. -/
  | fence (h : Hdr) (kind : FenceKind)
  /-- R189: Initialises a named barrier's counts and mode. -/
  | barInit (h : Hdr) (a : Fin 64) (nb : BitVec 4) (ring : Bool)
  /-- R190: One group arrival after earlier engine work completes. -/
  | barArrive (h : Hdr) (d : Option (Fin 64)) (nb : BitVec 4)
  /-- R192: Blocks until a phase completes, then acquires. -/
  | barWait (h : Hdr) (a : Fin 64) (nb : BitVec 4)
  /-- R190: Arrives and then waits for the phase arrived in. -/
  | barSync (h : Hdr) (d : Option (Fin 64)) (nb : BitVec 4)
  /-- R190: Arrives and removes the group from later phases. -/
  | barDrop (h : Hdr) (d : Option (Fin 64)) (nb : BitVec 4)
  /-- R193: Adds transfer arrivals expected in the current phase. -/
  | barExpect (h : Hdr) (a : Fin 64) (nb : BitVec 4)
  /-- R194: Requests the level at which a barrier combines. -/
  | barBind (h : Hdr) (nb : BitVec 4) (lvl : BarLevel)
  /-- R197: Blocks until a timeline reaches a value, then acquires. -/
  | tlwait (h : Hdr) (a : Fin 64) (tl : BitVec 3)
  /-- R198: Reads a timeline's value without ordering. -/
  | tlread (h : Hdr) (d : Fin 64) (tl : BitVec 3)
  /-- R199: Leaves the issue pool until a barrier phase or timeline value. -/
  | yield (h : Hdr) (cont : BitVec 16) (b : Fin 64) (on : YieldOn)
  /-- R204: Sets the group's gang register. -/
  | gang (h : Hdr) (a : Fin 64)
  /-- R206: Arrives at the matrix latch for a joint multiply-accumulate. -/
  | mma (h : Hdr) (t : BitVec 6) (a b : Fin 64) (mode : MmaMode)
  /-- R210: Zeroes an accumulator tile. -/
  | acczero (h : Hdr) (t : BitVec 6)
  /-- R210: Loads a tile from an FP32 tile image. -/
  | accld (h : Hdr) (t : BitVec 6) (a : Fin 64)
  /-- R210: Stores a tile as an FP32 tile image. -/
  | accst (h : Hdr) (t : BitVec 6) (a : Fin 64)
  /-- R211: Converts tiles to BF16 or BFP in scratchpad. -/
  | acccvt (h : Hdr) (t : BitVec 6) (a : Fin 64) (fmt : AccFmt) (rnd : Rnd)
  /-- R217: Sets the group's scan configuration. -/
  | scfg (h : Hdr) (a b : Fin 64) (dch : BitVec 7) (kind : ScanKind)
  /-- R220: Starts a local scan of one tile. -/
  | srun (h : Hdr)
  /-- R221: Waits for and consumes a carry from the chain. -/
  | scin (h : Hdr)
  /-- R222: Sends the carry to the next chain position. -/
  | scout (h : Hdr)
  /-- R223: Corrects the h array with the carry-in. -/
  | sfix (h : Hdr)
  /-- R233: Arrives a slice of a collective bulk copy at the copy latch. -/
  | cpy (h : Hdr) (d a b : Fin 64) (s2g : Bool) (bar : Option (BitVec 4))
  /-- R230: Checks and seals a layout record. -/
  | lrmk (h : Hdr) (d a b : Fin 64)
  /-- R242: Exchanges masked tiles for a shared matrix product. -/
  | gxch (h : Hdr) (d a b : Fin 64) (st : BitVec 3) (nb : BitVec 4) (be k32 : Bool)
  /-- R240: Sends masked words for a shared multiplication. -/
  | shmul (h : Hdr) (d a b : Fin 192) (st : BitVec 3) (k : ZWidth)
  /-- R241: Sends masked words for a shared truncation. -/
  | shtrunc (h : Hdr) (d a : Fin 192) (st : BitVec 3) (f : BitVec 5) (k : ZWidth)
  /-- R450: Runs the multi-round protocol for shares of the top bit. -/
  | shsign (h : Hdr) (d a : Fin 192) (st : BitVec 3) (k : ZWidth)
  /-- R240: Opens a shared value to both parties. -/
  | shopen (h : Hdr) (d a : Fin 192) (st : BitVec 3) (k : ZWidth)
  /-- R240: Inputs a cleartext value as shares. -/
  | shin (h : Hdr) (d : Fin 192) (own : ShinSrc) (st : BitVec 3) (k : ZWidth)
  /-- R246: Sends a tagged message to a cluster and waits for acceptance. -/
  | send (h : Hdr) (a b : Fin 64) (len : MsgLen)
  /-- R247: Posts or matches a receive. -/
  | recv (h : Hdr) (d a b : Fin 64) (len : MsgLen) (anyt anys : Bool)
  /-- R248: Probes the overflow queue without consuming. -/
  | mprobe (h : Hdr) (d a : Fin 64) (len : MsgLen) (anyt anys : Bool)
  /-- R249: Raises SWTRAP with a code. -/
  | trap (h : Hdr) (code : BitVec 15)
  /-- R251: Returns from a trap handler to TPC. -/
  | rtt (h : Hdr)
  /-- R249: Breakpoint stop when a debugger is attached. -/
  | brkp (h : Hdr) (code : BitVec 15)
  /-- R94: Reads a special register. -/
  | rdsr (h : Hdr) (d : Opr) (sr : SpecialReg)
  /-- R95: Writes a special register after earlier work drains. -/
  | wrsr (h : Hdr) (a : Fin 64) (sr : SpecialReg)
  /-- R249: Appends a trace record when traced. -/
  | mark (h : Hdr) (a : Fin 64) (id : BitVec 8)
  /-- R253: Submits a launch record and assigns a sequence number. -/
  | lnch (h : Hdr) (d a : Fin 64)
  /-- R252: Appends a dependence to the stream's list. -/
  | ldep (h : Hdr) (a b : Fin 64) (tl : BitVec 3)
  /-- R252: Blocks the stream until a timeline reaches a value. -/
  | lwait (h : Hdr) (a b : Fin 64) (tl : BitVec 3)
  /-- R252: Raises a signal timeline. -/
  | lsig (h : Hdr) (a b : Fin 64) (tl : BitVec 3)
  /-- R26: Empty slot of a paired word. -/
  | pairedNop (stall : BitVec 3) (a : PArg) (b : PSlot)
  /-- R26: Paired slot move. -/
  | pairedMov (stall : BitVec 3) (a : PArg) (b : PSlot)
  /-- R26: Paired slot 4-bit immediate move. -/
  | pairedMovi (stall : BitVec 3) (a : PArg) (b : PSlot)
  /-- R26: Paired slot integer add. -/
  | pairedIadd (stall : BitVec 3) (a : PArg) (b : PSlot)
  /-- R26: Paired slot integer subtract. -/
  | pairedIsub (stall : BitVec 3) (a : PArg) (b : PSlot)
  /-- R26: Paired slot bitwise and. -/
  | pairedAnd (stall : BitVec 3) (a : PArg) (b : PSlot)
  /-- R26: Paired slot bitwise or. -/
  | pairedOr (stall : BitVec 3) (a : PArg) (b : PSlot)
  /-- R26: Paired slot bitwise xor. -/
  | pairedXor (stall : BitVec 3) (a : PArg) (b : PSlot)
  /-- R26: Paired slot left shift by AUX. -/
  | pairedShl (stall : BitVec 3) (a : PArg) (b : PSlot)
  /-- R26: Paired slot logical right shift by AUX. -/
  | pairedShr (stall : BitVec 3) (a : PArg) (b : PSlot)
  /-- R26: Paired slot arithmetic right shift by AUX. -/
  | pairedSar (stall : BitVec 3) (a : PArg) (b : PSlot)
  /-- R26: Paired slot signed minimum. -/
  | pairedImin (stall : BitVec 3) (a : PArg) (b : PSlot)
  /-- R26: Paired slot signed maximum. -/
  | pairedImax (stall : BitVec 3) (a : PArg) (b : PSlot)
  /-- R26: Paired slot negation. -/
  | pairedIneg (stall : BitVec 3) (a : PArg) (b : PSlot)
  /-- R26: Paired slot complement. -/
  | pairedNot (stall : BitVec 3) (a : PArg) (b : PSlot)
  /-- R26: Paired slot FP32 add under DYN. -/
  | pairedFadd (stall : BitVec 3) (a : PArg) (b : PSlot)
  /-- R26: Paired slot FP32 subtract under DYN. -/
  | pairedFsub (stall : BitVec 3) (a : PArg) (b : PSlot)
  /-- R26: Paired slot FP32 multiply under DYN. -/
  | pairedFmul (stall : BitVec 3) (a : PArg) (b : PSlot)
  /-- R26: Paired slot FP32 minimum. -/
  | pairedFmin (stall : BitVec 3) (a : PArg) (b : PSlot)
  /-- R26: Paired slot FP32 maximum. -/
  | pairedFmax (stall : BitVec 3) (a : PArg) (b : PSlot)
  /-- R26: Paired slot sign flip. -/
  | pairedFneg (stall : BitVec 3) (a : PArg) (b : PSlot)
  /-- R26: Paired slot absolute value. -/
  | pairedFabs (stall : BitVec 3) (a : PArg) (b : PSlot)
  /-- R26: Paired slot z16 add. -/
  | pairedIaddZ16 (stall : BitVec 3) (a : PArg) (b : PSlot)
  /-- R26: Paired slot z16 subtract. -/
  | pairedIsubZ16 (stall : BitVec 3) (a : PArg) (b : PSlot)
  /-- R26: Paired slot z32 add. -/
  | pairedIaddZ32 (stall : BitVec 3) (a : PArg) (b : PSlot)
  /-- R26: Paired slot z32 subtract. -/
  | pairedIsubZ32 (stall : BitVec 3) (a : PArg) (b : PSlot)
  /-- R30: A fixed-latency producer's result becomes ready and is written. -/
  | fixedLatencyResult (t g : Nat)
  /-- R32: A variable-latency result is written and its pending mark clears. -/
  | pendingResultWrite (t g k : Nat)
  /-- R284: A store registers its words at the home slice and becomes readable. -/
  | storeRegistration (k : Nat)
  /-- R286: An atomic, bank update or queue operation is performed at its home bank. -/
  | homeBankOperation (k : Nat)
  /-- R143: A fragment arrives at its join record's reconvergence point instead of issuing. -/
  | joinArrival (t g e : Nat)
  /-- R412: An armed instruction comparator stops the launch before the word issues. -/
  | comparatorFire (p i t g e : Nat)
  /-- R196: Team watchdog expiry posts a barrier or latch stall. -/
  | barstall (t idx : Nat)
  /-- R268: A forwarded arrival reaches a die or package combiner entry. -/
  | combinerArrival (k : Nat)
  /-- R268: A combiner release returns and completes the teams' phase. -/
  | combinerRelease (k : Nat)
  /-- R212: A matrix operation writes its tiles and advances the matrix timeline. -/
  | matrixOperationComplete (t k : Nat)
  /-- R236: A copy transfer completes, arrives and advances the copy timeline. -/
  | copyTransferComplete (t k : Nat)
  /-- R226: An srun or sfix completes and advances the scan timeline. -/
  | scanOperationComplete (t : Nat)
  /-- R221: A carry reaches its position's buffer and a waiting scin consumes it. -/
  | carryDelivery (t : Nat)
  /-- R243: A peer's exchange word arrives and is matched by stream and serial. -/
  | straitWordArrival (k : Nat)
  /-- R244: An ABORT for a serial completes the instruction ABORTED. -/
  | abort (k : Nat)
  /-- R239: Strait timeout on a short hand buffer traps HAND. -/
  | hand (t k : Nat)
  /-- R243: Strait timeout before the peer's words arrive traps GATE TIMEOUT. -/
  | gateTimeout (t k : Nat)
  /-- R316: The Dealer deals a new hand into both partitions' buffers. -/
  | handDeal (pair st : Nat)
  /-- R246: A message reaches its destination and is matched, queued or refused. -/
  | messageArrival (k : Nat)
  /-- R261: A team retires once its groups ended and its operations completed. -/
  | teamRetirement (t : Nat)
  /-- R332: The launch writes its status, raises SIGTL and signals the host. -/
  | launchRetirement (seq : Nat)
  /-- R329: A launch becomes ready when its dependences are met. -/
  | launchReady (seq : Nat)
  /-- R331: A die's dispatcher places the first fitting candidate's spans. -/
  | dispatch (die : Nat)
  /-- R330: A waiting launch's effective priority rises every 4 ms. -/
  | aging (seq : Nat)
  /-- R336: A candidate unplaced for 1 ms requests victim spans. -/
  | priorityPreemption (die : Nat)
  /-- R335: A span idle for 8 µs becomes pre-emptible. -/
  | spanIdle (seq span : Nat)
  /-- R334: End of a 100 µs window, named by the CLOCK at which it began, holds back or releases launches by link share. -/
  | linkShareWindow (began : Nat)
  /-- R338: A drain's bound passes and save or flush is chosen. -/
  | drainExpiry (seq span : Nat)
  /-- R338: A save finishes writing state and frees resources. -/
  | saveComplete (seq span : Nat)
  /-- R338: A flush finishes discarding state and frees resources. -/
  | flushComplete (seq span : Nat)
  /-- R358: A fragment parked beyond PARK switches out its span. -/
  | parkLimitExpiry (t g e : Nat)
  /-- R379: A core's scrub between tags completes. -/
  | coreScrubComplete (die core : Nat)
  /-- R365: A die invalidates its replicas of a page and acknowledges. -/
  | replicaInvalidation (k die : Nat)
  /-- R289: All replica invalidations acknowledged; the blocked write registers. -/
  | collapseComplete (k : Nat)
  /-- R322: Starts a control-core stream or sets DROP. -/
  | smpcWrite (st : Nat) (v : BitVec 64) (path : Path)
  /-- R336: SMPREQ ACT 0 requests pre-emption of a launch. -/
  | preempt (st : Nat) (v : BitVec 64)
  /-- R341: SMPREQ ACT 1 kills a launch. -/
  | kill (st : Nat) (v : BitVec 64)
  /-- R340: SMPREQ ACT 2 moves a saved launch to the front of its rank. -/
  | restoreNow (st : Nat) (v : BitVec 64)
  /-- R356: Host consumes page-fault records and held records post. -/
  | pfqhWrite (p : Nat) (v : BitVec 64) (path : Path)
  /-- R357: Host marks a page serviced; parked words re-issue. -/
  | pgdone (p : Nat) (v : BitVec 64) (path : Path)
  /-- R353: Starts an invalidation of a range or ASID. -/
  | tlbInvalidate (p : Nat) (v : BitVec 64) (path : Path)
  /-- R353: The invalidation finishes and BUSY clears. -/
  | invalidationComplete (p : Nat)
  /-- R368: Starts a way-mask change with write-back of removed ways. -/
  | wayMaskWrite (die i : Nat) (v : BitVec 64) (path : Path)
  /-- R368: The new way mask takes effect and BUSY clears. -/
  | wayMaskChangeComplete (die i : Nat)
  /-- R372: CREATE draws a key into a free slot and makes a handle. -/
  | keyCreate (p : Nat) (path : Path)
  /-- R372: IMPORT unwraps a key into a free slot. -/
  | keyImport (p : Nat) (path : Path)
  /-- R370: RETIRE frees a slot or marks it RETIRING. -/
  | keyRetire (p : Nat) (path : Path)
  /-- R378: Starts a frame scrub to zeros under a target slot. -/
  | scrub (p : Nat) (path : Path)
  /-- R378: A frame scrub completes and pending bits clear. -/
  | scrubComplete (p : Nat)
  /-- R396: Binds a copy-in stream id to an unwrapped key. -/
  | streamOpen (p : Nat) (path : Path)
  /-- R396: Erases a copy-in stream entry. -/
  | streamClose (p : Nat) (path : Path)
  /-- R396: Reads a stream's last accepted counter. -/
  | streamQuery (p : Nat) (path : Path)
  /-- R398: Host posts copy-in descriptors. -/
  | hqtailWrite (p : Nat) (v : BitVec 64) (path : Path)
  /-- R398: Enables or disables the copy-in queue. -/
  | hqcfgWrite (p : Nat) (v : BitVec 64) (path : Path)
  /-- R400: Fetches a descriptor and checks, decrypts and writes it. -/
  | descriptorFetch (p : Nat) (err : HostErr)
  /-- R403: Writes status, advances HEAD and tl5. -/
  | descriptorComplete (p k : Nat)
  /-- R393: TDISP stop: kills launches, retires keys, scrubs. -/
  | stopInterface (p : Nat)
  /-- R406: A peer request arrives and is served, forwarded or refused. -/
  | peerRequest (req : PeerReq)
  /-- R291: Host physical read of device memory. -/
  | hostPhysicalRead (loc : LinkAddr) (n : Nat)
  /-- R291: Host physical write registered as a plain store. -/
  | hostPhysicalWrite (loc : LinkAddr) (bytes : List (BitVec 8))
  /-- R410: Attaches or detaches the debugger. -/
  | dbgattWrite (p : Nat) (v : BitVec 64) (path : Path)
  /-- R411: Debug command to stop the attached launch. -/
  | stop (p : Nat) (path : Path)
  /-- R411: A requested stop takes effect once issued work has settled. -/
  | stopEffect (p : Nat)
  /-- R415: Resumes a stopped launch. -/
  | dbgContinue (p : Nat) (path : Path)
  /-- R416: Lets one fragment act once. -/
  | dbgStep (p : Nat) (path : Path)
  /-- R418: Reads a selected register or state word. -/
  | regrd (p : Nat) (path : Path)
  /-- R418: Writes a selected register or state word. -/
  | regwr (p : Nat) (path : Path)
  /-- R418: Reads 8 bytes in the launch's address space. -/
  | memrd (p : Nat) (path : Path)
  /-- R418: Writes 8 bytes in the launch's address space. -/
  | memwr (p : Nat) (path : Path)
  /-- R423: Selects a counter event and clears its total. -/
  | cntcfgWrite (p i : Nat) (v : BitVec 64) (path : Path)
  /-- R427: Defines a metered region and commits report 0. -/
  | regionDefine (p : Nat) (path : Path)
  /-- R427: Refuses new fetches from a region and waits for transfers. -/
  | regionClose (p : Nat) (path : Path)
  /-- R427: Commits the CLOSE report and frees the region. -/
  | regionCloseComplete (r : Nat)
  /-- R433: Imports a signed report as a new region. -/
  | regionImport (p : Nat) (path : Path)
  /-- R427: Commits HOST reports for all active regions. -/
  | regionCommit (p : Nat) (path : Path)
  /-- R427: Reads a region's live count. -/
  | regionQuery (p : Nat) (path : Path)
  /-- R431: Commit interval expiry commits changed regions. -/
  | periodicCommit (p : Nat)
  /-- R439: Starts a reset of a logical die. -/
  | dieReset (v : BitVec 64) (path : Path)
  /-- R439: The 100 µs transit drain ends and undrained packets are dropped. -/
  | transitDrainLimit (die : Nat)
  /-- R439: The die rejoins the routes and BUSY clears. -/
  | dieResetComplete (die : Nat)
  /-- R441: An idle island enters a deeper power state. -/
  | powerStateEntry (i : Nat)
  /-- R441: A request to a low-power island starts its wake. -/
  | islandWake (i : Nat)
  /-- R441: The island returns to A0 and serves the waiting request. -/
  | wakeComplete (i : Nat)
  /-- R3: Write to a register with no behaviour of its own. -/
  | registerWrite (path : Path) (blk : Blk) (off : Nat) (v : BitVec 64)
  /-- R393: A host link goes down. -/
  | linkDown (link : Nat)
  /-- R393: FLR of a VF. -/
  | functionLevelReset (p link : Nat)
  /-- R391: A received TLP fails IDE integrity. -/
  | ideIntegrityFailure (link : Nat)
  /-- R391: An IDE key reaches end of lifetime unrefreshed. -/
  | ideKeyExpiry (link : Nat)
  /-- R391: IDE_KM key refresh. -/
  | kSetGo (link : Nat)
  /-- R393: TDISP lock of a partition's configuration. -/
  | lockInterface (p link : Nat)
  /-- R393: TDISP move to RUN. -/
  | startInterface (p : Nat)
  /-- R389: SPDM version request. -/
  | getVersion (path : Path)
  /-- R389: SPDM capabilities request. -/
  | getCapabilities (path : Path)
  /-- R389: SPDM algorithm negotiation. -/
  | negotiateAlgorithms (path : Path)
  /-- R389: SPDM certificate digests request. -/
  | getDigests (path : Path)
  /-- R389: SPDM certificate request. -/
  | getCertificate (path : Path) (slot : Nat)
  /-- R389: SPDM challenge. -/
  | challenge (path : Path)
  /-- R390: Returns the measurement blocks. -/
  | getMeasurements (path : Path) (signed : Bool) (idx : Nat)
  /-- R389: SPDM session key exchange. -/
  | keyExchange (path : Path)
  /-- R389: SPDM session finish. -/
  | finish (on : SessionRef)
  /-- R389: SPDM session key update. -/
  | keyUpdate (on : SessionRef)
  /-- R389: SPDM session heartbeat. -/
  | heartbeat (on : SessionRef)
  /-- R389: Ends an SPDM session. -/
  | endSession (on : SessionRef)
  /-- R435: A single-bit error is corrected and counted. -/
  | singleBitError (loc : ErrLoc)
  /-- R436: An uncorrectable error terminates, poisons or alarms. -/
  | uncorrectableError (loc : ErrLoc)
  /-- R435: The patrol scrubber corrects a DRAM line. -/
  | patrolScrub (pa : Nat)
  /-- R440: Burns the second fuse bank to swap a failed die. -/
  | fieldSwap (v : BitVec 64) (path : Path)
  /-- R444: Host-requested reset commits regions then resets. -/
  | packageResetRequest (v : BitVec 64) (path : Path)
  /-- R442: The power manager changes a core array's level and EBUDGET. -/
  | frequencyLevelChange (die lvl : Nat)
  /-- R445: A read not allowed is withheld and audited. -/
  | withheldRead (path : Path) (blk : Blk) (off : Nat)
  /-- R447: Host raises a level-2 alarm. -/
  | alcmdLevel2 (code : BitVec 32) (path : Path)
  /-- R447: Host raises a level-3 alarm. -/
  | alcmdLevel3 (code : BitVec 32) (path : Path)
  /-- R393: A change to a locked or running TDI's BAR, bus-master or MSI-X enable puts the TDI in ERROR. -/
  | tdiConfigurationChange (p : Nat)
  /-- R288: A flit that fails on a die link, peer link or the Strait is replayed from the sender's retry buffer, delivered once and counted as a retry. -/
  | linkLevelRetry (kind die unit part : Nat)
  /-- R407: When a domain is formed, the security units of each pair of linked packages establish a mutually authenticated SPDM session that encrypts the peer link. -/
  | domainFormation (links : List (Nat × Nat))
  /-- R408: Debug-block access carried in the owner session. -/
  | vendorDefinedRequest (p : Nat) (off : BitVec 16) (wr : Bool) (v : BitVec 64)
  /-- R312: Checks and stores a staged partition configuration. -/
  | configCommit (path : Path)
  /-- R312: Copies the stored configuration to the staging registers. -/
  | configRead (path : Path)
  /-- R407: A peer-link session or integrity failure takes the link down. -/
  | peerLinkFailure (link : Nat)
  /-- R316: Entropy source fails its health test and dealing stops. -/
  | entropyHealthFailure
  /-- R312: Package reset; boot applies the stored configuration. -/
  | packageReset
  /-- R448: Lid or substrate tamper mesh breaks. -/
  | tamperMeshBroken
  /-- R448: Voltage or clock leaves the security unit's limits. -/
  | voltageClockFault
  deriving DecidableEq, Repr

end Sys2Proof
end

