-- ==== Sys2Proof/Machine/State.lean ====
section
/-! DEFINITION. The state of the package as plain data: every register, table, queue and counter the spec gives the
K9, from the lanes of a group to the security unit, with State.reset. Each structure's docstring cites the rules that
name its fields. Absent things are Option or a shorter list; maps are Cells (Machine/Cells.lean). -/

namespace Sys2Proof.Machine

/-- DRAM and host memory: bytes by physical (or host bus) address; an unlisted address reads 0 (log entry 3). -/
abbrev Memory := List Host.Cell

/-- The byte an unlisted address of memory reads as. -/
abbrev Memory.unlisted : Byte := 0

/-- The canonical form of a memory. -/
abbrev Memory.wf (m : Memory) : Bool := Cells.wf Memory.unlisted m

/-- A set of lanes: bit l is lane l (R140). -/
abbrev Lanes := BitVec 64

/-! ### Fragments and groups -/

/-- R140 and the entries of the blocking words: what a blocked fragment waits for. -/
inductive Wait where
  /-- bar.wait (R192) -/
  | bar (nb : Nat) (phase : BitVec 32)
  /-- bar.sync whose arrival is counted (R190) -/
  | sync (nb : Nat) (phase : BitVec 32)
  /-- yield.bar; the PC already stands at the continuation (R199) -/
  | yieldBar (nb : Nat) (phase : BitVec 32)
  /-- tlwait (R197) -/
  | tl (t : Nat) (val : Word)
  /-- yield.tl (R199) -/
  | yieldTl (t : Nat) (val : Word)
  /-- an mma at the latch (R206) -/
  | mmaLatch
  /-- a cpy slice at the latch (R235), or a gxch -/
  | copyLatch
  /-- a .wait queue word (R180), which dequeues or not, and each participant's lane and queue, by ASID and header -/
  | queue (deq : Bool) (at_ : List (Nat × Nat × Nat))
  /-- scin (R221) -/
  | scin
  /-- send (R246) -/
  | send
  /-- an exchange word whose hand is short, since the given cycle, for n items of a stream of a pair (R239) -/
  | hand (since pair stream n : Nat)
  /-- a parked translation fault, since the given cycle, and the 4 KiB pages it waits on (R168, R357, R358) -/
  | parked (since : Nat) (pages : List Nat)
  /-- a store to a replicated page during its collapse (R289) -/
  | collapse
  /-- a trap to be delivered once the group's issued words are complete (R34, R169, R215, R250) -/
  | trap (code sub : Nat) (tpc tval : Word)
  deriving DecidableEq, Repr

/-- R140: the STATE of a fragment. -/
inductive FragSt where
  | ready
  | atJoin
  | atRegang
  | blocked (w : Wait)
  deriving DecidableEq, Repr

/-- R159, R162: an inv in progress: its address, the bracket register it names, the lanes it has taken up, the MODE.IMT
and each lane's target, read once when it issued, the lanes that have finished since it first issued, the body words it decoded, and
whether it has to issue again (after a trap or a restore). -/
structure InvRun where
  pc    : Word
  br    : Nat
  lanes : Lanes
  imt   : Bool
  tgts  : List Nat
  fin   : Lanes
  body  : List (Word × Instr)
  again : Bool
  deriving DecidableEq, Repr

/-- R140: one entry of the split table, with the scheduler's times (R11, R257), the unfinished participants of a word
that is parked or waits (R168, R180) and the inv in progress (R159). -/
structure Frag where
  ent   : Nat
  mask  : Lanes
  pc    : Word
  join  : Option Nat
  age   : Nat
  st    : FragSt
  wake  : Nat
  last  : Nat
  todo  : Option Lanes
  invIn : Option InvRun
  deriving DecidableEq, Repr

/-- R141, R152: a join record or regang record. -/
structure Join where
  id       : Nat
  regang   : Bool
  rc       : Word
  expect   : Lanes
  arrived  : Lanes
  parent   : Option Nat
  deriving DecidableEq, Repr

/-- R141, R145: an item of the held queue, with the cycle from which it may issue (R147). -/
structure Held where
  mask : Lanes
  pc   : Word
  join : Option Nat
  age  : Nat
  wake : Nat
  deriving DecidableEq, Repr

/-- R82, R155: the per-lane fields of a bracket register. -/
structure Bracket where
  lo     : Lane
  hi     : Lane
  ylo    : Lane
  yhi    : Lane
  iter   : BitVec 6
  status : BitVec 3
  deriving DecidableEq, Repr

/-- One register cell: a lane of a v register, an s register, or a lane of a predicate. -/
inductive Key where
  | v (n lane : Nat)
  | s (n : Nat)
  | p (n lane : Nat)
  deriving DecidableEq, Repr

/-- A value on its way to a register cell. -/
structure RegWrite where
  key : Key
  val : Word
  deriving DecidableEq, Repr

/-- R217: a scan configuration; kind as scfg's. -/
structure ScanCfg where
  kind : ScanKind
  d    : Nat
  aOfs : Nat
  bOfs : Nat
  hOfs : Nat
  pOfs : Nat
  deriving DecidableEq, Repr

/-- R30, R31, R217: a fixed-latency result in flight: ready cycle, writes and sticky flags, or an scfg's configuration. -/
structure Flight where
  ready  : Nat
  writes : List RegWrite
  flags  : BitVec 6
  cfg    : Option ScanCfg := none
  deriving DecidableEq, Repr

/-- A register whose variable-latency result is pending (R32): v registers for a set of lanes, an s register, or a
predicate. -/
inductive PendReg where
  | v (n : Nat) (lanes : Lanes)
  | s (n : Nat)
  | p (n : Nat)
  deriving DecidableEq, Repr

/-- R32, R169: a variable-latency result: the registers it marks pending, the values already returned, the flags it
raises (R75), the accesses still out, and the cycle at which it is written
once none is; lanes are those of its fragment at issue, and acq says that later accesses follow it (R185). -/
structure Pend where
  id     : Nat
  lanes  : Lanes
  regs   : List PendReg
  writes : List RegWrite
  flags  : BitVec 6
  left   : Nat
  due    : Nat
  acq    : Bool
  deriving DecidableEq, Repr

/-- R213: a word that waits to read a tile: its fragment and address, the tile, and the operations its scoreboard counted. -/
structure AfWait where
  ent  : Nat
  pc   : Word
  tile : Nat
  ords : List Nat
  deriving DecidableEq, Repr

/-- A group: its registers (R82), MODE, FLAGS, GSTAT and trap registers (R88-R93), split table and companions
(R140-R141), lane memory (R172), gang register (R201), scan configuration (R216), results in flight, flags
of engine operations that its timelines do not cover yet, by timeline and number (R75), the fragment that runs the trap
handler (R250), the inv that fragment left (R162), the cycle of the group's last issue (R257), the first cycle in which it may issue to
a vector pipe again (R256) and what its words that wait for a tile counted (R213). v is keyed 64·n + lane, p by predicate
number, b by 64·n + lane, bcfg by bracket number (MAXIT, TOL), depth by lane, lmem by 4096·lane + offset. -/
structure Group where
  role     : Role
  launched : Lanes
  exited   : Lanes
  v        : Cells Lane
  s        : Cells Word
  p        : Cells Lanes
  b        : Cells Bracket
  bcfg     : Cells (BitVec 6 × BitVec 6)
  mode     : BitVec 24
  flags    : BitVec 6
  rst      : Bool
  abt      : Bool
  pz       : Bool
  tcause   : BitVec 32
  tpc      : Word
  tval     : Word
  depth    : Cells Nat
  lmem     : Cells Byte
  gang     : BitVec 32
  scfg     : Option ScanCfg
  frags    : List Frag
  joins    : List Join
  held     : List Held
  flights  : List Flight
  pend     : List Pend
  eflags   : List (Nat × Word × BitVec 6)
  handler  : Option Nat
  left     : Option InvRun
  last     : Nat
  pipeAt   : Nat
  afWait   : List AfWait
  deriving DecidableEq, Repr

/-! ### Teams -/

/-- R187: a named barrier, with the times its watchdog runs from (R196): latest arrival, and whether the present stall
is already reported. fwd: the number of the arrival that the team has forwarded to the die combiner for the phase (R268). -/
structure Bar where
  phase  : BitVec 32
  ring   : Bool
  level  : BarLevel
  bind   : BarLevel
  expg0  : Nat
  expg1  : Nat
  expt0  : Nat
  expt1  : Nat
  xadd   : Nat
  arrg   : Nat
  arrt   : Nat
  drops  : Nat
  lastAt : Option Nat
  told   : Bool
  fwd    : Option Nat
  inited : Bool
  deriving DecidableEq, Repr

/-- R201, R206: a member's mma at the latch; ord is its place in the order in which words issue (R212). -/
structure MmaArr where
  grp   : Nat
  ent   : Nat
  tile  : Nat
  aDesc : Word
  bDesc : Word
  mode  : MmaMode
  rnd   : Rnd
  ftz   : Bool
  sat   : Bool
  gang  : BitVec 32
  at_   : Nat
  ord   : Nat
  deriving DecidableEq, Repr

/-- R207, R210, R211: what an accepted matrix operation does. -/
inductive MatKind where
  | mma (members : List MmaArr)
  | zero (tile : Nat)
  | load (tile : Nat) (desc : Word)
  | store (tile : Nat) (desc : Word)
  | convert (tile : Nat) (desc : Word) (fmt : AccFmt) (rnd : Rnd) (ftz : Bool) (dph : Nat)
  deriving DecidableEq, Repr

/-- R212, R214: an accepted matrix operation: its issuing groups with the places of their words in issue order, its tl2 number and its
typical completion. -/
structure MatOp where
  num  : Word
  grps : List (Nat × Nat)
  kind : MatKind
  due  : Nat
  deriving DecidableEq, Repr

/-- R228: a layout record. -/
structure Layout where
  fmt     : Nat
  w       : Nat
  rows    : Nat
  cols    : Nat
  gstride : Nat
  sstride : Nat
  gscale  : Nat
  sscale  : Nat
  deriving DecidableEq, Repr

/-- R233, R235: a slice of a bulk copy. -/
structure Slice where
  grp  : Nat
  ent  : Nat
  recAd : Word
  lay  : Layout
  g    : Word
  s    : Word
  s2g  : Bool
  bar  : Option Nat
  deriving DecidableEq, Repr

/-- R235-R237, R293: an accepted transfer of the copy engine: its slices, the units that it has still to move (global address,
scratchpad offset and bytes of each), its typical completion and the pages it waits on. -/
structure Xfer where
  num     : Word
  slices  : List Slice
  parts   : List (Word × Nat × Nat)
  due     : Nat
  waiting : List Nat
  seen    : List Nat
  deriving DecidableEq, Repr

/-- R226: what the scan unit has to perform. -/
inductive ScanKindOp where
  | run | fix
  deriving DecidableEq, Repr

/-- R220, R223, R226: an srun or sfix in issue order, with its tl3 number and what it read at issue. -/
structure ScanOp where
  kind : ScanKindOp
  num  : Word
  grp  : Nat
  cfg  : ScanCfg
  rnd  : Rnd
  ftz  : Bool
  cin  : Cells Lane
  cb   : Bool
  due  : Nat
  deriving DecidableEq, Repr

/-- R239-R244: what an exchange instruction computes. -/
inductive ExchKind where
  | mul | trunc (f : Nat) | sign | open_ | inp (own : Bool) | mat
  deriving DecidableEq, Repr

/-- R239, R242: an exchange that has consumed its serials: the word and its issuer, the package reset that its items were dealt after
(the number of the first key drawn since), the serial and lane of each participant
with the values x and y read at issue, destination register and pending result (none for gxch), the numbers it took on
tl4 and, for gxch, on tl1, the rounds sent so far and when the first was, the peer's words received as serial, round and
payload (round 0: gxch's own), gxch's scratchpad offsets and barrier, the units of its output area that it has still to write once
the peer's words are there and the cycle of its completion (R293), and the subcode and serial of a GATE trap it has still to take. -/
structure Exch where
  id     : Nat
  grp    : Nat
  ent    : Nat
  pc     : Word
  kind   : ExchKind
  k      : ZWidth
  pair   : Nat
  party  : Nat
  stream : Nat
  epoch  : Nat
  items  : List (Nat × Nat × Nat × Nat)
  d      : Nat
  pend   : Option Nat
  num    : Word
  num1   : Word
  rounds : Nat
  sentAt : Nat
  got    : List (Nat × Nat × List Word)
  ofs    : Nat × Nat × Nat
  bar    : Option Nat
  parts  : List (Nat × List Byte)
  whole  : Option Nat
  fail   : Option (Nat × Nat)
  deriving DecidableEq, Repr

/-- R246: a message on its way to its destination cluster. -/
structure Msg where
  id      : Nat
  seq     : Nat
  team    : Nat
  grp     : Nat
  ent     : Nat
  srcDie  : Nat
  srcClu  : Nat
  dst     : Word
  payload : List Byte
  due     : Nat
  deriving DecidableEq, Repr

/-- R247: a posted receive. -/
structure Recv where
  team   : Nat
  grp    : Nat
  pend   : Nat
  match_ : Word
  len    : Nat
  buf    : Nat
  anyt   : Bool
  anys   : Bool
  deriving DecidableEq, Repr

/-- R338, R358, R411: where a team stands. -/
inductive Residency where
  | resident
  /-- stopped issuing for a save or flush in progress -/
  | stopping
  | saved
  | flushed
  | terminated
  | retired
  deriving DecidableEq, Repr

/-- R356: a page fault that is not yet posted, or is held. -/
structure PageFault where
  va    : Word
  ce    : Bool
  fe    : Bool
  wr    : Bool
  sub   : Nat
  grp   : Nat
  deriving DecidableEq, Repr

/-- R341: a fault that a save holds until the restore: group, split-table entry, cause, subcode, TPC and TVAL. -/
abbrev HeldFault := Nat × Nat × Nat × Nat × Word × Word

/-- A team (R261): where it is placed, its groups, barriers, scratchpad, accumulator tiles (R82, keyed 4096·tile +
64·row + column), matrix, copy and scan state (R201, R216, R235), missing pages (R356-R357), exchanges, the marks that
forbid a flush (R339), its times (R337) and the faults a save holds (R341). -/
structure Team where
  id       : Nat
  seq      : Nat
  span     : Nat
  idx      : Nat
  half     : Nat
  die      : Nat
  core     : Nat
  res      : Residency
  groups   : List Group
  bars     : List Bar
  scratch  : Cells Byte
  acc      : Cells Lane
  latch    : List MmaArr
  latchAt  : Nat
  latchTold : Bool
  mats     : List MatOp
  copyLatch : List Slice
  copyAt   : Nat
  copyTold : Bool
  xfers    : List Xfer
  scanq    : List ScanOp
  aggH     : Cells Lane
  aggP     : Cells Lane
  cin      : Cells Lane
  cv       : Bool
  cs       : Bool
  cb       : Bool
  chainPos : Option Nat
  pages    : List (Nat × Nat)
  faults   : List PageFault
  exchs    : List Exch
  noFlush  : Bool
  start    : Nat
  since    : Nat
  heldFaults : List HeldFault
  deriving DecidableEq, Repr

/-! ### Memory system -/

/-- R274, R285: a translated location: its name (ASID, VA), and where it lives: frame address, key, memory type and peer
index of its leaf, and the leaf itself. -/
structure Loc where
  asid : Nat
  va   : Nat
  pa   : Nat
  key  : Nat
  mt   : Nat
  peer : Nat
  leaf : Word
  deriving DecidableEq, Repr

/-- R170, R174, R175, R179, R182, R184: what an operation does when it reaches its home: a store registers, a fence.rel
marks its place, the others are performed at the home bank. -/
inductive HomeFn where
  | store (bytes : List Byte)
  | mark
  | red (op : BredOp) (x : Nat)
  | bfma (op : BupdOp) (x a : Nat)
  | atom (op : AtomOp) (x x2 : Nat) (ret : Bool) (d : Nat)
  | enq (x : Nat) (wait : Bool) (p : Nat)
  | deq (d : Opr) (wait : Bool) (p : Nat)
  deriving DecidableEq, Repr

/-- R284, R286: an access on its way to its home, for one participant: the word it belongs to, who issued it (a stream n
counts as team 2^32 + n), its lane (none for a uniform word) and the lanes in whose program order it stands, the lanes
whose earlier accesses it follows as a release (R185), whether it acquires, and the result it fills. -/
structure HomeOp where
  id    : Nat
  word  : Nat
  team  : Nat
  grp   : Nat
  ent   : Nat
  core  : Nat
  pc    : Word
  lane  : Option Nat
  lanes : Lanes
  rel   : Lanes
  acq   : Bool
  loc   : Loc
  n     : Nat
  fn    : HomeFn
  pend  : Option Nat
  due   : Nat
  deriving DecidableEq, Repr

/-- R283: a copy of a 64-byte line in a core's L1 (core c of die d is 64·d + c), named by ASID and VA, with the frame (R378) and
the leaf it was filled through: its W, X, D, MT and RM bits (R345) and its owner tag (R375). -/
structure L1Line where
  core  : Nat
  asid  : Nat
  va    : Nat
  pa    : Nat
  leaf  : Word
  bytes : List Byte
  deriving DecidableEq, Repr

/-- R344, R364, R367: a line that a slice of a die holds: the way, the index of the requester that allocated it, its name, and
the frame and leaf it was filled through (R345, R375, R378); whether it is a replica. Its bytes are those registered in mem. -/
structure SliceLine where
  die     : Nat
  way     : Nat
  index   : Nat
  asid    : Nat
  va      : Nat
  pa      : Nat
  leaf    : Word
  replica : Bool
  deriving DecidableEq, Repr

/-- R177: a live queue; its fields stand in memory at its header. frames gives the frame address and key of each 4 KiB
page that its lines touch. -/
structure Queue where
  seq    : Nat
  asid   : Nat
  va     : Nat
  cap    : Nat
  frames : List (Nat × Nat)
  deriving DecidableEq, Repr

/-- R351, R352: a TLB entry of one controller of one die: pages of 2^sizeLog bytes from va, frame pa, leaf bits; ds holds the D
bit of each of the 16 pages of a merged entry (R350). -/
structure TlbEntry where
  die     : Nat
  ctl     : Nat
  asid    : Nat
  va      : Nat
  sizeLog : Nat
  leaf    : Word
  ds      : BitVec 16
  leafPa  : Nat
  deriving DecidableEq, Repr

/-- R352: a walk-cache entry: a non-leaf entry of a level with the VA bits at and above that level's index. -/
structure WalkEntry where
  die   : Nat
  ctl   : Nat
  asid  : Nat
  level : Nat
  tag   : Nat
  entry : Word
  pa    : Nat
  deriving DecidableEq, Repr

/-- R364, R365: a replica directory entry of a home die, with the frame of its page; acks holds the dies that must still
invalidate during a collapse. -/
structure Replica where
  id       : Nat
  home     : Nat
  asid     : Nat
  base     : Nat
  pa       : Nat
  sizeLog  : Nat
  dies     : List Nat
  collapse : Bool
  acks     : List Nat
  deriving DecidableEq, Repr

/-- R353: an invalidation in progress. -/
structure Inval where
  part    : Nat
  asid    : Nat
  va      : Nat
  sizeLog : Nat
  whole   : Bool
  due     : Nat
  deriving DecidableEq, Repr

/-! ### Barriers above the team, chain, messages -/

/-- R268: what travels between the levels of a barrier: a team's arrival (or its drop) to its die entry, a half's arrival to
the other half's entry, a die entry's arrival to the package entry, and the release of a half, with the numbers of the arrivals it
answers. -/
inductive CombTo where
  | die (span half team : Nat) (drop : Bool)
  | cross (span half : Nat)
  | pkg (span half : Nat)
  | release (span half : Nat) (served : List Nat)
  deriving DecidableEq, Repr

structure CombMsg where
  id  : Nat
  seq : Nat
  idx : Nat
  to_ : CombTo
  due : Nat
  deriving DecidableEq, Repr

/-- R267, R268: a die combiner entry of one span half and barrier index: the teams that have arrived with the numbers of their
arrivals, the other half's arrival, and whether its own completion has been forwarded to the other half, or to the package
entry. The package entry of a launch's index has pkg set; its arrivals are those of halves 2·span + half. -/
structure Combiner where
  seq     : Nat
  span    : Nat
  half    : Nat
  pkg     : Bool
  idx     : Nat
  arrived : List (Nat × Nat)
  other   : Bool
  fwd     : Bool
  pfwd    : Bool
  deriving DecidableEq, Repr

/-- R299: the buffer entry of one chain position. -/
structure Carry where
  seq  : Nat
  pos  : Nat
  val  : Cells Lane
  dc   : Nat
  cb   : Bool
  full : Bool
  due  : Nat
  deriving DecidableEq, Repr

/-- R225, R305: a position that has broken. -/
structure Broken where
  seq : Nat
  pos : Nat
  deriving DecidableEq, Repr

/-! ### Streams, contexts, launches -/

/-- R322: the STATE of a stream. -/
inductive StreamSt where
  | idle
  | running
  | waiting (ctx tl : Nat) (val : Word)
  | faulted
  deriving DecidableEq, Repr

/-- R322, R342: a control-core stream. -/
structure Stream where
  st     : StreamSt
  s      : Cells Word
  pc     : Word
  tcause : BitVec 32
  tpc    : Word
  tval   : Word
  cause  : Nat
  sub    : Nat
  smtpc  : Word
  smtval : Word
  drop   : Bool
  arg    : Word
  ctab   : Word
  pseq   : Word
  part   : Nat
  asid   : Nat
  deps   : List (Nat × Nat × Word)
  wake   : Nat
  pend   : List Pend
  flights : List Flight
  deriving DecidableEq, Repr

/-- R324, R325: a context; next holds the next number of engine timelines tl1 to tl5, done their completed numbers
above the timeline's value. -/
structure Ctx where
  handle : Nat
  part   : Nat
  stream : Nat
  signal : Bool
  tls    : List Word
  nextNo : List Word
  done   : List (Nat × Word)
  fqb    : Nat
  fqn    : Nat
  mirr   : Nat
  mse    : Bool
  vec    : Nat
  posted : Nat
  deriving DecidableEq, Repr

/-- R327: the fields of a launch record. -/
structure Rec where
  entry  : Word
  lanes  : Nat
  groups : Nat
  wc     : Nat
  vregs  : Nat
  scr    : Nat
  lmem   : Nat
  roles  : Word
  spans  : Nat
  half   : Nat
  teams  : Nat
  dbg    : Bool
  chain  : Bool
  chk    : Bool
  rst    : Bool
  resid  : Bool
  eclass : Nat
  prio   : Nat
  mode   : BitVec 24
  dur    : Nat
  plat   : Nat
  park   : Nat
  wdog   : Nat
  keyh   : Word
  sigtl  : Nat
  ctx    : Nat
  sigval : Word
  args   : Word
  traph  : Word
  deriving DecidableEq, Repr

/-- R329-R341: where a launch stands. -/
inductive LaunchSt where
  /-- validated; dependences not yet met -/
  | waiting
  | ready
  | retired
  deriving DecidableEq, Repr

/-- R336-R338: the action of a pre-emption request on one span. -/
inductive Action where
  | drain (until_ bound : Nat)
  | save
  | flush
  deriving DecidableEq, Repr

/-- R265, R338, R340: one span of a launch: not yet placed, its teams resident, saved, or finished; a request and its
action; the time of its latest restore; the die whose priority request the action answers (R336). -/
inductive SpanSt where
  | unplaced | resident | saved | flushed | done
  deriving DecidableEq, Repr

/-- R338, R358, R335: why a span was saved, which says when it may be restored. -/
inductive SaveWhy where
  | asked | switched | idle
  deriving DecidableEq, Repr

structure Span where
  idx     : Nat
  st      : SpanSt
  action  : Option Action
  due     : Nat
  why     : SaveWhy
  restoredAt : Option Nat
  byDie   : Option Nat := none
  deriving DecidableEq, Repr

/-- A launch (R327-R341, R374, R381): its record and names, its status so far, its dependences, its spans, its save
counter. -/
structure Launch where
  seq     : Nat
  lpc     : Word
  stream  : Nat
  part    : Nat
  asid    : Nat
  r       : Rec
  argv    : List Word
  status  : Nat
  st      : LaunchSt
  deps    : List (Nat × Nat × Word)
  readyAt : Nat
  placedAt : Option Nat
  spans   : List Span
  scnt    : Nat
  aged    : Nat
  front   : Bool
  throttled : Bool
  started : Bool
  deriving DecidableEq, Repr

/-! ### Shares -/

/-- R311: a hand stream of a pair. -/
structure StreamCfg where
  kind  : Nat
  k     : Nat
  f     : Nat
  owner : Nat
  high  : Nat
  deriving DecidableEq, Repr

/-- R310: a share pair as configured at boot. -/
structure PairCfg where
  p0      : Nat
  p1      : Nat
  tout    : Nat
  dcores  : Nat
  streams : List StreamCfg
  deriving DecidableEq, Repr

/-- R314-R316: the Dealer's state of one stream of one pair: hands dealt, each party's NEXT, burned serials, disabled. -/
structure HandStream where
  pair   : Nat
  stream : Nat
  hands  : Nat
  next0  : Nat
  next1  : Nat
  burned : List Nat
  off    : Bool
  deriving DecidableEq, Repr

/-- R318: a word in flight or held at a port: the party that sent it, its tag (kind, width, OWN) and payload; round counts
from 1; abort marks an ABORT (R244). -/
structure StraitWord where
  id      : Nat
  pair    : Nat
  stream  : Nat
  serial  : Nat
  party   : Nat
  tag     : Nat × Nat × Bool
  round   : Nat
  payload : List Word
  abort   : Bool
  arrived : Bool
  due     : Nat
  deriving DecidableEq, Repr

/-! ### Security unit -/

/-- R370: the state of a key slot. -/
inductive SlotSt where
  | free | live | retiring
  deriving DecidableEq, Repr

/-- R370: a key slot; key numbers its key, whose bytes are drawn by that number, or are raw if it was imported. -/
structure KeySlot where
  st   : SlotSt
  part : Nat
  gen  : Nat
  key  : Nat
  raw  : List Byte
  deriving DecidableEq, Repr

/-- R380, R381: an entry of a save table: the span, the image addresses of its teams, and CNT. The
saved teams' own states stay in State.teams, marked saved; an image that passes its checks is one the device wrote. -/
structure SaveEntry where
  part  : Nat
  seq   : Nat
  span  : Nat
  cnt   : Nat
  imgs  : List (Nat × Nat)
  deriving DecidableEq, Repr

/-- R378: a SCRUB in progress. -/
structure Scrub where
  part    : Nat
  slot    : Nat
  base    : Nat
  sizeLog : Nat
  due     : Nat
  deriving DecidableEq, Repr

/-- R396: an open copy-in stream. -/
structure CinStream where
  part : Nat
  sid  : Nat
  slot : Nat
  gen  : Nat
  last : Nat
  key  : List Byte
  deriving DecidableEq, Repr

/-- R393: the TDISP states. -/
inductive Tdi where
  | unlocked | locked | run | error
  deriving DecidableEq, Repr

/-- R398-R403: a copy-in descriptor that has been fetched: its place in the ring, the host address it was fetched from, its tl5
number, its context, its bytes and
how the host answers the read of its source; once its checks are made, its status, the places of its destination and the units
it has still to write there (R293); whether it is complete, and whether its queue has been disabled since. -/
structure CinDesc where
  k      : Nat
  ring   : Nat
  num    : Word
  ctx    : Nat
  raw    : List Byte
  err    : HostErr
  status : Option Nat
  locs   : List (Loc × Nat)
  units  : List (Loc × List Byte)
  due    : Nat
  done   : Bool
  old    : Bool
  deriving DecidableEq, Repr

/-- R398: a partition's copy-in queue. -/
structure CinQueue where
  base  : Word
  cfg   : Word
  tail  : Nat
  head  : Nat
  why   : Nat
  stop  : Bool
  fetch : Nat
  descs : List CinDesc
  deriving DecidableEq, Repr

/-- R389, R395: an SPDM session: PF0's or a partition's owner session; its progress, key and last wrap number. -/
structure Session where
  path     : Path
  id       : Nat
  owner    : Option Nat
  done     : Bool
  key      : Nat
  lastSeq  : Option Nat
  keyPhase : Nat
  deriving DecidableEq, Repr

/-- R389: how far the connection on one function's mailbox has got. -/
structure Mailbox where
  path  : Path
  step  : Nat
  deriving DecidableEq, Repr

/-- R426: a metered region; closing marks a CLOSE in progress. -/
structure Region where
  id      : Nat
  part    : Nat
  asid    : Nat
  base    : Nat
  limit   : Nat
  count   : Nat
  rnum    : Nat
  prev    : BitVec 256
  lastCount : Nat
  closing : Bool
  latest  : List Byte
  deriving DecidableEq, Repr

/-- R447: an event of the alarm log. -/
structure AlarmEvent where
  clk : Nat
  src : Nat
  arg : Nat
  lvl : Nat
  deriving DecidableEq, Repr

/-- R446: a record of an audit queue. -/
structure AuditRec where
  part : Nat
  aqn  : Nat
  clk  : Nat
  kind : Nat
  path : Nat
  off  : Nat
  deriving DecidableEq, Repr

/-- The security unit: key slots (R370), save tables (R380), scrubs (R378), copy-in streams and queues (R396-R398), TDI
states (R393), sessions (R389), regions, reports and import list (R426-R434), alarms and audit (R445-R449), erased keys
(R449), partitions whose STOP_INTERFACE is under way, links whose IDE stream failed (R391), the number of keys drawn and the number of the first key drawn since package reset (the device memory, sealing,
image and handle keys come first), IDE per link (R391). store holds each region's latest committed report, as the on-package store keeps
it, storeCtr its write counter, and storeTags the counter and tag of the write of each record (R434). defining holds the regions whose
DEFINE or IMPORT waits for its invalidation, with the kind of their first report (R427), and counted the partitions whose MRES holds a
COUNT (R445). -/
structure Sec where
  slots    : Cells KeySlot
  drawn    : Nat
  epoch    : Nat
  saves    : List SaveEntry
  scrubs   : List Scrub
  cins     : List CinStream
  queues   : List CinQueue
  tdi      : List Tdi
  sessions : List Session
  mail     : List Mailbox
  ide      : List Bool
  regions  : List Region
  store    : List Region
  imports  : List (BitVec 256)
  storeCtr : Nat
  storeTags : List (Nat × Nat × BitVec 256)
  defining : List (Region × Nat)
  counted  : List Nat
  periodAt : List Nat
  alarm    : Nat
  log      : List AlarmEvent
  audit    : List AuditRec
  src8At   : Option Nat
  erased   : Bool
  refused  : Bool
  stopping : List Nat
  ideDead  : List Nat
  dgate    : List (Nat × Nat)
  scrubCore : List (Nat × Nat × Nat × Nat)
  deriving DecidableEq, Repr

/-! ### Debug, power, host -/

/-- R411, R412: an event that stops a launch, before the stop takes effect; of one met by a fragment, also the fragment's AGE, the
address of its word, and what the event wrote to its group's trap registers and they held before, for an event of the same cycle that
comes before it. -/
structure StopEvent where
  reason : Nat
  idx    : Nat
  at_    : Nat
  frag   : Option (Nat × Nat × Nat × Nat)
  age    : Nat := 0
  pc     : Word := 0
  wrote  : BitVec 32 × Word × Word := (0, 0, 0)
  undo   : BitVec 32 × Word × Word := (0, 0, 0)
  deriving DecidableEq, Repr

/-- R421: a sampled access on its way: its team and group, the word and the result it belongs to, its lane, the words of its record that
are known at issue, what serves it, and whether that lies on another die. -/
structure Sample where
  team  : Nat
  grp   : Nat
  word  : Nat
  pend  : Nat
  lane  : Nat
  head  : List Word
  clk   : Nat
  die   : Nat
  level : Nat
  far   : Bool
  deriving DecidableEq, Repr

/-- R409-R424: the debug block of one partition. Its plain registers are in the host register file. pass holds a fragment
that may issue its stopped word once unchecked (R415), step the fragment a STEP lets act (R416) and stepEnd the reason with
which the step ends once it has acted, leave the write of DBGATT that takes effect at its end, held the commands held by
an engine-command breakpoint (R414), susp a termination held by SOF (R417). -/
structure Dbg where
  seq     : Nat
  path    : Path
  att     : Bool
  stopped : Bool
  stopAt  : Nat
  reason  : Nat
  idx     : Nat
  fsel    : Option (Nat × Nat × Nat × Nat)
  pending : Option StopEvent
  pass    : Option (Nat × Nat × Nat × Nat)
  step    : Option (Nat × Nat × Nat × Nat)
  held    : List (Nat × Nat × Word)
  susp    : List (Nat × Nat × Nat × Nat × Word × Word)
  trpos   : Nat
  trdrop  : Nat
  smppos  : Nat
  smpdrop : Nat
  counts  : List Nat
  coreCounts : Cells Nat
  samples : List Sample
  stepEnd : Option Nat
  leave   : Option (Nat × Path)
  deriving DecidableEq, Repr

/-- R441, R442: a voltage and frequency island: state A0-A3, level F0-F3, the cycle since which it has been idle, and a
wake in progress. -/
structure Island where
  st     : Nat
  f      : Nat
  idleAt : Option Nat
  waking : Option Nat
  deriving DecidableEq, Repr

/-- R361, R438-R440, R434: what fuses and the on-package store hold across a package reset; burnt is the die of an accepted
field swap, which takes effect at the next reset. -/
structure Fuses where
  removed : Nat
  spareOk : Bool
  used    : Bool
  swapped : Option Nat
  burnt   : Option Nat
  config  : Option (List Word)
  otpGen  : Nat
  deriving DecidableEq, Repr

/-- R439: a die reset in progress. -/
structure DieReset where
  die   : Nat
  drain : Nat
  due   : Nat
  drained : Bool
  deriving DecidableEq, Repr

/-- R326, R389, R403, R291, R406: what the device has sent: an MSI-X message, a posted write to host memory, an SPDM
response, the answer to a register or physical read, the answer to a peer, or a peer request of its own. -/
inductive Out where
  | msix (part vec : Nat)
  | spdm (path : Path) (code : Nat) (body : List Byte)
  | value (path : Path) (v : Word)
  | bytes (poisoned : Bool) (data : List Byte)
  | peerAnswer (dst : Nat) (ok : Bool) (data : List Byte)
  | peerSend (link : Nat) (req : PeerReq)
  | peerForward (link : Nat) (req : PeerReq)
  deriving DecidableEq, Repr

/-- R331: what a die's dispatcher found when it last placed nothing further: the dies whose resources its first candidate could use, what
held those resources, and the spans it then passed over, by sequence number and span. -/
structure DiePass where
  die     : Nat
  dies    : List Nat
  res     : List (Nat × Nat)
  pending : List (Nat × Nat)
  deriving DecidableEq, Repr

/-! ### The package -/

/-- Which issuer exec acts for: the fragment of a group of a team (identifiers and split-table entry), the same fragment
running a body word of its inv (R159), or a stream. -/
inductive Who where
  | none
  | frag (team grp ent : Nat)
  | body (team grp ent : Nat)
  | stream (n : Nat)
  deriving DecidableEq, Repr

/-- The whole machine. nonce, inbox and cur are the model's own fields (log entries 1 and 2): the counter the free values
are applied to, the events that happen next, and the issuer of the word exec runs. hregs is the host register file
(R3) keyed by block and offset; wayChanges holds the masks that have not yet taken effect (R368), slotOf is the key slot each DRAM line is stored under (R376); l1 holds the unowned copies of
the cores' L1s (R283), slices the lines that the slices hold (R344), peerMem the bytes of peers' memories as this package has written or last
read them, plus one, keyed 2^48·peer + address (R290), homeOps the accesses on their way to
their homes in issue order, pfHeld the page-fault records not yet posted, by partition (R356); poisoned gives, per 64-byte line, the bytes not rewritten
since an uncorrectable error (R436). inForce is the configuration record in force since the last package reset, and confRefused tells that
the stored one was refused (R309, R312); pipes gives, per core, the first cycle in which each vector pipe and the scalar unit is free (R256), keyed
4·(64·die + core) + unit; passes what each die's dispatcher last found blocked (R331); winAt and flits are the start of the link-share window and
the flits of each launch in it, keyed 8·sequence number + die left (R334). -/
structure State where
  nonce     : Nat
  inbox     : List Instr
  cur       : Who
  clock     : Nat
  mem       : Memory
  hostMem   : Memory
  slotOf    : Cells Nat
  poisoned  : Cells (BitVec 64)
  teams     : List Team
  nextId    : Nat
  l1        : List L1Line
  slices    : List SliceLine
  peerMem   : Cells Nat
  homeOps   : List HomeOp
  queues    : List Queue
  tlb       : List TlbEntry
  walks     : List WalkEntry
  replicas  : List Replica
  invals    : List Inval
  combiners : List Combiner
  combMsgs  : List CombMsg
  chain     : List Carry
  broken    : List Broken
  msgs      : List Msg
  overflow  : List Msg
  recvs     : List Recv
  pfHeld    : List (Nat × List Word)
  streams   : List Stream
  ctxs      : List Ctx
  launches  : List Launch
  nextSeq   : Nat
  diemap    : List Nat
  pairs     : List PairCfg
  hands     : List HandStream
  words     : List StraitWord
  dealing   : Bool
  sec       : Sec
  dbg       : List Dbg
  islands   : List Island
  ebudget   : List Nat
  fuses     : Fuses
  inForce   : Option (List Word)
  confRefused : Bool
  dieResets : List DieReset
  wayChanges : List (Nat × Nat × Nat)
  peerDown  : List Nat
  hregs     : Cells Word
  shared    : Cells Nat
  pipes     : Cells Nat
  passes    : List DiePass
  winAt     : Nat
  flits     : Cells Nat
  out       : List Out
  deriving DecidableEq, Repr

/-! ### Reset -/

/-- R322: a stream after package reset. -/
def Stream.reset : Stream :=
  { st := .idle, s := [], pc := 0, tcause := 0, tpc := 0, tval := 0, cause := 0, sub := 0, smtpc := 0, smtval := 0,
    drop := false, arg := 0, ctab := 0, pseq := 0, part := 0, asid := 0, deps := [], wake := 0, pend := [],
    flights := [] }

/-- R398: a copy-in queue after package reset. -/
def CinQueue.reset : CinQueue :=
  { base := 0, cfg := 0, tail := 0, head := 0, why := 0, stop := false, fetch := 0, descs := [] }

/-- R409: a debug block after package reset. -/
def Dbg.reset : Dbg :=
  { seq := 0, path := .pf0 0, att := false, stopped := false, stopAt := 0, reason := 0, idx := 0, fsel := some (0, 0, 0, 0), pending := none,
    pass := none, step := none, held := [], susp := [], trpos := 0, trdrop := 0, smppos := 0, smpdrop := 0,
    counts := List.replicate 8 0, coreCounts := [], samples := [], stepEnd := none, leave := none }

/-- The security unit after package reset: every slot FREE with GEN 0 (R370), no save entry (R381), no stream (R397),
TDIs CONFIG_UNLOCKED (R393), no session, no region (an empty store: log entry 5), no alarm (R447); the IDE streams are
not secure (log entry 6). -/
def Sec.reset : Sec :=
  { slots := [], drawn := 4, epoch := 0, saves := [], scrubs := [], cins := [], queues := List.replicate 4 CinQueue.reset,
    tdi := List.replicate 4 .unlocked, sessions := [], mail := [], ide := [false, false], regions := [], store := [],
    imports := [], storeCtr := 0, storeTags := [], defining := [], counted := [], periodAt := [0, 0, 0, 0], alarm := 0, log := [], audit := [], src8At := none,
    erased := false, refused := false, stopping := [], ideDead := [], dgate := [], scrubCore := [] }

/-- R442: islands 0 to 26 active at level F0, islands 27 to 29 held in A3. -/
def islandsReset : List Island :=
  List.replicate 27 ⟨0, 0, none, none⟩ ++ List.replicate 3 ⟨3, 0, none, none⟩

/-- The fuses and the on-package store as log entries 4 and 5 choose them. -/
def Fuses.default : Fuses :=
  { removed := 8, spareOk := true, used := false, swapped := none, burnt := none, config := none, otpGen := 0 }

/-- The machine right after package reset. A package whose store holds no valid record boots as one partition of all
eight dies with no share pair (R312). Registers the spec gives no reset value for hold what the log entries name. -/
def State.reset : State :=
  { nonce := 0, inbox := [], cur := .none, clock := 0, mem := [], hostMem := [], slotOf := [], poisoned := [],
    teams := [], nextId := 0, l1 := [], slices := [], peerMem := [], homeOps := [], queues := [], tlb := [], walks := [],
    replicas := [], invals := [], combiners := [], combMsgs := [], chain := [], broken := [], msgs := [], overflow := [], recvs := [], pfHeld := [],
    streams := List.replicate 8 Stream.reset, ctxs := [], launches := [], nextSeq := 1,
    diemap := List.replicate 8 0, pairs := [], hands := [], words := [], dealing := true, sec := Sec.reset,
    dbg := List.replicate 4 Dbg.reset, islands := islandsReset, ebudget := List.replicate 8 48,
    fuses := Fuses.default, inForce := none, confRefused := false, dieResets := [], wayChanges := [], peerDown := List.range 12, hregs := [],
    shared := [], pipes := [], passes := [], winAt := 0, flits := [], out := [] }

/-! ### How a step can stop -/

/-- Faults: the machine stops. -/
inductive Fault where
  /-- exec is asked to run an instruction word although no fragment or stream is issuing it; raised by every word's
  meaning when State.cur names no issuer. Safe: the step function always names one. -/
  | noIssuer
  deriving DecidableEq, Repr

/-- Refusals: the model gives no meaning. -/
inductive Refusal where
  /-- The instruction has no meaning in the model yet; raised by exec's own arm only. Safe. -/
  | notModelled (mnemonic : String)
  deriving DecidableEq, Repr

end Sys2Proof.Machine
end

