-- ==== Sys2Proof/Machine/Bits.lean ====
section
/-! DEFINITION. Bit fields, extensions, byte order and lane sets: the small helpers every other file of the machine uses. -/

namespace Sys2Proof.Machine

/-- R5: the low n bits of x, sign-extended to 64 bits (n up to 64). -/
def sext (x n : Nat) : Word :=
  let y := x % 2 ^ n
  if n = 0 then 0 else if y < 2 ^ (n - 1) then BitVec.ofNat 64 y else BitVec.ofNat 64 (2 ^ 64 - (2 ^ n - y))

/-- R5: the low n bits of x, zero-extended to 64 bits. -/
def zext (x n : Nat) : Word := BitVec.ofNat 64 (x % 2 ^ n)

/-- R99: the w-bit pattern x read as a signed integer. -/
def sInt (w x : Nat) : Int :=
  let y := x % 2 ^ w
  if y < 2 ^ (w - 1) then Int.ofNat y else Int.ofNat y - Int.ofNat (2 ^ w)

/-- The residue of an integer modulo 2^w. -/
def wrap (w : Nat) (x : Int) : Nat := (x % (2 ^ w : Nat)).toNat

/-- Bits [hi : lo] of a number. -/
def bits (x hi lo : Nat) : Nat := x / 2 ^ lo % 2 ^ (hi + 1 - lo)

/-- Bits [hi : lo] of a word. -/
def field (x : Word) (hi lo : Nat) : Nat := bits x.toNat hi lo

/-- Bit j of a number. -/
def bit (x j : Nat) : Bool := x / 2 ^ j % 2 == 1

/-- R8: the number whose little-endian bytes are given. -/
def leNat : List Byte → Nat
  | [] => 0
  | b :: rest => b.toNat + 256 * leNat rest

/-- R8: the low n bytes of a number, the least significant first. -/
def leBytes : Nat → Nat → List Byte
  | 0, _ => []
  | n + 1, x => BitVec.ofNat 8 x :: leBytes n (x / 256)

/-- The n bytes of a number, the most significant first. -/
def beBytes (n x : Nat) : List Byte := (leBytes n x).reverse

/-- The lanes of a set, in ascending order. -/
def laneList (W : Nat) (m : Lanes) : List Nat := (List.range W).filter (fun l => m.getLsbD l)

/-- The set of one lane. -/
def laneBit (l : Nat) : Lanes := BitVec.ofNat 64 (2 ^ l)

/-- The set of the lanes that p selects. -/
def laneSet (W : Nat) (p : Nat → Bool) : Lanes :=
  (List.range W).foldl (fun m l => if p l then m ||| laneBit l else m) 0

/-- The lanes 0 to n - 1. -/
def lanesBelow (n : Nat) : Lanes := BitVec.ofNat 64 (2 ^ n - 1)

/-- The lowest lane of a set. -/
def lowLane (W : Nat) (m : Lanes) : Option Nat := (List.range W).find? (fun l => m.getLsbD l)

/-- R8: aligned to n bytes. -/
def aligned (a n : Nat) : Bool := a % n == 0

/-- The first n entries of a list replaced at index k by f. -/
def modNth {α : Type} (l : List α) (k : Nat) (f : α → α) : List α := l.modify k f

end Sys2Proof.Machine
end

