-- ==== Sys2Proof/Machine/Crypto.lean ====
section
/-! DEFINITION. The algorithms the spec names: AES-256, its XTS, CMAC and GCM modes (R229, R376, R384, R400), the counter-mode
KDF of R384 and SHA-256 (R429). Their definitions are those of the standards that bear these names (PRESUMED, log entry 7). -/

namespace Sys2Proof.Machine

/-! ### AES-256 -/

/-- The S-box. -/
def aesSbox : List Nat :=
    [0x63, 0x7C, 0x77, 0x7B, 0xF2, 0x6B, 0x6F, 0xC5, 0x30, 0x01, 0x67, 0x2B, 0xFE, 0xD7, 0xAB, 0x76] ++
    [0xCA, 0x82, 0xC9, 0x7D, 0xFA, 0x59, 0x47, 0xF0, 0xAD, 0xD4, 0xA2, 0xAF, 0x9C, 0xA4, 0x72, 0xC0] ++
    [0xB7, 0xFD, 0x93, 0x26, 0x36, 0x3F, 0xF7, 0xCC, 0x34, 0xA5, 0xE5, 0xF1, 0x71, 0xD8, 0x31, 0x15] ++
    [0x04, 0xC7, 0x23, 0xC3, 0x18, 0x96, 0x05, 0x9A, 0x07, 0x12, 0x80, 0xE2, 0xEB, 0x27, 0xB2, 0x75] ++
    [0x09, 0x83, 0x2C, 0x1A, 0x1B, 0x6E, 0x5A, 0xA0, 0x52, 0x3B, 0xD6, 0xB3, 0x29, 0xE3, 0x2F, 0x84] ++
    [0x53, 0xD1, 0x00, 0xED, 0x20, 0xFC, 0xB1, 0x5B, 0x6A, 0xCB, 0xBE, 0x39, 0x4A, 0x4C, 0x58, 0xCF] ++
    [0xD0, 0xEF, 0xAA, 0xFB, 0x43, 0x4D, 0x33, 0x85, 0x45, 0xF9, 0x02, 0x7F, 0x50, 0x3C, 0x9F, 0xA8] ++
    [0x51, 0xA3, 0x40, 0x8F, 0x92, 0x9D, 0x38, 0xF5, 0xBC, 0xB6, 0xDA, 0x21, 0x10, 0xFF, 0xF3, 0xD2] ++
    [0xCD, 0x0C, 0x13, 0xEC, 0x5F, 0x97, 0x44, 0x17, 0xC4, 0xA7, 0x7E, 0x3D, 0x64, 0x5D, 0x19, 0x73] ++
    [0x60, 0x81, 0x4F, 0xDC, 0x22, 0x2A, 0x90, 0x88, 0x46, 0xEE, 0xB8, 0x14, 0xDE, 0x5E, 0x0B, 0xDB] ++
    [0xE0, 0x32, 0x3A, 0x0A, 0x49, 0x06, 0x24, 0x5C, 0xC2, 0xD3, 0xAC, 0x62, 0x91, 0x95, 0xE4, 0x79] ++
    [0xE7, 0xC8, 0x37, 0x6D, 0x8D, 0xD5, 0x4E, 0xA9, 0x6C, 0x56, 0xF4, 0xEA, 0x65, 0x7A, 0xAE, 0x08] ++
    [0xBA, 0x78, 0x25, 0x2E, 0x1C, 0xA6, 0xB4, 0xC6, 0xE8, 0xDD, 0x74, 0x1F, 0x4B, 0xBD, 0x8B, 0x8A] ++
    [0x70, 0x3E, 0xB5, 0x66, 0x48, 0x03, 0xF6, 0x0E, 0x61, 0x35, 0x57, 0xB9, 0x86, 0xC1, 0x1D, 0x9E] ++
    [0xE1, 0xF8, 0x98, 0x11, 0x69, 0xD9, 0x8E, 0x94, 0x9B, 0x1E, 0x87, 0xE9, 0xCE, 0x55, 0x28, 0xDF] ++
    [0x8C, 0xA1, 0x89, 0x0D, 0xBF, 0xE6, 0x42, 0x68, 0x41, 0x99, 0x2D, 0x0F, 0xB0, 0x54, 0xBB, 0x16]

def sub1 (x : Nat) : Nat := aesSbox.getD x 0

/-- Multiplication by x in GF(2^8). -/
def xtime (a : Nat) : Nat := if a < 128 then 2 * a else (2 * a) % 256 ^^^ 0x1B

/-- A word of four bytes with each byte substituted. -/
def subWord (w : List Nat) : List Nat := w.map sub1

def xorList (a b : List Nat) : List Nat := List.zipWith (fun x y => x ^^^ y) a b

/-- The key schedule: fuel words after the first eight, latest first; i is the index of the next word. -/
def aesExpand : Nat → Nat → Nat → List (List Nat) → List (List Nat)
  | 0, _, _, ws => ws
  | fuel + 1, i, rcon, ws =>
    let last := ws.headD []
    let back := ws.getD 7 []
    let t :=
      if i % 8 = 0 then xorList (subWord (last.drop 1 ++ last.take 1)) [rcon, 0, 0, 0]
      else if i % 8 = 4 then subWord last
      else last
    aesExpand fuel (i + 1) (if i % 8 = 0 then xtime rcon else rcon) (xorList back t :: ws)

/-- The round keys of a 32-byte key, 16 bytes each. -/
def aesKeys (key : List Nat) : List (List Nat) :=
  let ws := (aesExpand 52 8 1 ((List.range 8).map (fun j => (key.drop (4 * j)).take 4)).reverse).reverse.flatten
  (List.range 15).map (fun r => (ws.drop (16 * r)).take 16)

/-- Byte j of the state (columns of four) after ShiftRows. -/
def shiftRows (s : List Nat) : List Nat := (List.range 16).map (fun j => s.getD ((j + 4 * (j % 4)) % 16) 0)

def mixColumn (c : List Nat) : List Nat :=
  (List.range 4).map (fun j =>
    let a (k : Nat) : Nat := c.getD ((j + k) % 4) 0
    xtime (a 0) ^^^ (xtime (a 1) ^^^ a 1) ^^^ a 2 ^^^ a 3)

def mixColumns (s : List Nat) : List Nat := (List.range 4).flatMap (fun c => mixColumn ((s.drop (4 * c)).take 4))

/-- One 16-byte block under expanded keys. -/
def aesWith (ks : List (List Nat)) (blk : List Nat) : List Nat :=
  let s := (List.range 13).foldl (fun s r => xorList (mixColumns (shiftRows (s.map sub1))) (ks.getD (r + 1) []))
    (xorList blk (ks.getD 0 []))
  xorList (shiftRows (s.map sub1)) (ks.getD 14 [])

/-- AES-256 of one block under a 32-byte key. -/
def aes256 (key blk : List Nat) : List Nat := aesWith (aesKeys key) blk

def unsub1 (x : Nat) : Nat := aesSbox.idxOf x

def unshiftRows (s : List Nat) : List Nat := (List.range 16).map (fun j => s.getD ((j + 16 - 4 * (j % 4)) % 16) 0)

def unmixColumn (c : List Nat) : List Nat :=
  (List.range 4).map (fun j =>
    let a (k : Nat) : Nat := c.getD ((j + k) % 4) 0
    let d (k n : Nat) : Nat := Nat.repeat xtime n (a k)
    (d 0 3 ^^^ d 0 2 ^^^ d 0 1) ^^^ (d 1 3 ^^^ d 1 1 ^^^ a 1) ^^^ (d 2 3 ^^^ d 2 2 ^^^ a 2) ^^^ (d 3 3 ^^^ a 3))

def unmixColumns (s : List Nat) : List Nat := (List.range 4).flatMap (fun c => unmixColumn ((s.drop (4 * c)).take 4))

/-- The inverse of one block under expanded keys. -/
def aesUndo (ks : List (List Nat)) (blk : List Nat) : List Nat :=
  let s := (List.range 13).foldl (fun s r => (unshiftRows (unmixColumns (xorList s (ks.getD (13 - r) [])))).map unsub1)
    ((unshiftRows (xorList blk (ks.getD 14 []))).map unsub1)
  xorList s (ks.getD 0 [])

/-! ### XTS -/

/-- A number as 16 bytes, the least significant first. -/
def le16 (x : Nat) : List Nat := (leBytes 16 x).map BitVec.toNat

/-- The blocks of a data unit, each between two additions of its tweak; the tweak doubles from block to block. -/
def xtsBlocks (f : List Nat → List Nat) : Nat → Nat → List Nat → List Nat
  | 0, _, _ => []
  | fuel + 1, t, bs =>
    xorList (f (xorList (bs.take 16) (le16 t))) (le16 t) ++
      xtsBlocks f fuel ((2 * t) % 2 ^ 128 ^^^ (if 2 ^ 127 ≤ t then 0x87 else 0)) (bs.drop 16)

/-- AES-256-XTS of a data unit of 64 bytes under a 64-byte key, with the number of the unit as the tweak; undo decrypts. -/
def xts (undo : Bool) (key : List Nat) (unit : Nat) (bs : List Nat) : List Nat :=
  let ks := aesKeys (key.take 32)
  let t := (aes256 (key.drop 32) (le16 unit)).reverse.foldl (fun a y => 256 * a + y) 0
  xtsBlocks (if undo then aesUndo ks else aesWith ks) 4 t bs

/-! ### CMAC and the KDF -/

/-- A block doubled in GF(2^128), most significant bit first. -/
def dbl128 (b : List Nat) : List Nat :=
  let x := b.foldl (fun a y => 256 * a + y) 0
  let y := (2 * x) % 2 ^ 128 ^^^ (if 2 ^ 127 ≤ x then 0x87 else 0)
  (beBytes 16 y).map BitVec.toNat

/-- A message cut into blocks of 16 bytes, the last possibly shorter. -/
def blocks16 : Nat → List Nat → List (List Nat)
  | 0, _ => []
  | fuel + 1, m => if m.length ≤ 16 then [m] else m.take 16 :: blocks16 fuel (m.drop 16)

/-- AES-256-CMAC. -/
def cmac (key msg : List Nat) : List Nat :=
  let ks := aesKeys key
  let k1 := dbl128 (aesWith ks (List.replicate 16 0))
  let bs := blocks16 (msg.length / 16 + 1) msg
  let last := bs.getLastD []
  let fin :=
    if last.length = 16 then xorList last k1
    else xorList (last ++ [0x80] ++ List.replicate (15 - last.length) 0) (dbl128 k1)
  let x := bs.dropLast.foldl (fun x b => aesWith ks (xorList x b)) (List.replicate 16 0)
  aesWith ks (xorList x fin)

/-! ### SHA-256 -/

def shaK : List Nat :=
    [0x428A2F98, 0x71374491, 0xB5C0FBCF, 0xE9B5DBA5, 0x3956C25B, 0x59F111F1, 0x923F82A4, 0xAB1C5ED5] ++
    [0xD807AA98, 0x12835B01, 0x243185BE, 0x550C7DC3, 0x72BE5D74, 0x80DEB1FE, 0x9BDC06A7, 0xC19BF174] ++
    [0xE49B69C1, 0xEFBE4786, 0x0FC19DC6, 0x240CA1CC, 0x2DE92C6F, 0x4A7484AA, 0x5CB0A9DC, 0x76F988DA] ++
    [0x983E5152, 0xA831C66D, 0xB00327C8, 0xBF597FC7, 0xC6E00BF3, 0xD5A79147, 0x06CA6351, 0x14292967] ++
    [0x27B70A85, 0x2E1B2138, 0x4D2C6DFC, 0x53380D13, 0x650A7354, 0x766A0ABB, 0x81C2C92E, 0x92722C85] ++
    [0xA2BFE8A1, 0xA81A664B, 0xC24B8B70, 0xC76C51A3, 0xD192E819, 0xD6990624, 0xF40E3585, 0x106AA070] ++
    [0x19A4C116, 0x1E376C08, 0x2748774C, 0x34B0BCB5, 0x391C0CB3, 0x4ED8AA4A, 0x5B9CCA4F, 0x682E6FF3] ++
    [0x748F82EE, 0x78A5636F, 0x84C87814, 0x8CC70208, 0x90BEFFFA, 0xA4506CEB, 0xBEF9A3F7, 0xC67178F2]

def shaInit : List Nat := [0x6A09E667, 0xBB67AE85, 0x3C6EF372, 0xA54FF53A, 0x510E527F, 0x9B05688C, 0x1F83D9AB, 0x5BE0CD19]

/-- Rotation right of a 32-bit word. -/
def rotr32 (x n : Nat) : Nat := x / 2 ^ n + x % 2 ^ n * 2 ^ (32 - n)

/-- The message schedule, latest word first. -/
def shaSchedule : Nat → List Nat → List Nat
  | 0, ws => ws
  | fuel + 1, ws =>
    let w2 := ws.getD 1 0
    let w15 := ws.getD 14 0
    let s0 := rotr32 w15 7 ^^^ rotr32 w15 18 ^^^ w15 / 2 ^ 3
    let s1 := rotr32 w2 17 ^^^ rotr32 w2 19 ^^^ w2 / 2 ^ 10
    shaSchedule fuel ((ws.getD 15 0 + s0 + ws.getD 6 0 + s1) % 2 ^ 32 :: ws)

/-- One round on the eight working words. -/
def shaRound (v : List Nat) (kw : Nat) : List Nat :=
  match v with
  | [a, b, c, d, e, f, g, h] =>
    let s1 := rotr32 e 6 ^^^ rotr32 e 11 ^^^ rotr32 e 25
    let ch := (e &&& f) ^^^ ((2 ^ 32 - 1 - e) &&& g)
    let t1 := h + s1 + ch + kw
    let s0 := rotr32 a 2 ^^^ rotr32 a 13 ^^^ rotr32 a 22
    let mj := (a &&& b) ^^^ (a &&& c) ^^^ (b &&& c)
    [(t1 + s0 + mj) % 2 ^ 32, a, b, c, (d + t1) % 2 ^ 32, e, f, g]
  | _ => v

/-- One 64-byte block. -/
def shaBlock (h : List Nat) (blk : List Nat) : List Nat :=
  let be (j : Nat) : Nat := ((blk.drop (4 * j)).take 4).foldl (fun a y => 256 * a + y) 0
  let ws := (shaSchedule 48 ((List.range 16).map be).reverse).reverse
  let v := (List.zipWith (fun k w => k + w) shaK ws).foldl shaRound h
  List.zipWith (fun x y => (x + y) % 2 ^ 32) h v

/-- A message cut into blocks of 64 bytes. -/
def blocks64 : Nat → List Nat → List (List Nat)
  | 0, _ => []
  | fuel + 1, m => if m.isEmpty then [] else m.take 64 :: blocks64 fuel (m.drop 64)

/-- SHA-256 of a string of bytes. -/
def sha256 (msg : List Nat) : List Nat :=
  let pad := (119 - msg.length % 64) % 64
  let m := msg ++ [0x80] ++ List.replicate pad 0 ++ (beBytes 8 (8 * msg.length)).map BitVec.toNat
  ((blocks64 (m.length / 64 + 1) m).foldl shaBlock shaInit).flatMap (fun w => (beBytes 4 w).map BitVec.toNat)

/-- HMAC-SHA-256 under a key of at most 64 bytes. -/
def hmac (key msg : List Nat) : List Nat :=
  let k := key ++ List.replicate (64 - key.length) 0
  sha256 (k.map (fun x => x ^^^ 0x5C) ++ sha256 (k.map (fun x => x ^^^ 0x36) ++ msg))

/-- R384: KDF(K, label, context): 32 bytes. -/
def kdf (key label ctx : List Nat) : List Nat :=
  let k := if key.length = 32 then key else sha256 key
  let prf (i : Nat) : List Nat := cmac k ([0, 0, 0, i] ++ label ++ [0] ++ ctx ++ [0, 0, 1, 0])
  prf 1 ++ prf 2

/-! ### GCM -/

/-- The product in GF(2^128) of GCM: bit 127 of a number is the first bit of its block. -/
def gmul128 : Nat → Nat → Nat → Nat → Nat
  | 0, _, _, z => z
  | k + 1, x, v, z =>
    gmul128 k x (if v % 2 = 1 then v / 2 ^^^ (0xE1 * 2 ^ 120) else v / 2) (if x / 2 ^ k % 2 = 1 then z ^^^ v else z)

def beNat (b : List Nat) : Nat := b.foldl (fun a y => 256 * a + y) 0

/-- A string padded with zeros to whole blocks. -/
def pad16 (m : List Nat) : List Nat := m ++ List.replicate ((16 - m.length % 16) % 16) 0

def ghash (h : Nat) (m : List Nat) : Nat :=
  (blocks16 (m.length / 16 + 1) m).foldl (fun y b => if b.isEmpty then y else gmul128 128 (y ^^^ beNat b) h 0) 0

/-- The key stream from a counter block on: n bytes. -/
def ctrStream (ks : List (List Nat)) (iv : List Nat) (n : Nat) : List Nat :=
  ((List.range ((n + 15) / 16)).flatMap (fun j => aesWith ks (iv ++ (beBytes 4 (j + 2)).map BitVec.toNat))).take n

/-- AES-256-GCM with a 12-byte IV: the string turned by the key stream. -/
def gcmCrypt (key iv msg : List Nat) : List Nat := xorList msg (ctrStream (aesKeys key) iv msg.length)

/-- The tag of AES-256-GCM over associated data and ciphertext. -/
def gcmTag (key iv aad ct : List Nat) : List Nat :=
  let ks := aesKeys key
  let h := beNat (aesWith ks (List.replicate 16 0))
  let lens := (beBytes 8 (8 * aad.length) ++ beBytes 8 (8 * ct.length)).map BitVec.toNat
  let s := ghash h (pad16 aad ++ pad16 ct ++ lens)
  xorList (aesWith ks (iv ++ [0, 0, 0, 1])) ((beBytes 16 s).map BitVec.toNat)

/-- The numbers of bytes, and back. -/
def natsOf (bs : List Byte) : List Nat := bs.map BitVec.toNat

def bytesOf (xs : List Nat) : List Byte := xs.map (BitVec.ofNat 8)

/-- The bytes of an ASCII string. -/
def asciiOf (s : String) : List Nat := s.toList.map Char.toNat

end Sys2Proof.Machine
end

