-- ==== Sys2Proof/Machine/Flags.lean ====
section
/-! DEFINITION. The sticky flags (R74, R89), the effective rounding mode (R70) and its dither (R71), and the one rounding
every floating result goes through (R60-R63, R71): an exact rational to a pattern of a format with its flags. -/

namespace Sys2Proof.Machine

/-! ### The bits of FLAGS (R89) -/

def fNV : BitVec 6 := 1
def fOF : BitVec 6 := 2
def fUF : BitVec 6 := 4
def fNX : BitVec 6 := 8
def fDZ : BitVec 6 := 16
def fSC : BitVec 6 := 32

/-- A flag that is set when a condition holds. -/
def flagIf (c : Bool) (f : BitVec 6) : BitVec 6 := if c then f else 0

/-- R74: flags combine by OR. -/
def orAll (fs : List (BitVec 6)) : BitVec 6 := fs.foldl (fun a b => a ||| b) 0

/-! ### Fields of MODE (R88) -/

def modeFtz (m : BitVec 24) : Bool := m.getLsbD 4
def modeSat (m : BitVec 24) : Bool := m.getLsbD 3
def modeDpa (m : BitVec 24) : Bool := m.getLsbD 5
def modeImt (m : BitVec 24) : Bool := m.getLsbD 7
def modePrt (m : BitVec 24) : Bool := m.getLsbD 8
def modeDph (m : BitVec 24) : Nat := bits m.toNat 23 16

/-- R70: the mode that MODE.RND holds; 0 and 7 act as RNE. -/
def modeRnd (m : BitVec 24) : Rnd :=
  match bits m.toNat 2 0 with
  | 2 => .rtz
  | 3 => .rdn
  | 4 => .rup
  | 5 => .rna
  | 6 => .sr
  | _ => .rne

/-- R70: the mode a rounding field stands for. -/
def effRnd (r : Rnd) (m : BitVec 24) : Rnd :=
  match r with
  | .dyn => modeRnd m
  | .rne | .rtz | .rdn | .rup | .rna | .sr => r

/-- R73: the phase after one tile conversion. -/
def advanceDph (m : BitVec 24) : BitVec 24 :=
  BitVec.ofNat 24 ((modeDph m + 1) % 256 * 2 ^ 16 + bits m.toNat 15 0)

/-! ### Rounding a magnitude to an integer -/

/-- The 8-bit value whose bit j is bit 7 - j. -/
def bitrev8 (i : Nat) : Nat := (List.range 8).foldl (fun r j => r * 2 + i / 2 ^ j % 2) 0

/-- R71: the dither of a position index at a phase. -/
def dither (i phase : Nat) : Nat := bitrev8 ((i + 37 * phase) % 256)

/-- Whether the magnitude lo + rem/den (0 < rem < den) of a value of the given sign rounds to lo + 1 (R70, R71). -/
def roundsUp (rm : Rnd) (dith : Nat) (neg : Bool) (lo rem den : Nat) : Bool :=
  match rm with
  | .dyn | .rne => decide (den < 2 * rem) || (2 * rem == den && lo % 2 == 1)
  | .rtz => false
  | .rdn => neg
  | .rup => !neg
  | .rna => decide (den ≤ 2 * rem)
  | .sr =>
    if neg then decide ((den - rem) * 256 / den + dith < 256) else decide (256 ≤ rem * 256 / den + dith)

/-- The magnitude n/d rounded to an integer, and whether it was inexact. -/
def roundInt (rm : Rnd) (dith : Nat) (neg : Bool) (n d : Nat) : Nat × Bool :=
  let lo := n / d
  let rem := n % d
  if rem = 0 then (lo, false) else (if roundsUp rm dith neg lo rem d then lo + 1 else lo, true)

/-! ### Rounding to a floating format -/

/-- The floating formats (R60); both have an 8-bit exponent of bias 127. -/
inductive FFmt where
  | f32 | bf16
  deriving DecidableEq, Repr

/-- R60: the fraction width. -/
def FFmt.frac : FFmt → Nat
  | .f32 => 23
  | .bf16 => 7

/-- The sign bit of a format. -/
def FFmt.sign (f : FFmt) (neg : Bool) : Nat := if neg then 2 ^ (f.frac + 8) else 0

def FFmt.inf (f : FFmt) (neg : Bool) : Nat := f.sign neg + 255 * 2 ^ f.frac

/-- The largest finite value. -/
def FFmt.top (f : FFmt) (neg : Bool) : Nat := f.inf neg - 1

/-- R61: the canonical NaN. -/
def FFmt.nan (f : FFmt) : Nat := 255 * 2 ^ f.frac + 2 ^ (f.frac - 1)

/-- What an overflowing result becomes: by the rounding code (R63), or by MODE.SAT in the matrix and scan units (R78). -/
inductive Ovf where
  | byCode | toInf | toTop
  deriving DecidableEq, Repr

/-- R63, R78: an overflow gives infinity, not the largest finite value. -/
def ovfInf (o : Ovf) (rm : Rnd) (neg : Bool) : Bool :=
  match o with
  | .toInf => true
  | .toTop => false
  | .byCode =>
    match rm with
    | .dyn | .rne | .rna | .sr => true
    | .rtz => false
    | .rdn => neg
    | .rup => !neg

/-- The exponent of the binade of n/d. -/
def expOf (n d : Nat) : Int :=
  let k : Int := (Nat.log2 n : Int) - (Nat.log2 d : Int)
  if 0 ≤ k then (if n < d * 2 ^ k.toNat then k - 1 else k)
  else (if n * 2 ^ (-k).toNat < d then k - 1 else k)

/-- n/d divided by 2^u, as numerator and denominator. -/
def scaledBy (n d : Nat) (u : Int) : Nat × Nat :=
  if 0 ≤ u then (n, d * 2 ^ u.toNat) else (n * 2 ^ (-u).toNat, d)

/-- How one rounding is done: the effective mode, the dither of its position, FTZ and the overflow rule. -/
structure Rounding where
  rm   : Rnd
  dith : Nat
  ftz  : Bool
  ovf  : Ovf := .byCode
  deriving DecidableEq, Repr

/-- One rounding of the value ±n/d to a format (R62, R63, R70, R71): pattern and flags. A zero keeps the given sign. -/
def roundTo (f : FFmt) (r : Rounding) (neg : Bool) (n d : Nat) : Nat × BitVec 6 :=
  if n = 0 then (f.sign neg, 0)
  else
    let e := expOf n d
    let top := if e < -126 then -126 else e
    let q := scaledBy n d (top - f.frac)
    let m := roundInt r.rm r.dith neg q.1 q.2
    let pat := (top + 126).toNat * 2 ^ f.frac + m.1
    let nx := flagIf m.2 fNX
    if pat < 2 ^ f.frac then
      if pat != 0 && r.ftz then (f.sign neg, fUF ||| fNX)
      else (f.sign neg + pat, nx ||| flagIf m.2 fUF)
    else if 255 * 2 ^ f.frac ≤ pat then
      (if ovfInf r.ovf r.rm neg then f.inf neg else f.top neg, fOF ||| fNX)
    else
      let q' := scaledBy n d (e - f.frac)
      let tiny := decide (e < -126) && !(e == -127 && (roundInt r.rm r.dith neg q'.1 q'.2).1 == 2 ^ (f.frac + 1))
      (f.sign neg + pat, nx ||| flagIf (m.2 && tiny) fUF)

end Sys2Proof.Machine
end

