-- ==== Sys2Proof/Machine/Float.lean ====
section
/-! DEFINITION. Floating values and the operations of class 1 on exact rationals, each rounded once (R60-R63, R76-R79,
R119-R126): arithmetic, minimum and maximum, division, square root, comparison, classification, conversions, and the
block floating-point conversions. -/

namespace Sys2Proof.Machine

/-- R60: what a pattern stands for. A finite non-zero value is ±n/d. -/
inductive FVal where
  | nan (signalling : Bool)
  | inf (neg : Bool)
  | zero (neg : Bool)
  | num (neg : Bool) (n d : Nat)
  deriving DecidableEq, Repr

def FVal.isNan : FVal → Bool
  | .nan _ => true
  | _ => false

def FVal.isSnan : FVal → Bool
  | .nan b => b
  | _ => false

def FVal.isInf : FVal → Bool
  | .inf _ => true
  | _ => false

def FVal.isZero : FVal → Bool
  | .zero _ => true
  | _ => false

def FVal.neg : FVal → Bool
  | .nan _ => false
  | .inf b | .zero b | .num b _ _ => b

/-- The value with its sign changed. -/
def FVal.flip : FVal → FVal
  | .nan b => .nan b
  | .inf b => .inf (!b)
  | .zero b => .zero (!b)
  | .num b n d => .num (!b) n d

/-- The value ±m · 2^e. -/
def FVal.scaled (neg : Bool) (m : Nat) (e : Int) : FVal :=
  if m = 0 then .zero neg
  else if 0 ≤ e then .num neg (m * 2 ^ e.toNat) 1 else .num neg m (2 ^ (-e).toNat)

/-- R60, R62: the value of a pattern; with FTZ a subnormal is a zero of its sign. -/
def unpack (f : FFmt) (ftz : Bool) (x : Nat) : FVal :=
  let neg := bit x (f.frac + 8)
  let e := x / 2 ^ f.frac % 256
  let m := x % 2 ^ f.frac
  if e = 255 then (if m = 0 then .inf neg else .nan (!bit m (f.frac - 1)))
  else if e = 0 then
    if m = 0 || ftz then .zero neg else FVal.scaled neg m (-126 - (f.frac : Int))
  else FVal.scaled neg (2 ^ f.frac + m) ((e : Int) - 127 - f.frac)

/-- R61: a signalling NaN among the operands sets NV. -/
def snanFlag (xs : List FVal) : BitVec 6 := flagIf (xs.any FVal.isSnan) fNV

/-- One rounding of a value to a format; a NaN becomes the canonical NaN (R61). -/
def FVal.round (f : FFmt) (r : Rounding) : FVal → Nat × BitVec 6
  | .nan _ => (f.nan, 0)
  | .inf neg => (f.inf neg, 0)
  | .zero neg => (f.sign neg, 0)
  | .num neg n d => roundTo f r neg n d

/-! ### Products and sums -/

/-- The exact product; 0 · ∞ has none. -/
def FVal.mul (a b : FVal) : Option FVal :=
  let s := a.neg != b.neg
  match a, b with
  | .nan x, _ => some (.nan x)
  | _, .nan x => some (.nan x)
  | .inf _, .zero _ => none
  | .zero _, .inf _ => none
  | .inf _, _ => some (.inf s)
  | _, .inf _ => some (.inf s)
  | .zero _, _ => some (.zero s)
  | _, .zero _ => some (.zero s)
  | .num _ n d, .num _ n' d' => some (.num s (n * n') (d * d'))

/-- A signed fraction. -/
def FVal.frac : FVal → Int × Nat
  | .num true n d => (-(n : Int), d)
  | .num false n d => ((n : Int), d)
  | _ => (0, 1)

/-- The exact sum of signed fractions. -/
def sumFrac (xs : List FVal) : Int × Nat :=
  xs.foldl (fun (a : Int × Nat) x => (a.1 * x.frac.2 + x.frac.1 * a.2, a.2 * x.frac.2)) (0, 1)

/-- The exact sum as a value (R61, R63): a NaN term gives a NaN whatever the others (log entry 71); none is ∞ - ∞; an exact zero of opposite signs is +0, and -0 under RDN. -/
def sumVal (rm : Rnd) (xs : List FVal) : Option FVal :=
  if xs.any FVal.isNan then some (.nan false)
  else
    let pinf := xs.any (fun x => x.isInf && !x.neg)
    let ninf := xs.any (fun x => x.isInf && x.neg)
    if pinf && ninf then none
    else if pinf || ninf then some (.inf ninf)
    else
      let s := sumFrac xs
      if s.1 = 0 then
        if xs.all (fun x => x.isZero && x.neg) then some (.zero true)
        else if xs.all (fun x => x.isZero && !x.neg) then some (.zero false)
        else some (.zero (rm = .rdn))
      else some (.num (decide (s.1 < 0)) s.1.natAbs s.2)

/-- An exact value that may be invalid, rounded once: an invalid operation is the canonical NaN with NV. -/
def roundOpt (f : FFmt) (r : Rounding) (fl : BitVec 6) (v : Option FVal) : Nat × BitVec 6 :=
  match v with
  | none => (f.nan, fl ||| fNV)
  | some v =>
    let x := v.round f r
    (x.1, fl ||| x.2)

/-- R119: a + b. -/
def fpAdd (f : FFmt) (r : Rounding) (a b : FVal) : Nat × BitVec 6 := roundOpt f r (snanFlag [a, b]) (sumVal r.rm [a, b])

/-- R119: a · b. -/
def fpMul (f : FFmt) (r : Rounding) (a b : FVal) : Nat × BitVec 6 := roundOpt f r (snanFlag [a, b]) (a.mul b)

/-- R119: the exact sum of products and an addend; an invalid product is invalid whatever the addend. -/
def fpDot (f : FFmt) (r : Rounding) (ps : List (FVal × FVal)) (c : FVal) : Nat × BitVec 6 :=
  let fl := snanFlag (c :: ps.map Prod.fst ++ ps.map Prod.snd)
  let prods := ps.map (fun p => p.1.mul p.2)
  if prods.any Option.isNone then (f.nan, fl ||| fNV)
  else roundOpt f r fl (sumVal r.rm (prods.filterMap id ++ [c]))

/-- R119: a · b + c. -/
def fpFma (f : FFmt) (r : Rounding) (a b c : FVal) : Nat × BitVec 6 := fpDot f r [(a, b)] c

/-- R121: a / b. -/
def fpDiv (f : FFmt) (r : Rounding) (a b : FVal) : Nat × BitVec 6 :=
  let fl := snanFlag [a, b]
  let s := a.neg != b.neg
  match a, b with
  | .nan _, _ => (f.nan, fl)
  | _, .nan _ => (f.nan, fl)
  | .inf _, .inf _ => (f.nan, fNV)
  | .zero _, .zero _ => (f.nan, fNV)
  | .inf _, _ => (f.inf s, 0)
  | _, .inf _ => (f.sign s, 0)
  | .num .., .zero _ => (f.inf s, fDZ)
  | .zero _, _ => (f.sign s, 0)
  | .num _ n d, .num _ n' d' => roundTo f r s (n * d') (d * n')

/-- The integer square root of a number below 4^k, by its bits. -/
def isqrt : Nat → Nat → Nat → Nat
  | 0, _, r => r
  | k + 1, n, r => isqrt k n (if (r + 2 ^ k) * (r + 2 ^ k) ≤ n then r + 2 ^ k else r)

/-- The square root of n/d below 2^(k - j), as a numerator over 2^(j+1) whose last bit says that the rest is not zero. -/
def sqrtFrac (k j n d : Nat) : Nat × Nat :=
  let x := n * 4 ^ j / d
  let r := isqrt k x 0
  (2 * r + (if r * r * d = n * 4 ^ j then 0 else 1), 2 ^ (j + 1))

/-- R121: the square root. -/
def fpSqrt (f : FFmt) (r : Rounding) (a : FVal) : Nat × BitVec 6 :=
  match a with
  | .nan x => (f.nan, flagIf x fNV)
  | .zero s => (f.sign s, 0)
  | .inf s => if s then (f.nan, fNV) else (f.inf false, 0)
  | .num s n d =>
    if s then (f.nan, fNV)
    else
      let q := sqrtFrac 200 128 n d
      roundTo f r false q.1 q.2

/-- R119: a · 2^k; beyond ±1000 the exponent changes no result. -/
def fpScale (f : FFmt) (r : Rounding) (a : FVal) (k : Int) : Nat × BitVec 6 :=
  match a with
  | .num s n d =>
    let k := max (-1000) (min 1000 k)
    let q := scaledBy n d (-k)
    roundTo f r s q.1 q.2
  | _ => roundOpt f r (snanFlag [a]) (some a)

/-- R119: rounded to an integral value in its own format; never OF or UF. -/
def fpRound (f : FFmt) (r : Rounding) (a : FVal) : Nat × BitVec 6 :=
  match a with
  | .num s n d =>
    let m := roundInt r.rm r.dith s n d
    ((roundTo f { r with rm := .rne } s m.1 1).1, flagIf m.2 fNX)
  | _ => roundOpt f r (snanFlag [a]) (some a)

/-! ### Order -/

/-- a < b for values that are not NaN; the zeros are equal. -/
def FVal.lt (a b : FVal) : Bool :=
  match a, b with
  | .inf x, .inf y => x && !y
  | .inf x, _ => x
  | _, .inf y => !y
  | _, _ => decide (a.frac.1 * b.frac.2 < b.frac.1 * a.frac.2)

/-- R120: the order of fmin and fmax, with -0 below +0. -/
def FVal.le0 (a b : FVal) : Bool :=
  match a, b with
  | .zero x, .zero y => x || !y
  | _, _ => !b.lt a

/-- R120: fmin and fmax. -/
def fpMinMax (f : FFmt) (isMin : Bool) (a b : FVal) : Nat × BitVec 6 :=
  let fl := snanFlag [a, b]
  let exact : Rounding := ⟨.rne, 0, false, .byCode⟩
  let pick :=
    if a.isNan then b else if b.isNan then a
    else if isMin then (if a.le0 b then a else b) else (if b.le0 a then a else b)
  ((pick.round f exact).1, fl)

/-- R124: the comparisons. -/
def fpCmp (c : FCond) (a b : FVal) : Bool × BitVec 6 :=
  let fl := snanFlag [a, b]
  if a.isNan || b.isNan then
    match c with
    | .ne | .uno => (true, fl)
    | .eq | .ord => (false, fl)
    | .lt | .le | .gt | .ge => (false, fNV)
  else
    match c with
    | .eq => (!a.lt b && !b.lt a, fl)
    | .ne => (a.lt b || b.lt a, fl)
    | .lt => (a.lt b, fl)
    | .le => (!b.lt a, fl)
    | .gt => (b.lt a, fl)
    | .ge => (!a.lt b, fl)
    | .ord => (true, fl)
    | .uno => (false, fl)

/-- R125: the class of a pattern as a one-hot mask; MODE.FTZ does not affect it. -/
def fpClass (f : FFmt) (x : Nat) : Nat :=
  let neg := bit x (f.frac + 8)
  let e := x / 2 ^ f.frac % 256
  let m := x % 2 ^ f.frac
  let k :=
    if e = 255 then
      if m = 0 then (if neg then 2 else 9) else if bit m (f.frac - 1) then 1 else 0
    else if e = 0 then
      if m = 0 then (if neg then 5 else 6) else if neg then 4 else 7
    else if neg then 3 else 8
  2 ^ k

/-! ### Conversions (R77, R126) -/

/-- R77, R126: a floating value to an integer type of width w: the residue and the flags. What lies out of range is the integer the value rounds
to, so that -0.3 to an n type under RNE is 0 with NX (DESIGN CHOICE, log entry 71). -/
def fpToInt (r : Rounding) (w : Nat) (signed : Bool) (a : FVal) : Nat × BitVec 6 :=
  let lo : Int := if signed then -(2 ^ (w - 1) : Nat) else 0
  let hi : Int := if signed then (2 ^ (w - 1) : Nat) - 1 else (2 ^ w : Nat) - 1
  match a with
  | .nan _ => (0, fNV)
  | .inf s => (wrap w (if s then lo else hi), fNV)
  | .zero _ => (0, 0)
  | .num s n d =>
    let m := roundInt r.rm r.dith s n d
    let v : Int := if s then -(m.1 : Int) else m.1
    if v < lo then (wrap w lo, fNV)
    else if hi < v then (wrap w hi, fNV)
    else (wrap w v, flagIf m.2 fNX)

/-- R126: an integer to a floating format. -/
def intToFp (f : FFmt) (r : Rounding) (v : Int) : Nat × BitVec 6 := roundTo f r (decide (v < 0)) v.natAbs 1

/-- R126: a floating value to a floating format. -/
def fpToFp (f : FFmt) (r : Rounding) (a : FVal) : Nat × BitVec 6 := roundOpt f r (snanFlag [a]) (some a)

/-! ### Block floating point (R67-R69, R76, R129) -/

/-- One element of a block at a scale: the code as an integer, and its flags; sc says that a clamp sets SC (R129).
A NaN or infinite element, and a scale of 0xFF, set NV alone (log entry 71). -/
def blockElem (w e : Nat) (rm : Rnd) (phase : Nat) (sc : Bool) (i : Nat) (a : FVal) : Int × BitVec 6 :=
  let hi : Int := (2 ^ (w - 1) : Nat) - 1
  let lo : Int := -(2 ^ (w - 1) : Nat)
  match a with
  | .nan _ => (0, fNV)
  | .inf s => (if s then lo else hi, fNV)
  | .zero _ => (0, 0)
  | .num s n d =>
    let q := scaledBy n d ((e : Int) - 127 - ((w : Int) - 1))
    let m := roundInt rm (dither i phase) s q.1 q.2
    let v : Int := if s then -(m.1 : Int) else m.1
    if hi < v then (hi, fNX ||| flagIf sc fSC ||| flagIf (hi == 0) fUF)
    else if v < lo then (lo, fNX ||| flagIf sc fSC)
    else (v, flagIf m.2 fNX ||| flagIf (v == 0) fUF)

/-- R76: the greatest binade of the live elements' magnitudes. -/
def topBinade (xs : List FVal) : Option Int :=
  xs.foldl (fun m x =>
    match x with
    | .num _ n d =>
      let e := expOf n d
      some (match m with | none => e | some y => max y e)
    | _ => m) none

/-- R76: the scale code of a block and whether it saturated. -/
def blockScale (xs : List FVal) : Nat × Bool :=
  match topBinade xs with
  | none => (0, false)
  | some t => if 0xFE < t + 128 then (0xFE, true) else ((t + 128).toNat, false)

/-- R76: a block's scale is chosen and its live elements (none is a tail element) converted; a NaN block sets NV, and neither NX nor UF
(DESIGN CHOICE, log entry 71). -/
def packBlock (w : Nat) (rm : Rnd) (phase : Nat) (xs : List (Option FVal)) : Nat × List Int × BitVec 6 :=
  let live := xs.filterMap id
  if live.any (fun x => x.isNan || x.isInf) then (0xFF, xs.map (fun _ => 0), fNV)
  else
    let e := blockScale live
    let rs := xs.zipIdx.map (fun x =>
      match x.1 with
      | none => ((0 : Int), (0 : BitVec 6))
      | some v => blockElem w e.1 rm phase false x.2 v)
    (e.1, rs.map Prod.fst, orAll (flagIf e.2 fSC :: rs.map Prod.snd))

/-- R129: a block converted at a given scale (bfscl). -/
def packAt (w e : Nat) (rm : Rnd) (phase : Nat) (xs : List (Option FVal)) : List Int × BitVec 6 :=
  if e = 0xFF then (xs.map (fun _ => 0), flagIf (xs.any Option.isSome) fNV)
  else
    let rs := xs.zipIdx.map (fun x =>
      match x.1 with
      | none => ((0 : Int), (0 : BitVec 6))
      | some v => blockElem w e rm phase true x.2 v)
    (rs.map Prod.fst, orAll (rs.map Prod.snd))

/-- R68: the bit string of a block's element codes. -/
def packCodes (w : Nat) (codes : List Int) : Nat :=
  codes.zipIdx.foldl (fun a x => a + wrap w x.1 * 2 ^ (w * x.2)) 0

/-- R68: element i of a block's bit string, as a signed code. -/
def codeAt (w str i : Nat) : Int := sInt w (str / 2 ^ (w * i))

/-- R67: the value of an element code at a scale below 0xFF. -/
def blockVal (w e : Nat) (m : Int) : FVal := FVal.scaled (decide (m < 0)) m.natAbs ((e : Int) - 127 - ((w : Int) - 1))

end Sys2Proof.Machine
end

