-- ==== Sys2Proof/Machine/Legal.lean ====
section
/-! DEFINITION. What a word names and which operand rules it must obey: the registers it reads (in the order the
checking scoreboard takes them, R33) and writes, the role it is restricted to (R35), whether it acts once (R14), its
fixed latency (R30), and the operand rules whose breach makes the word trap ILL (R15-R17, R19, R27-R29, R38 and the
entries of the instructions). -/

namespace Sys2Proof

/-- A register a word names: a predicate, one v register, an aligned v pair or quad (R16), a v image of any start
(R127), or an s register. -/
inductive Ref where
  | p (n : Nat)
  | v (n cnt : Nat)
  | img (n cnt : Nat)
  | s (n : Nat)
  deriving DecidableEq, Repr

/-- R33: the value TVAL holds for an operand that is read too early. -/
def Ref.spec : Ref → Nat
  | .p n => 0x100 + n
  | .v n _ => n
  | .img n _ => n
  | .s n => 192 + n

/-- R16: a pair starts at an even specifier, a quad at a multiple of 4. -/
def Ref.aligned : Ref → Bool
  | .v n cnt => n % cnt == 0
  | _ => true

/-- R16: the register lies below the declared count of v registers. -/
def Ref.below (count : Nat) : Ref → Bool
  | .v n cnt => decide (n + cnt ≤ count)
  | .img n cnt => decide (n + cnt ≤ count)
  | _ => true

/-- R41: a reference a control-core program may make: an s register, or p0. -/
def Ref.scalar : Ref → Bool
  | .s _ => true
  | .p n => n == 0
  | _ => false

/-- The reference of an operand of cnt v registers, or of an s register. -/
def Opr.ref (cnt : Nat) : Opr → Ref
  | .v n => .v n.val cnt
  | .s n => .s n.val

def Opr.isS : Opr → Bool
  | .v _ => false
  | .s _ => true

/-- R99: the operand width. -/
def ITy.width : ITy → Nat
  | .i32 | .n32 | .z32 => 32
  | .i64 | .n64 | .z64 => 64
  | .z16 => 16

/-- R64: i types are signed. -/
def ITy.signed : ITy → Bool
  | .i32 | .i64 => true
  | _ => false

def ITy.ring : ITy → Bool
  | .z16 | .z32 | .z64 => true
  | _ => false

/-- The v registers one operand of the type spans (R64). -/
def ITy.regs (t : ITy) : Nat := if t.width = 64 then 2 else 1

/-- R23: the access size in bytes. -/
def Sz.bytes : Sz → Nat
  | .i8 | .n8 => 1
  | .i16 | .n16 => 2
  | .b32 => 4
  | .b64 => 8
  | .b128 => 16

/-- R166: the v registers a datum of the size spans. -/
def Sz.regs : Sz → Nat
  | .b64 => 2
  | .b128 => 4
  | _ => 1

/-- R126: the v registers one value of the type spans. -/
def CvtTy.regs : CvtTy → Nat
  | .i64 | .n64 | .z64 => 2
  | _ => 1

def CvtTy.isFloat : CvtTy → Bool
  | .f32 | .bf16 | .bf16h => true
  | _ => false

def CvtTy.isInt : CvtTy → Bool
  | .i32 | .n32 | .i64 | .n64 => true
  | _ => false

def CvtTy.isRing : CvtTy → Bool
  | .z16 | .z32 | .z64 => true
  | _ => false

/-- R126: the legal pairs of source and destination types of a one-register source. -/
def cvtLegal (src dst : CvtTy) : Bool :=
  if src = .bf16x2 then false
  else if dst.isRing then true
  else if src.isFloat then dst = .f32 || dst = .bf16 || dst.isInt
  else if src.isInt then dst = .f32 || dst = .bf16 || dst.isInt
  else dst.isInt

def ZWidth.regs : ZWidth → Nat
  | .z64 => 2
  | _ => 1

/-- R92: the width of a special register. -/
def SpecialReg.bits : SpecialReg → Nat
  | .mode | .flags | .gstat | .clock | .tpc | .tval => 64
  | _ => 32

/-- What a word names and how it acts. -/
structure Shape where
  /-- register reads in the order A, B, C, D (R33) -/
  reads  : List Ref := []
  /-- registers written through the register file -/
  writes : List Ref := []
  /-- the word's own operand rules hold -/
  ok     : Bool := true
  /-- R12: the word may carry a cache hint -/
  hint   : Bool := false
  /-- R35: the role it is restricted to -/
  role   : Option Role := none
  /-- R14: the word acts once -/
  uni    : Bool := false
  /-- R30: latency of a fixed-latency result; 0 for every other word -/
  lat    : Nat := 0
  /-- R20: the accumulator fragment named with AF = 1 -/
  frag   : Option AccFrag := none
  /-- R205, R210: the accumulator tiles named as first tile and count -/
  tiles  : Option (Nat × Nat) := none
  deriving DecidableEq, Repr

/-- R14, R255: a word that issues to a vector pipe: it writes no s register, and it reads or writes registers of lanes. -/
def Shape.perLane (x : Shape) : Bool :=
  let lanes (r : Ref) : Bool := match r with | .v .. | .img .. => true | _ => false
  !x.writes.any (fun r => match r with | .s _ => true | _ => false) &&
    (x.reads.any lanes || x.writes.any (fun r => lanes r || (match r with | .p _ => true | _ => false)))

/-- R17: an s destination needs s sources. -/
def sDest (d : Opr) (srcs : List Opr) : Bool := !d.isS || srcs.all Opr.isS

/-- Integer words of class 0 with register sources (R98-R102). -/
def intShape (d : Opr) (dregs : Nat) (srcs : List (Opr × Nat)) (ok : Bool) : Shape :=
  { reads := srcs.map (fun x => x.1.ref x.2), writes := [d.ref dregs], uni := d.isS, lat := 4,
    ok := ok && sDest d (srcs.map Prod.fst) }

/-- Class 0 words whose source A may be an accumulator fragment (R101). -/
def intAcc (d : Opr) (a : ASrc) (bs : List Opr) (ty : ITy) : Shape :=
  match a with
  | .reg a => intShape d ty.regs ((a, ty.regs) :: bs.map (fun b => (b, ty.regs))) true
  | .acc f =>
    { reads := bs.map (Opr.ref 1), writes := [d.ref 1], lat := 8, frag := some f,
      ok := !d.isS && (ty = .i32 || ty = .n32 || ty = .z32 || ty = .z16) }

def fourInt (ty : ITy) : Bool := !ty.ring

/-- R108: a division is a variable-latency producer. -/
def divShape (d a b : Opr) (ty : ITy) : Shape :=
  { intShape d ty.regs [(a, ty.regs), (b, ty.regs)] (fourInt ty) with lat := 0 }

/-- Class 1 words with register sources (R117). -/
def fpShape (d : Opr) (srcs : List Opr) (lat : Nat) (ok : Bool) : Shape :=
  { reads := srcs.map (Opr.ref 1), writes := [d.ref 1], uni := d.isS, lat := lat, ok := ok && sDest d srcs }

/-- Class 1 words whose source A may be an accumulator fragment (R118). -/
def fpAcc (d : Opr) (a : ASrc) (b : Opr) (ty : FTy) : Shape :=
  match a with
  | .reg a => fpShape d [a, b] 5 true
  | .acc f =>
    { reads := [b.ref 1], writes := [d.ref 1], lat := 8, frag := some f, ok := !d.isS && (ty = .f32) }

/-- R23: the registers that form an address. -/
def Mem.refs (m : Mem) : List Ref :=
  .s m.base.val :: (match m.idx with | some (n, _) => [.v n.val 1] | none => [])

/-- R165: a memory word acts once when it names only s registers. -/
def Mem.uni (m : Mem) (d : Opr) : Bool := m.idx.isNone && d.isS

/-- R165, R166: the destination of a load. -/
def loadShape (d : Opr) (m : Mem) (sz : Sz) (hint ok : Bool) : Shape :=
  { reads := m.refs, writes := [d.ref sz.regs], uni := m.uni d, hint := hint,
    ok := ok && !(d.isS && (m.idx.isSome || sz = .b128)) }

/-- R165, R166: the data of a store. -/
def storeShape (d : Opr) (m : Mem) (sz : Sz) (hint ok : Bool) : Shape :=
  { reads := m.refs ++ [d.ref sz.regs], uni := m.uni d, hint := hint, ok := ok && !(d.isS && sz = .b128) }

def word48 (sz : Sz) : Bool := sz = .b32 || sz = .b64

/-- R174: the sizes of a bank reduction. -/
def BredOp.okSz (op : BredOp) (sz : Sz) : Bool :=
  match op with
  | .fadd | .bfadd => sz = .b32
  | _ => word48 sz

/-- R181: the v registers an atomic's data spans. -/
def atomRegs (op : AtomOp) (sz : Sz) : Nat :=
  match op with
  | .cas => 2 * sz.regs
  | _ => sz.regs

/-- R181, R183: the combinations an atomic allows. -/
def atomOk (op : AtomOp) (ord : AtomOrd) (sz : Sz) : Bool :=
  word48 sz && (op != .fadd || sz = .b32) &&
    (match ord with
     | .com | .qnt | .spec => op != .exch && op != .cas
     | _ => true)

/-- R238: an exchange instruction over v registers. -/
def shShape (d : Fin 192) (srcs : List (Fin 192)) (k : ZWidth) (ok : Bool) : Shape :=
  { reads := srcs.map (fun a => .v a.val k.regs), writes := [.v d.val k.regs], role := some .v, ok := ok }

/-- Words of s registers only that act once. -/
def sysShape (writes reads : List (Fin 64)) (role : Option Role := none) (ok : Bool := true) : Shape :=
  { reads := reads.map (fun a => .s a.val), writes := writes.map (fun a => .s a.val), uni := true, role := role, ok := ok }

/-- R127: the registers of a value image. -/
def valueRegs (ty : FTy) (W : Nat) : Nat := if ty = .bf16x2 then 128 / W else 256 / W

/-- R127: the registers of a packed image. -/
def packedRegs (w : BitVec 3) (W : Nat) : Nat := (8 * (w.toNat + 1) + W - 1) / W

def blockShape (d a : Fin 192) (dn an : Nat) (w : BitVec 3) (desc : Fin 64) (wdesc ok : Bool) : Shape :=
  { reads := [.img a.val an, .s desc.val], writes := .img d.val dn :: (if wdesc then [.s desc.val] else []), lat := 5,
    ok := ok && w != 0 }

/-- R238, R199 and others: an optional s destination of a barrier arrival. -/
def barShape (d : Option (Fin 64)) : Shape :=
  { writes := (match d with | some n => [.s n.val] | none => []), uni := true, lat := if d.isSome then 4 else 0 }

/-! ### Paired words -/

/-- R29: the registers a paired slot reads, S before D (R33). -/
def PSlot.reads (x : PSlot) : List Opr :=
  match x.op with
  | .nop | .movi => []
  | .mov | .ineg | .not | .fneg | .fabs => [x.arg.s]
  | .shl | .shr | .sar => [x.arg.d]
  | _ => [x.arg.s, x.arg.d]

def PSlot.dest (x : PSlot) : Option Opr := if x.op = .nop then none else some x.arg.d

/-- R27: the operations 0x10 to 0x16. -/
def POp.isFp : POp → Bool
  | .fadd | .fsub | .fmul | .fmin | .fmax | .fneg | .fabs => true
  | _ => false

/-- R27: the slot rules. -/
def PSlot.ok (x : PSlot) : Bool :=
  let auxOp := x.op = .movi || x.op = .shl || x.op = .shr || x.op = .sar
  if x.op = .nop then x.arg.d = .v 0 && x.arg.s = .v 0 && x.arg.gi = 0 && !x.arg.gn && x.arg.aux = 0
  else
    (auxOp || x.arg.aux = 0) && (!auxOp || x.arg.s = .v 0) &&
      !(x.arg.d.isS && (x.op.isFp || (!auxOp && !x.arg.s.isS)))

/-- R29: the bank of a register: its file and an index modulo 4 (v) or 2 (s). -/
def Opr.bank : Opr → Nat
  | .v n => n.val % 4
  | .s n => 4 + n.val % 2

/-- R29: no bank is read more than twice across the pair. -/
def bankReadsOk (rs : List Opr) : Bool := rs.all (fun r => decide ((rs.filter (fun q => q.bank == r.bank)).length ≤ 2))

/-- R27, R29: the rules of a whole pair. -/
def pairOk (a b : PSlot) : Bool :=
  a.ok && b.ok && bankReadsOk (a.reads ++ b.reads) &&
    (match a.dest, b.dest with
     | some x, some y => x.bank != y.bank
     | _, _ => true)

def PSlot.lat (x : PSlot) : Nat := if x.op = .nop then 0 else if x.op.isFp then 5 else 4

/-- R25-R33: what a paired word names. -/
def pairShape (a b : PSlot) : Shape :=
  { reads := (a.reads ++ b.reads).map (Opr.ref 1),
    writes := (a.dest.toList ++ b.dest.toList).map (Opr.ref 1),
    lat := max a.lat b.lat, ok := pairOk a b }

/-- The slots of a paired word. -/
def Instr.pair? : Instr → Option (BitVec 3 × PSlot × PSlot)
  | .pairedNop k a b => some (k, ⟨.nop, a⟩, b)
  | .pairedMov k a b => some (k, ⟨.mov, a⟩, b)
  | .pairedMovi k a b => some (k, ⟨.movi, a⟩, b)
  | .pairedIadd k a b => some (k, ⟨.iadd, a⟩, b)
  | .pairedIsub k a b => some (k, ⟨.isub, a⟩, b)
  | .pairedAnd k a b => some (k, ⟨.and, a⟩, b)
  | .pairedOr k a b => some (k, ⟨.or, a⟩, b)
  | .pairedXor k a b => some (k, ⟨.xor, a⟩, b)
  | .pairedShl k a b => some (k, ⟨.shl, a⟩, b)
  | .pairedShr k a b => some (k, ⟨.shr, a⟩, b)
  | .pairedSar k a b => some (k, ⟨.sar, a⟩, b)
  | .pairedImin k a b => some (k, ⟨.imin, a⟩, b)
  | .pairedImax k a b => some (k, ⟨.imax, a⟩, b)
  | .pairedIneg k a b => some (k, ⟨.ineg, a⟩, b)
  | .pairedNot k a b => some (k, ⟨.not, a⟩, b)
  | .pairedFadd k a b => some (k, ⟨.fadd, a⟩, b)
  | .pairedFsub k a b => some (k, ⟨.fsub, a⟩, b)
  | .pairedFmul k a b => some (k, ⟨.fmul, a⟩, b)
  | .pairedFmin k a b => some (k, ⟨.fmin, a⟩, b)
  | .pairedFmax k a b => some (k, ⟨.fmax, a⟩, b)
  | .pairedFneg k a b => some (k, ⟨.fneg, a⟩, b)
  | .pairedFabs k a b => some (k, ⟨.fabs, a⟩, b)
  | .pairedIaddZ16 k a b => some (k, ⟨.iaddZ16, a⟩, b)
  | .pairedIsubZ16 k a b => some (k, ⟨.isubZ16, a⟩, b)
  | .pairedIaddZ32 k a b => some (k, ⟨.iaddZ32, a⟩, b)
  | .pairedIsubZ32 k a b => some (k, ⟨.isubZ32, a⟩, b)
  | .nop .. | .mov .. | .movi .. | .movh .. | .sel .. | .iadd .. | .isub .. | .imul .. | .imulh .. | .imad ..
    | .imin .. | .imax .. | .iabs .. | .ineg .. | .isat .. | .idiv .. | .irem .. | .and .. | .or .. | .xor ..
    | .andn .. | .not .. | .shl .. | .shr .. | .sar .. | .rot .. | .bfe .. | .bfi .. | .popc .. | .clz .. | .brev ..
    | .icmp .. | .lea .. | .fadd .. | .fsub .. | .fmul .. | .ffma .. | .fmin .. | .fmax .. | .fcmp .. | .fclass ..
    | .frcp .. | .frsq .. | .fsqrt .. | .fdiv .. | .fexp2 .. | .flog2 .. | .fsin .. | .fcos .. | .ftanh .. | .fsig ..
    | .fround .. | .fscale .. | .cvt .. | .bfpk .. | .bfup .. | .bfscl .. | .fdot2 .. | .bra .. | .jmp .. | .call ..
    | .ret .. | .regang .. | .exit .. | .inv .. | .bkset .. | .bkget .. | .prm .. | .vote .. | .lred .. | .lscan ..
    | .rdlane .. | .plop .. | .p2r .. | .r2p .. | .ld .. | .st .. | .ldl .. | .stl .. | .lds .. | .sts .. | .pf ..
    | .bred .. | .bupd .. | .qinit .. | .qenq .. | .qdeq .. | .atom .. | .lda .. | .str .. | .fence .. | .barInit ..
    | .barArrive .. | .barWait .. | .barSync .. | .barDrop .. | .barExpect .. | .barBind .. | .tlwait .. | .tlread ..
    | .yield .. | .gang .. | .mma .. | .acczero .. | .accld .. | .accst .. | .acccvt .. | .scfg .. | .srun ..
    | .scin .. | .scout .. | .sfix .. | .cpy .. | .lrmk .. | .gxch .. | .shmul .. | .shtrunc .. | .shsign ..
    | .shopen .. | .shin .. | .send .. | .recv .. | .mprobe .. | .trap .. | .rtt .. | .brkp .. | .rdsr .. | .wrsr ..
    | .mark .. | .lnch .. | .ldep .. | .lwait .. | .lsig .. | .fixedLatencyResult .. | .pendingResultWrite ..
    | .storeRegistration .. | .homeBankOperation .. | .joinArrival .. | .comparatorFire .. | .barstall ..
    | .combinerArrival .. | .combinerRelease .. | .matrixOperationComplete .. | .copyTransferComplete ..
    | .scanOperationComplete .. | .carryDelivery .. | .straitWordArrival .. | .abort .. | .hand .. | .gateTimeout ..
    | .handDeal .. | .entropyHealthFailure | .messageArrival .. | .teamRetirement .. | .launchRetirement ..
    | .launchReady .. | .dispatch .. | .aging .. | .priorityPreemption .. | .spanIdle .. | .linkShareWindow ..
    | .drainExpiry .. | .saveComplete .. | .flushComplete .. | .parkLimitExpiry .. | .coreScrubComplete ..
    | .replicaInvalidation .. | .collapseComplete .. | .smpcWrite .. | .preempt .. | .kill .. | .restoreNow ..
    | .pfqhWrite .. | .pgdone .. | .tlbInvalidate .. | .invalidationComplete .. | .wayMaskWrite ..
    | .wayMaskChangeComplete .. | .keyCreate .. | .keyImport .. | .keyRetire .. | .scrub .. | .scrubComplete ..
    | .streamOpen .. | .streamClose .. | .streamQuery .. | .hqtailWrite .. | .hqcfgWrite .. | .descriptorFetch ..
    | .descriptorComplete .. | .configCommit .. | .configRead .. | .lockInterface .. | .startInterface ..
    | .stopInterface .. | .linkDown .. | .functionLevelReset .. | .ideIntegrityFailure .. | .ideKeyExpiry ..
    | .kSetGo .. | .getVersion .. | .getCapabilities .. | .negotiateAlgorithms .. | .getDigests .. | .getCertificate ..
    | .challenge .. | .getMeasurements .. | .keyExchange .. | .finish .. | .keyUpdate .. | .heartbeat ..
    | .endSession .. | .vendorDefinedRequest .. | .peerRequest .. | .peerLinkFailure .. | .hostPhysicalRead ..
    | .hostPhysicalWrite .. | .dbgattWrite .. | .stop .. | .stopEffect .. | .dbgContinue .. | .dbgStep .. | .regrd ..
    | .regwr .. | .memrd .. | .memwr .. | .cntcfgWrite .. | .regionDefine .. | .regionClose ..
    | .regionCloseComplete .. | .regionImport .. | .regionCommit .. | .regionQuery .. | .periodicCommit ..
    | .singleBitError .. | .uncorrectableError .. | .patrolScrub .. | .dieReset .. | .transitDrainLimit ..
    | .dieResetComplete .. | .fieldSwap .. | .packageReset | .packageResetRequest .. | .powerStateEntry ..
    | .islandWake .. | .wakeComplete .. | .frequencyLevelChange .. | .withheldRead .. | .alcmdLevel2 ..
    | .alcmdLevel3 .. | .tamperMeshBroken | .voltageClockFault | .registerWrite .. | .tdiConfigurationChange ..
    | .linkLevelRetry .. | .domainFormation .. => none

/-- The header of a full-form word. -/
def Instr.hdr? : Instr → Option Hdr
  | .nop h => some h
  | .mov h _ _ _ => some h
  | .movi h _ _ => some h
  | .movh h _ _ _ => some h
  | .sel h _ _ _ _ _ _ => some h
  | .iadd h _ _ _ _ => some h
  | .isub h _ _ _ _ => some h
  | .imul h _ _ _ _ => some h
  | .imulh h _ _ _ _ => some h
  | .imad h _ _ _ _ _ => some h
  | .imin h _ _ _ _ => some h
  | .imax h _ _ _ _ => some h
  | .iabs h _ _ _ => some h
  | .ineg h _ _ _ => some h
  | .isat h _ _ _ _ => some h
  | .idiv h _ _ _ _ => some h
  | .irem h _ _ _ _ => some h
  | .and h _ _ _ _ => some h
  | .or h _ _ _ _ => some h
  | .xor h _ _ _ _ => some h
  | .andn h _ _ _ _ => some h
  | .not h _ _ _ => some h
  | .shl h _ _ _ _ => some h
  | .shr h _ _ _ _ => some h
  | .sar h _ _ _ _ => some h
  | .rot h _ _ _ _ => some h
  | .bfe h _ _ _ _ => some h
  | .bfi h _ _ _ _ _ => some h
  | .popc h _ _ _ => some h
  | .clz h _ _ _ => some h
  | .brev h _ _ _ => some h
  | .icmp h _ _ _ _ _ => some h
  | .lea h _ _ _ _ _ => some h
  | .fadd h _ _ _ _ _ => some h
  | .fsub h _ _ _ _ _ => some h
  | .fmul h _ _ _ _ _ => some h
  | .ffma h _ _ _ _ _ => some h
  | .fmin h _ _ _ _ => some h
  | .fmax h _ _ _ _ => some h
  | .fcmp h _ _ _ _ => some h
  | .fclass h _ _ _ => some h
  | .frcp h _ _ _ => some h
  | .frsq h _ _ _ => some h
  | .fsqrt h _ _ _ _ => some h
  | .fdiv h _ _ _ _ _ => some h
  | .fexp2 h _ _ _ => some h
  | .flog2 h _ _ _ => some h
  | .fsin h _ _ _ => some h
  | .fcos h _ _ _ => some h
  | .ftanh h _ _ _ => some h
  | .fsig h _ _ _ => some h
  | .fround h _ _ _ _ => some h
  | .fscale h _ _ _ _ _ => some h
  | .cvt h _ _ _ => some h
  | .bfpk h _ _ _ _ _ _ => some h
  | .bfup h _ _ _ _ _ _ => some h
  | .bfscl h _ _ _ _ _ _ => some h
  | .fdot2 h _ _ _ _ _ => some h
  | .bra h _ _ => some h
  | .jmp h _ => some h
  | .call h _ _ => some h
  | .ret h => some h
  | .regang h _ => some h
  | .exit h => some h
  | .inv h _ _ _ _ _ _ _ _ => some h
  | .bkset h _ _ _ _ _ _ => some h
  | .bkget h _ _ _ => some h
  | .prm h _ _ _ _ _ => some h
  | .vote h _ _ => some h
  | .lred h _ _ _ _ => some h
  | .lscan h _ _ _ _ _ => some h
  | .rdlane h _ _ _ _ => some h
  | .plop h _ _ _ _ => some h
  | .p2r h _ => some h
  | .r2p h _ _ => some h
  | .ld h _ _ _ _ => some h
  | .st h _ _ _ _ => some h
  | .ldl h _ _ _ _ => some h
  | .stl h _ _ _ _ => some h
  | .lds h _ _ _ _ _ => some h
  | .sts h _ _ _ _ _ => some h
  | .pf h _ _ _ => some h
  | .bred h _ _ _ _ _ => some h
  | .bupd h _ _ _ _ _ => some h
  | .qinit h _ _ => some h
  | .qenq h _ _ _ _ _ _ => some h
  | .qdeq h _ _ _ _ _ _ => some h
  | .atom h _ _ _ _ _ => some h
  | .lda h _ _ _ _ => some h
  | .str h _ _ _ _ => some h
  | .fence h _ => some h
  | .barInit h _ _ _ => some h
  | .barArrive h _ _ => some h
  | .barWait h _ _ => some h
  | .barSync h _ _ => some h
  | .barDrop h _ _ => some h
  | .barExpect h _ _ => some h
  | .barBind h _ _ => some h
  | .tlwait h _ _ => some h
  | .tlread h _ _ => some h
  | .yield h _ _ _ => some h
  | .gang h _ => some h
  | .mma h _ _ _ _ => some h
  | .acczero h _ => some h
  | .accld h _ _ => some h
  | .accst h _ _ => some h
  | .acccvt h _ _ _ _ => some h
  | .scfg h _ _ _ _ => some h
  | .srun h => some h
  | .scin h => some h
  | .scout h => some h
  | .sfix h => some h
  | .cpy h _ _ _ _ _ => some h
  | .lrmk h _ _ _ => some h
  | .gxch h _ _ _ _ _ _ _ => some h
  | .shmul h _ _ _ _ _ => some h
  | .shtrunc h _ _ _ _ _ => some h
  | .shsign h _ _ _ _ => some h
  | .shopen h _ _ _ _ => some h
  | .shin h _ _ _ _ => some h
  | .send h _ _ _ => some h
  | .recv h _ _ _ _ _ _ => some h
  | .mprobe h _ _ _ _ _ => some h
  | .trap h _ => some h
  | .rtt h => some h
  | .brkp h _ => some h
  | .rdsr h _ _ => some h
  | .wrsr h _ _ => some h
  | .mark h _ _ => some h
  | .lnch h _ _ => some h
  | .ldep h _ _ _ => some h
  | .lwait h _ _ _ => some h
  | .lsig h _ _ _ => some h
  | .pairedNop .. | .pairedMov .. | .pairedMovi .. | .pairedIadd .. | .pairedIsub .. | .pairedAnd .. | .pairedOr ..
    | .pairedXor .. | .pairedShl .. | .pairedShr .. | .pairedSar .. | .pairedImin .. | .pairedImax .. | .pairedIneg ..
    | .pairedNot .. | .pairedFadd .. | .pairedFsub .. | .pairedFmul .. | .pairedFmin .. | .pairedFmax ..
    | .pairedFneg .. | .pairedFabs .. | .pairedIaddZ16 .. | .pairedIsubZ16 .. | .pairedIaddZ32 .. | .pairedIsubZ32 ..
    | .fixedLatencyResult .. | .pendingResultWrite .. | .storeRegistration .. | .homeBankOperation .. | .joinArrival ..
    | .comparatorFire .. | .barstall .. | .combinerArrival .. | .combinerRelease .. | .matrixOperationComplete ..
    | .copyTransferComplete .. | .scanOperationComplete .. | .carryDelivery .. | .straitWordArrival .. | .abort ..
    | .hand .. | .gateTimeout .. | .handDeal .. | .entropyHealthFailure | .messageArrival .. | .teamRetirement ..
    | .launchRetirement .. | .launchReady .. | .dispatch .. | .aging .. | .priorityPreemption .. | .spanIdle ..
    | .linkShareWindow .. | .drainExpiry .. | .saveComplete .. | .flushComplete .. | .parkLimitExpiry ..
    | .coreScrubComplete .. | .replicaInvalidation .. | .collapseComplete .. | .smpcWrite .. | .preempt .. | .kill ..
    | .restoreNow .. | .pfqhWrite .. | .pgdone .. | .tlbInvalidate .. | .invalidationComplete .. | .wayMaskWrite ..
    | .wayMaskChangeComplete .. | .keyCreate .. | .keyImport .. | .keyRetire .. | .scrub .. | .scrubComplete ..
    | .streamOpen .. | .streamClose .. | .streamQuery .. | .hqtailWrite .. | .hqcfgWrite .. | .descriptorFetch ..
    | .descriptorComplete .. | .configCommit .. | .configRead .. | .lockInterface .. | .startInterface ..
    | .stopInterface .. | .linkDown .. | .functionLevelReset .. | .ideIntegrityFailure .. | .ideKeyExpiry ..
    | .kSetGo .. | .getVersion .. | .getCapabilities .. | .negotiateAlgorithms .. | .getDigests .. | .getCertificate ..
    | .challenge .. | .getMeasurements .. | .keyExchange .. | .finish .. | .keyUpdate .. | .heartbeat ..
    | .endSession .. | .vendorDefinedRequest .. | .peerRequest .. | .peerLinkFailure .. | .hostPhysicalRead ..
    | .hostPhysicalWrite .. | .dbgattWrite .. | .stop .. | .stopEffect .. | .dbgContinue .. | .dbgStep .. | .regrd ..
    | .regwr .. | .memrd .. | .memwr .. | .cntcfgWrite .. | .regionDefine .. | .regionClose ..
    | .regionCloseComplete .. | .regionImport .. | .regionCommit .. | .regionQuery .. | .periodicCommit ..
    | .singleBitError .. | .uncorrectableError .. | .patrolScrub .. | .dieReset .. | .transitDrainLimit ..
    | .dieResetComplete .. | .fieldSwap .. | .packageReset | .packageResetRequest .. | .powerStateEntry ..
    | .islandWake .. | .wakeComplete .. | .frequencyLevelChange .. | .withheldRead .. | .alcmdLevel2 ..
    | .alcmdLevel3 .. | .tamperMeshBroken | .voltageClockFault | .registerWrite .. | .tdiConfigurationChange ..
    | .linkLevelRetry .. | .domainFormation .. => none

/-- What each word names, and its own operand rules; an event row names nothing. W is the width of the issuing group.
The v form of p2r reads p1 to p7, in ascending order (log entry 71). -/
def Instr.shape (W : Nat) : Instr → Shape
  | .nop _ => { uni := true }
  | .mov _ d a ty => intAcc d a [] ty
  | .movi _ d _ => intShape d 1 [] true
  | .movh _ d q _ => intShape d 1 [(d, 1)] (d.isS || decide (q.toNat < 2))
  | .sel _ d a b p _ ty =>
    { reads := [a.ref ty.regs, b.ref ty.regs, .p p.toNat], writes := [.v d.val ty.regs], lat := 4 }
  | .iadd _ d a b ty => intAcc d a [b] ty
  | .isub _ d a b ty => intAcc d a [b] ty
  | .imul _ d a b ty => intShape d ty.regs [(a, ty.regs), (b, ty.regs)] true
  | .imulh _ d a b ty => intShape d ty.regs [(a, ty.regs), (b, ty.regs)] (fourInt ty)
  | .imad _ d a b c ty => intShape d ty.regs [(a, ty.regs), (b, ty.regs), (c, ty.regs)] true
  | .imin _ d a b ty => intShape d ty.regs [(a, ty.regs), (b, ty.regs)] (fourInt ty)
  | .imax _ d a b ty => intShape d ty.regs [(a, ty.regs), (b, ty.regs)] (fourInt ty)
  | .iabs _ d a ty => intShape d ty.regs [(a, ty.regs)] ty.signed
  | .ineg _ d a ty => intShape d ty.regs [(a, ty.regs)] true
  | .isat _ d a _ ty => intShape d ty.regs [(a, ty.regs)] (fourInt ty)
  | .idiv _ d a b ty => divShape d a b ty
  | .irem _ d a b ty => divShape d a b ty
  | .and _ d a b ty => intAcc d a [b] ty
  | .or _ d a b ty => intAcc d a [b] ty
  | .xor _ d a b ty => intAcc d a [b] ty
  | .andn _ d a b ty => intShape d ty.regs [(a, ty.regs), (b, ty.regs)] true
  | .not _ d a ty => intShape d ty.regs [(a, ty.regs)] true
  | .shl _ d a b ty => intShape d ty.regs [(a, ty.regs), (b, 1)] true
  | .shr _ d a b ty => intShape d ty.regs [(a, ty.regs), (b, 1)] true
  | .sar _ d a b ty => intShape d ty.regs [(a, ty.regs), (b, 1)] ty.signed
  | .rot _ d a b ty => intShape d ty.regs [(a, ty.regs), (b, 1)] true
  | .bfe _ d a b ty => intShape d ty.regs [(a, ty.regs), (b, 1)] (fourInt ty)
  | .bfi _ d a b c ty => intShape d ty.regs [(a, ty.regs), (b, ty.regs), (c, 1)] true
  | .popc _ d a ty => intShape d 1 [(a, ty.regs)] true
  | .clz _ d a ty => intShape d 1 [(a, ty.regs)] true
  | .brev _ d a ty => intShape d ty.regs [(a, ty.regs)] true
  | .icmp _ p a b cond ty =>
    { reads := [a.ref ty.regs, b.ref ty.regs], writes := [.p p.toNat], lat := 4,
      ok := p != 0 && (!ty.ring || cond = .eq || cond = .ne) }
  | .lea _ d a b _ ty => intShape d 2 [(a, 2), (b, ty.regs)] (fourInt ty)
  | .fadd _ d a b ty _ => fpAcc d a b ty
  | .fsub _ d a b ty _ => fpAcc d a b ty
  | .fmul _ d a b ty _ => fpAcc d a b ty
  | .ffma _ d a b ty _ =>
    match a with
    | .reg a c => fpShape d [a, b, c] 5 true
    | .acc f => { reads := [b.ref 1, d.ref 1], writes := [d.ref 1], lat := 8, frag := some f, ok := !d.isS && (ty = .f32) }
  | .fmin _ d a b ty => fpAcc d a b ty
  | .fmax _ d a b ty => fpAcc d a b ty
  | .fcmp _ p a b ty =>
    match a with
    | .reg a _ => { reads := [a.ref 1, b.ref 1], writes := [.p p.toNat], lat := 5, ok := p != 0 && (ty != .bf16x2) }
    | .acc f _ => { reads := [b.ref 1], writes := [.p p.toNat], lat := 8, frag := some f, ok := p != 0 && (ty = .f32) }
  | .fclass _ d a ty => fpShape d [a] 5 (ty != .bf16x2)
  | .frcp _ d a _ => fpShape d [a] 12 true
  | .frsq _ d a _ => fpShape d [a] 12 true
  | .fsqrt _ d a _ _ => fpShape d [a] 0 true
  | .fdiv _ d a b _ _ => fpShape d [a, b] 0 true
  | .fexp2 _ d a _ => fpShape d [a] 12 true
  | .flog2 _ d a _ => fpShape d [a] 12 true
  | .fsin _ d a _ => fpShape d [a] 12 true
  | .fcos _ d a _ => fpShape d [a] 12 true
  | .ftanh _ d a _ => fpShape d [a] 12 true
  | .fsig _ d a _ => fpShape d [a] 12 true
  | .fround _ d a _ _ => fpShape d [a] 5 true
  | .fscale _ d a b _ _ => fpShape d [a, b] 5 true
  | .cvt _ d src _ =>
    match src with
    | .reg a sty dty =>
      { reads := [a.ref sty.regs], writes := [d.ref dty.regs], uni := d.isS, lat := 5, ok := cvtLegal sty dty && sDest d [a] }
    | .pair a b => fpShape d [a, b] 5 true
    | .acc f dty => { writes := [d.ref dty.regs], lat := 8, frag := some f, ok := !d.isS && cvtLegal .f32 dty }
  | .bfpk _ d a w desc ty _ => blockShape d a (packedRegs w W) (valueRegs ty W) w desc true true
  | .bfup _ d a w desc ty rnd =>
    blockShape d a (valueRegs ty W) (packedRegs w W) w desc false (ty = .f32 && rnd = .dyn || ty = .bf16)
  | .bfscl _ d a w desc ty _ => blockShape d a (packedRegs w W) (valueRegs ty W) w desc false true
  | .fdot2 _ d a b c _ => fpShape d [a, b, c] 5 true
  | .bra _ _ _ => {}
  | .jmp _ a => { reads := [a.ref 2] }
  | .call _ _ _ => {}
  | .ret _ => {}
  | .regang _ m => { reads := (match m with | some a => [.s a.val] | none => []) }
  | .exit _ => {}
  | .inv _ d a b len _ _ _ _ =>
    { reads := [b.ref 1], writes := [.v d.val 1, .v a.val 1],
      ok := len != 0 && d != a && b != .v d && b != .v a }
  | .bkset _ _ a b maxit _ _ => { reads := [a.ref 1, b.ref 1], ok := maxit != 0 }
  | .bkget _ d _ fld => { writes := [d.ref 1], lat := 4, uni := d.isS, ok := !d.isS || fld.toNat ≥ 6 }
  | .prm _ d a b _ w64 =>
    { reads := [.v a.val (if w64 then 2 else 1), b.ref 1], writes := [.v d.val (if w64 then 2 else 1)], lat := 6 }
  | .vote _ d p =>
    match d with
    | .any q => { reads := [.p p.toNat], writes := [.p q.toNat], lat := 6, ok := q != 0 }
    | .all q => { reads := [.p p.toNat], writes := [.p q.toNat], lat := 6, ok := q != 0 }
    | .uni q => { reads := [.p p.toNat], writes := [.p q.toNat], lat := 6, ok := q != 0 }
    | .ballot n => { reads := [.p p.toNat], writes := [.s n.val], lat := 6, uni := true }
  | .lred _ d a op rnd =>
    { reads := [.v a.val (if op = .addI64 then 2 else 1)], writes := [.s d.val], lat := 6, uni := true,
      ok := op = .fadd || rnd = .dyn }
  | .lscan _ d a _ op rnd =>
    { reads := [.v a.val (if op = .addI64 then 2 else 1)], writes := [.v d.val (if op = .addI64 then 2 else 1)], lat := 6,
      ok := op = .fadd || rnd = .dyn }
  | .rdlane _ d a b w64 =>
    { reads := [.v a.val (if w64 then 2 else 1), .s b.val], writes := [.s d.val], lat := 6, uni := true }
  | .plop _ d a b _ => { reads := [.p a.toNat, .p b.toNat], writes := [.p d.toNat], lat := 4, ok := d != 0 }
  | .p2r _ d =>
    match d with
    | .v d => { reads := [1, 2, 3, 4, 5, 6, 7].map Ref.p, writes := [.v d.val 1], lat := 4 }
    | .s d p => { reads := [.p p.toNat], writes := [.s d.val], lat := 4, uni := true }
  | .r2p _ a mask =>
    { reads := [a.ref 1], writes := ([1, 2, 3, 4, 5, 6, 7].filter (fun j => mask.getLsbD j)).map Ref.p, lat := 4,
      ok := !mask.getLsbD 0 }
  | .ld _ d m sz _ => loadShape d m sz true true
  | .st _ d m sz _ => storeShape d m sz true true
  | .ldl _ d m sz _ => loadShape d m sz false true
  | .stl _ d m sz _ => storeShape d m sz false true
  | .lds _ d m sz _ _ => loadShape d m sz false true
  | .sts _ d m sz _ _ => storeShape d m sz false true
  | .pf _ m _ _ => { reads := m.refs, hint := true, uni := m.idx.isNone }
  | .bred _ d m sz op _ => storeShape d m sz true (op.okSz sz)
  | .bupd _ d m sz _ _ => { storeShape (.v d) m .b64 true (sz = .b32) with }
  | .qinit _ a b => sysShape [] [a, b]
  | .qenq _ d m sz _ p _ =>
    { storeShape d m sz false (word48 sz) with writes := if p = 0 then [] else [.p p.toNat] }
  | .qdeq _ d m sz _ p _ =>
    let x := loadShape d m sz false (word48 sz)
    { x with writes := x.writes ++ (if p = 0 then [] else [.p p.toNat]) }
  | .atom _ d m sz op ord =>
    { reads := m.refs ++ [.v d.val (atomRegs op sz)], hint := true, ok := atomOk op ord sz,
      writes := if ord = .com then [] else [.img d.val sz.regs] }
  | .lda _ d m sz _ => loadShape d m sz true (sz != .b128)
  | .str _ d m sz _ => storeShape d m sz true (sz != .b128)
  | .fence _ _ => { uni := true }
  | .barInit _ a _ _ => sysShape [] [a]
  | .barArrive _ d _ => barShape d
  | .barWait _ a _ => sysShape [] [a]
  | .barSync _ d _ => barShape d
  | .barDrop _ d _ => barShape d
  | .barExpect _ a _ => sysShape [] [a]
  | .barBind _ _ _ => { uni := true }
  | .tlwait _ a _ => sysShape [] [a]
  | .tlread _ d _ => sysShape [d] []
  | .yield _ _ b _ => sysShape [] [b]
  | .gang _ a => sysShape [] [a] (some .m)
  | .mma _ t a b mode =>
    { sysShape [] [a, b] (some .m) (match mode with | .bfp wa wb _ => wa != 0 && wb != 0 | _ => true) with
      tiles := some (t.toNat, 1) }
  | .acczero _ t => { sysShape [] [] (some .m) with tiles := some (t.toNat, 1) }
  | .accld _ t a => { sysShape [] [a] (some .m) with tiles := some (t.toNat, 1) }
  | .accst _ t a => { sysShape [] [a] (some .m) with tiles := some (t.toNat, 1) }
  | .acccvt _ t a fmt _ =>
    match fmt with
    | .bf16 => { sysShape [] [a] (some .m) with tiles := some (t.toNat, 1) }
    | .bfp w => { sysShape [] [a] (some .m) (w != 0) with tiles := some (t.toNat, 4) }
    | .bfpc w => { sysShape [] [a] (some .m) (w != 0) with tiles := some (t.toNat, 4) }
  | .scfg _ a b dch _ => sysShape [] [a, b] (some .v) (1 ≤ dch.toNat && dch.toNat ≤ 64)
  | .srun _ => { uni := true, role := some .v }
  | .scin _ => { uni := true, role := some .v }
  | .scout _ => { uni := true, role := some .v }
  | .sfix _ => { uni := true, role := some .v }
  | .cpy _ d a b _ _ => sysShape [] [a, b, d] (some .c)
  | .lrmk _ d a b => sysShape [d] [a, b]
  | .gxch _ d a b _ _ _ _ => sysShape [] [a, b, d] (some .c)
  | .shmul _ d a b _ k => shShape d [a, b] k true
  | .shtrunc _ d a _ f k => shShape d [a] k (f != 0)
  | .shsign _ d a _ k => shShape d [a] k true
  | .shopen _ d a _ k => shShape d [a] k true
  | .shin _ d own _ k => shShape d (match own with | .own a => [a] | .other => []) k true
  | .send _ a b _ => sysShape [] [a, b]
  | .recv _ d a b _ _ _ => sysShape [d] [a, b]
  | .mprobe _ d a _ _ _ => sysShape [d] [a]
  | .trap _ _ => { uni := true }
  | .rtt _ => { uni := true }
  | .brkp _ _ => { uni := true }
  | .rdsr _ d sr =>
    { writes := [d.ref (if sr.bits = 64 then 2 else 1)], uni := d.isS, ok := !(d.isS && sr = .laneid) }
  | .wrsr _ a _ => sysShape [] [a]
  | .mark _ a _ => sysShape [] [a]
  | .lnch _ d a => sysShape [d] [a]
  | .ldep _ a b _ => sysShape [] [a, b]
  | .lwait _ a b _ => sysShape [] [a, b]
  | .lsig _ a b _ => sysShape [] [a, b]
  | .pairedNop _ a b => pairShape ⟨.nop, a⟩ b
  | .pairedMov _ a b => pairShape ⟨.mov, a⟩ b
  | .pairedMovi _ a b => pairShape ⟨.movi, a⟩ b
  | .pairedIadd _ a b => pairShape ⟨.iadd, a⟩ b
  | .pairedIsub _ a b => pairShape ⟨.isub, a⟩ b
  | .pairedAnd _ a b => pairShape ⟨.and, a⟩ b
  | .pairedOr _ a b => pairShape ⟨.or, a⟩ b
  | .pairedXor _ a b => pairShape ⟨.xor, a⟩ b
  | .pairedShl _ a b => pairShape ⟨.shl, a⟩ b
  | .pairedShr _ a b => pairShape ⟨.shr, a⟩ b
  | .pairedSar _ a b => pairShape ⟨.sar, a⟩ b
  | .pairedImin _ a b => pairShape ⟨.imin, a⟩ b
  | .pairedImax _ a b => pairShape ⟨.imax, a⟩ b
  | .pairedIneg _ a b => pairShape ⟨.ineg, a⟩ b
  | .pairedNot _ a b => pairShape ⟨.not, a⟩ b
  | .pairedFadd _ a b => pairShape ⟨.fadd, a⟩ b
  | .pairedFsub _ a b => pairShape ⟨.fsub, a⟩ b
  | .pairedFmul _ a b => pairShape ⟨.fmul, a⟩ b
  | .pairedFmin _ a b => pairShape ⟨.fmin, a⟩ b
  | .pairedFmax _ a b => pairShape ⟨.fmax, a⟩ b
  | .pairedFneg _ a b => pairShape ⟨.fneg, a⟩ b
  | .pairedFabs _ a b => pairShape ⟨.fabs, a⟩ b
  | .pairedIaddZ16 _ a b => pairShape ⟨.iaddZ16, a⟩ b
  | .pairedIsubZ16 _ a b => pairShape ⟨.isubZ16, a⟩ b
  | .pairedIaddZ32 _ a b => pairShape ⟨.iaddZ32, a⟩ b
  | .pairedIsubZ32 _ a b => pairShape ⟨.isubZ32, a⟩ b
  | .fixedLatencyResult .. | .pendingResultWrite .. | .storeRegistration .. | .homeBankOperation .. | .joinArrival ..
    | .comparatorFire .. | .barstall .. | .combinerArrival .. | .combinerRelease .. | .matrixOperationComplete ..
    | .copyTransferComplete .. | .scanOperationComplete .. | .carryDelivery .. | .straitWordArrival .. | .abort ..
    | .hand .. | .gateTimeout .. | .handDeal .. | .entropyHealthFailure | .messageArrival .. | .teamRetirement ..
    | .launchRetirement .. | .launchReady .. | .dispatch .. | .aging .. | .priorityPreemption .. | .spanIdle ..
    | .linkShareWindow .. | .drainExpiry .. | .saveComplete .. | .flushComplete .. | .parkLimitExpiry ..
    | .coreScrubComplete .. | .replicaInvalidation .. | .collapseComplete .. | .smpcWrite .. | .preempt .. | .kill ..
    | .restoreNow .. | .pfqhWrite .. | .pgdone .. | .tlbInvalidate .. | .invalidationComplete .. | .wayMaskWrite ..
    | .wayMaskChangeComplete .. | .keyCreate .. | .keyImport .. | .keyRetire .. | .scrub .. | .scrubComplete ..
    | .streamOpen .. | .streamClose .. | .streamQuery .. | .hqtailWrite .. | .hqcfgWrite .. | .descriptorFetch ..
    | .descriptorComplete .. | .configCommit .. | .configRead .. | .lockInterface .. | .startInterface ..
    | .stopInterface .. | .linkDown .. | .functionLevelReset .. | .ideIntegrityFailure .. | .ideKeyExpiry ..
    | .kSetGo .. | .getVersion .. | .getCapabilities .. | .negotiateAlgorithms .. | .getDigests .. | .getCertificate ..
    | .challenge .. | .getMeasurements .. | .keyExchange .. | .finish .. | .keyUpdate .. | .heartbeat ..
    | .endSession .. | .vendorDefinedRequest .. | .peerRequest .. | .peerLinkFailure .. | .hostPhysicalRead ..
    | .hostPhysicalWrite .. | .dbgattWrite .. | .stop .. | .stopEffect .. | .dbgContinue .. | .dbgStep .. | .regrd ..
    | .regwr .. | .memrd .. | .memwr .. | .cntcfgWrite .. | .regionDefine .. | .regionClose ..
    | .regionCloseComplete .. | .regionImport .. | .regionCommit .. | .regionQuery .. | .periodicCommit ..
    | .singleBitError .. | .uncorrectableError .. | .patrolScrub .. | .dieReset .. | .transitDrainLimit ..
    | .dieResetComplete .. | .fieldSwap .. | .packageReset | .packageResetRequest .. | .powerStateEntry ..
    | .islandWake .. | .wakeComplete .. | .frequencyLevelChange .. | .withheldRead .. | .alcmdLevel2 ..
    | .alcmdLevel3 .. | .tamperMeshBroken | .voltageClockFault | .registerWrite .. | .tdiConfigurationChange ..
    | .linkLevelRetry .. | .domainFormation .. => {}

/-- R14, R147, R255: a per-lane word; a bkset writes each lane's bracket whatever it reads, and bra, call, ret and exit act on the lanes
whose condition is true. -/
def Instr.perLane (i : Instr) (W : Nat) : Bool :=
  match i with
  | .bkset .. | .bra .. | .call .. | .ret .. | .exit .. => true
  | _ => (i.shape W).perLane

/-- R12: a cache hint stands only on the words that take one. -/
def Instr.hintOk (i : Instr) : Bool :=
  match i.hdr? with
  | some h => h.ch = 0 || (i.shape 32).hint
  | none => true

/-- R38: every rule whose breach makes a word trap ILL whatever the issuing kernel is. -/
def Instr.legal (i : Instr) : Bool :=
  let x := i.shape 32
  x.ok && i.hintOk && x.reads.all Ref.aligned && x.writes.all Ref.aligned

end Sys2Proof
end

