-- ==== Sys2Proof/WellFormed.lean ====
section
/-! DEFINITION. Which instructions are well-formed: those that break none of the rules whose breach makes a word
trap ILL by decoding (R38): operand rules, alignment of pairs and quads, cache hints, pairing rules. -/

namespace Sys2Proof

/-- R38: the instruction breaks no rule of decoding. -/
def Instr.wf (i : Instr) : Bool := i.legal

end Sys2Proof
end

