-- ==== Sys2Proof/Decode.lean ====
section
/-! DEFINITION. Decoding and encoding instruction words, from the field tables of R10, R15-R29 and the instruction
entries. The decoder reads the fields, forms the one candidate instruction the opcode allows, and accepts it only when
encoding it gives the same word again and its operand rules hold: so every reserved bit that is set, every unlisted
code and every operand rule broken makes the word illegal (R38). -/

namespace Sys2Proof

/-- R19: the code of each value. -/
def ITy.code : ITy → Nat
  | .i32 => 0
  | .n32 => 1
  | .i64 => 2
  | .n64 => 3
  | .z16 => 4
  | .z32 => 5
  | .z64 => 6

def ITy.ofCode : Nat → Option ITy
  | 0 => some .i32
  | 1 => some .n32
  | 2 => some .i64
  | 3 => some .n64
  | 4 => some .z16
  | 5 => some .z32
  | 6 => some .z64
  | _ => none

/-- R19: the code of each value. -/
def FTy.code : FTy → Nat
  | .f32 => 0
  | .bf16 => 1
  | .bf16x2 => 2

def FTy.ofCode : Nat → Option FTy
  | 0 => some .f32
  | 1 => some .bf16
  | 2 => some .bf16x2
  | _ => none

/-- R70: the code of each value. -/
def Rnd.code : Rnd → Nat
  | .dyn => 0
  | .rne => 1
  | .rtz => 2
  | .rdn => 3
  | .rup => 4
  | .rna => 5
  | .sr => 6

def Rnd.ofCode : Nat → Option Rnd
  | 0 => some .dyn
  | 1 => some .rne
  | 2 => some .rtz
  | 3 => some .rdn
  | 4 => some .rup
  | 5 => some .rna
  | 6 => some .sr
  | _ => none

/-- R23: the code of each value. -/
def Sz.code : Sz → Nat
  | .i8 => 0
  | .n8 => 1
  | .i16 => 2
  | .n16 => 3
  | .b32 => 4
  | .b64 => 5
  | .b128 => 6

def Sz.ofCode : Nat → Option Sz
  | 0 => some .i8
  | 1 => some .n8
  | 2 => some .i16
  | 3 => some .n16
  | 4 => some .b32
  | 5 => some .b64
  | 6 => some .b128
  | _ => none

/-- R113: the code of each value. -/
def ICond.code : ICond → Nat
  | .eq => 0
  | .ne => 1
  | .lt => 2
  | .le => 3
  | .gt => 4
  | .ge => 5

def ICond.ofCode : Nat → Option ICond
  | 0 => some .eq
  | 1 => some .ne
  | 2 => some .lt
  | 3 => some .le
  | 4 => some .gt
  | 5 => some .ge
  | _ => none

/-- R124: the code of each value. -/
def FCond.code : FCond → Nat
  | .eq => 0
  | .ne => 1
  | .lt => 2
  | .le => 3
  | .gt => 4
  | .ge => 5
  | .ord => 6
  | .uno => 7

def FCond.ofCode : Nat → Option FCond
  | 0 => some .eq
  | 1 => some .ne
  | 2 => some .lt
  | 3 => some .le
  | 4 => some .gt
  | 5 => some .ge
  | 6 => some .ord
  | 7 => some .uno
  | _ => none

/-- R107: the code of each value. -/
def SatTo.code : SatTo → Nat
  | .i8 => 0
  | .n8 => 1
  | .i16 => 2
  | .n16 => 3
  | .i32 => 4
  | .n32 => 5

def SatTo.ofCode : Nat → Option SatTo
  | 0 => some .i8
  | 1 => some .n8
  | 2 => some .i16
  | 3 => some .n16
  | 4 => some .i32
  | 5 => some .n32
  | _ => none

/-- R132: the code of each value. -/
def PrmMode.code : PrmMode → Nat
  | .idx => 0
  | .xor => 1
  | .up => 2
  | .down => 3
  | .rot => 4

def PrmMode.ofCode : Nat → Option PrmMode
  | 0 => some .idx
  | 1 => some .xor
  | 2 => some .up
  | 3 => some .down
  | 4 => some .rot
  | _ => none

/-- R135: the code of each value. -/
def RedOp.code : RedOp → Nat
  | .addI32 => 0
  | .addZ32 => 1
  | .addZ16 => 2
  | .addI64 => 3
  | .minI32 => 4
  | .maxI32 => 5
  | .minN32 => 6
  | .maxN32 => 7
  | .and => 8
  | .or => 9
  | .xor => 10
  | .fadd => 11
  | .fmin => 12
  | .fmax => 13

def RedOp.ofCode : Nat → Option RedOp
  | 0 => some .addI32
  | 1 => some .addZ32
  | 2 => some .addZ16
  | 3 => some .addI64
  | 4 => some .minI32
  | 5 => some .maxI32
  | 6 => some .minN32
  | 7 => some .maxN32
  | 8 => some .and
  | 9 => some .or
  | 10 => some .xor
  | 11 => some .fadd
  | 12 => some .fmin
  | 13 => some .fmax
  | _ => none

/-- R173: the code of each value. -/
def Window.code : Window → Nat
  | .core => 0
  | .clu => 1
  | .span => 2

def Window.ofCode : Nat → Option Window
  | 0 => some .core
  | 1 => some .clu
  | 2 => some .span
  | _ => none

/-- R174: the code of each value. -/
def BredOp.code : BredOp → Nat
  | .add => 0
  | .smin => 1
  | .smax => 2
  | .umin => 3
  | .umax => 4
  | .fadd => 5
  | .bfadd => 6

def BredOp.ofCode : Nat → Option BredOp
  | 0 => some .add
  | 1 => some .smin
  | 2 => some .smax
  | 3 => some .umin
  | 4 => some .umax
  | 5 => some .fadd
  | 6 => some .bfadd
  | _ => none

/-- R175: the code of each value. -/
def BupdOp.code : BupdOp → Nat
  | .f32 => 0
  | .bf16x2 => 1
  | .z32 => 2

def BupdOp.ofCode : Nat → Option BupdOp
  | 0 => some .f32
  | 1 => some .bf16x2
  | 2 => some .z32
  | _ => none

/-- R181: the code of each value. -/
def AtomOp.code : AtomOp → Nat
  | .exch => 0
  | .cas => 1
  | .add => 2
  | .and => 3
  | .or => 4
  | .xor => 5
  | .smin => 6
  | .smax => 7
  | .umin => 8
  | .umax => 9
  | .fadd => 10

def AtomOp.ofCode : Nat → Option AtomOp
  | 0 => some .exch
  | 1 => some .cas
  | 2 => some .add
  | 3 => some .and
  | 4 => some .or
  | 5 => some .xor
  | 6 => some .smin
  | 7 => some .smax
  | 8 => some .umin
  | 9 => some .umax
  | 10 => some .fadd
  | _ => none

/-- R183: the code of each value. -/
def AtomOrd.code : AtomOrd → Nat
  | .unp => 0
  | .com => 1
  | .nord => 2
  | .qnt => 3
  | .spec => 4
  | .acq => 5
  | .rel => 6
  | .acqrel => 7

def AtomOrd.ofCode : Nat → Option AtomOrd
  | 0 => some .unp
  | 1 => some .com
  | 2 => some .nord
  | 3 => some .qnt
  | 4 => some .spec
  | 5 => some .acq
  | 6 => some .rel
  | 7 => some .acqrel
  | _ => none

/-- R184: the code of each value. -/
def FenceKind.code : FenceKind → Nat
  | .full => 0
  | .acq => 1
  | .rel => 2

def FenceKind.ofCode : Nat → Option FenceKind
  | 0 => some .full
  | 1 => some .acq
  | 2 => some .rel
  | _ => none

/-- R194: the code of each value. -/
def BarLevel.code : BarLevel → Nat
  | .team => 0
  | .die => 1
  | .pkg => 2

def BarLevel.ofCode : Nat → Option BarLevel
  | 0 => some .team
  | 1 => some .die
  | 2 => some .pkg
  | _ => none

/-- R24: the code of each value. -/
def InvMeth.code : InvMeth → Nat
  | .bis => 0
  | .sec => 1
  | .ulp => 2

def InvMeth.ofCode : Nat → Option InvMeth
  | 0 => some .bis
  | 1 => some .sec
  | 2 => some .ulp
  | _ => none

/-- R238: the code of each value. -/
def ZWidth.code : ZWidth → Nat
  | .z16 => 0
  | .z32 => 1
  | .z64 => 2

def ZWidth.ofCode : Nat → Option ZWidth
  | 0 => some .z16
  | 1 => some .z32
  | 2 => some .z64
  | _ => none

/-- R245: the code of each value. -/
def MsgLen.code : MsgLen → Nat
  | .l8 => 0
  | .l16 => 1
  | .l32 => 2
  | .l64 => 3
  | .l128 => 4
  | .l256 => 5

def MsgLen.ofCode : Nat → Option MsgLen
  | 0 => some .l8
  | 1 => some .l16
  | 2 => some .l32
  | 3 => some .l64
  | 4 => some .l128
  | 5 => some .l256
  | _ => none

/-- R92: the code of each value. -/
def SpecialReg.code : SpecialReg → Nat
  | .mode => 0
  | .flags => 1
  | .gstat => 2
  | .laneid => 3
  | .groupid => 4
  | .teamid => 5
  | .spanid => 6
  | .dieid => 7
  | .core => 8
  | .width => 9
  | .clock => 10
  | .tcause => 11
  | .tpc => 12
  | .tval => 13
  | .ebudget => 14
  | .chainpos => 15

def SpecialReg.ofCode : Nat → Option SpecialReg
  | 0 => some .mode
  | 1 => some .flags
  | 2 => some .gstat
  | 3 => some .laneid
  | 4 => some .groupid
  | 5 => some .teamid
  | 6 => some .spanid
  | 7 => some .dieid
  | 8 => some .core
  | 9 => some .width
  | 10 => some .clock
  | 11 => some .tcause
  | 12 => some .tpc
  | 13 => some .tval
  | 14 => some .ebudget
  | 15 => some .chainpos
  | _ => none

/-- R126: the code of each value. -/
def CvtTy.code : CvtTy → Nat
  | .f32 => 0
  | .bf16 => 1
  | .bf16x2 => 2
  | .i32 => 3
  | .n32 => 4
  | .i64 => 5
  | .n64 => 6
  | .z16 => 7
  | .z32 => 8
  | .z64 => 9
  | .bf16h => 10

def CvtTy.ofCode : Nat → Option CvtTy
  | 0 => some .f32
  | 1 => some .bf16
  | 2 => some .bf16x2
  | 3 => some .i32
  | 4 => some .n32
  | 5 => some .i64
  | 6 => some .n64
  | 7 => some .z16
  | 8 => some .z32
  | 9 => some .z64
  | 10 => some .bf16h
  | _ => none

/-- R217: the code of each value. -/
def ScanPre.code : ScanPre → Nat
  | .none => 0
  | .exp2 => 1
  | .sig => 2

def ScanPre.ofCode : Nat → Option ScanPre
  | 0 => some .none
  | 1 => some .exp2
  | 2 => some .sig
  | _ => Option.none

/-- R26: the code of each paired operation. -/
def POp.code : POp → Nat
  | .nop => 0
  | .mov => 1
  | .movi => 2
  | .iadd => 3
  | .isub => 4
  | .and => 5
  | .or => 6
  | .xor => 7
  | .shl => 8
  | .shr => 9
  | .sar => 10
  | .imin => 11
  | .imax => 12
  | .ineg => 13
  | .not => 14
  | .fadd => 16
  | .fsub => 17
  | .fmul => 18
  | .fmin => 19
  | .fmax => 20
  | .fneg => 21
  | .fabs => 22
  | .iaddZ16 => 24
  | .isubZ16 => 25
  | .iaddZ32 => 26
  | .isubZ32 => 27

def POp.ofCode : Nat → Option POp
  | 0 => some .nop
  | 1 => some .mov
  | 2 => some .movi
  | 3 => some .iadd
  | 4 => some .isub
  | 5 => some .and
  | 6 => some .or
  | 7 => some .xor
  | 8 => some .shl
  | 9 => some .shr
  | 10 => some .sar
  | 11 => some .imin
  | 12 => some .imax
  | 13 => some .ineg
  | 14 => some .not
  | 16 => some .fadd
  | 17 => some .fsub
  | 18 => some .fmul
  | 19 => some .fmin
  | 20 => some .fmax
  | 21 => some .fneg
  | 22 => some .fabs
  | 24 => some .iaddZ16
  | 25 => some .isubZ16
  | 26 => some .iaddZ32
  | 27 => some .isubZ32
  | _ => none

/-- Bits [sh + w - 1 : sh] of x. -/
def fld (x sh w : Nat) : Nat := x / 2 ^ sh % 2 ^ w

/-- R15: the specifier of an operand. -/
def Opr.code : Opr → Nat
  | .v n => n.val
  | .s n => 192 + n.val

def Opr.ofCode (n : Nat) : Option Opr :=
  if h : n < 192 then some (.v ⟨n, h⟩) else if h' : n - 192 < 64 then some (.s ⟨n - 192, h'⟩) else none

/-- R15: a v register specifier. -/
def vOfCode (n : Nat) : Option (Fin 192) := if h : n < 192 then some ⟨n, h⟩ else none

/-- R15: an s register specifier. -/
def sOfCode (n : Nat) : Option (Fin 64) :=
  if 192 ≤ n then (if h : n - 192 < 64 then some ⟨n - 192, h⟩ else none) else none

/-- R20: the fields of an accumulator fragment with AF = 1. -/
def AccFrag.body (f : AccFrag) : Nat := f.tile.toNat * 2 ^ 23 + f.row.toNat * 2 ^ 9 + f.q.toNat * 2 ^ 7 + 2 ^ 6

def AccFrag.ofBody (x : Nat) : AccFrag :=
  ⟨BitVec.ofNat 6 (fld x 23 6), BitVec.ofNat 6 (fld x 9 6), BitVec.ofNat 2 (fld x 7 2)⟩

def ASrc.body : ASrc → Nat
  | .reg a => a.code * 2 ^ 23
  | .acc f => f.body

def ASrc.ofBody (x : Nat) : Option ASrc :=
  if fld x 6 1 = 1 then some (.acc (AccFrag.ofBody x)) else (Opr.ofCode (fld x 23 8)).map .reg

/-- R118: ffma with a C register, or with an accumulator fragment. -/
def FfmaSrc.body : FfmaSrc → Nat
  | .reg a c => a.code * 2 ^ 23 + c.code * 2 ^ 7
  | .acc f => f.body

def FfmaSrc.ofBody (x : Nat) : Option FfmaSrc :=
  if fld x 6 1 = 1 then some (.acc (AccFrag.ofBody x))
  else do
    let a ← Opr.ofCode (fld x 23 8)
    let c ← Opr.ofCode (fld x 7 8)
    some (.reg a c)

/-- R118, R124: fcmp's condition stands in C, or in SUB with AF. -/
def FcmpSrc.body : FcmpSrc → Nat
  | .reg a cond => a.code * 2 ^ 23 + cond.code * 2 ^ 7
  | .acc f cond => f.body + cond.code

def FcmpSrc.ofBody (x : Nat) : Option FcmpSrc :=
  if fld x 6 1 = 1 then (FCond.ofCode (fld x 0 3)).map (.acc (AccFrag.ofBody x))
  else do
    let a ← Opr.ofCode (fld x 23 8)
    let cond ← FCond.ofCode (fld x 7 8)
    some (.reg a cond)

/-- R126, R118: cvt's types stand in C, the second source of bf16x2 in B; with AF the destination type is in B. -/
def CvtSrc.body : CvtSrc → Nat
  | .reg a src dst => a.code * 2 ^ 23 + dst.code * 2 ^ 11 + src.code * 2 ^ 7
  | .pair a b => a.code * 2 ^ 23 + b.code * 2 ^ 15 + 2 * 2 ^ 11
  | .acc f dst => f.body + dst.code * 2 ^ 15

def CvtSrc.ofBody (x : Nat) : Option CvtSrc :=
  if fld x 6 1 = 1 then (CvtTy.ofCode (fld x 15 8)).map (.acc (AccFrag.ofBody x))
  else if fld x 7 8 = 0x20 then do
    let a ← Opr.ofCode (fld x 23 8)
    let b ← Opr.ofCode (fld x 15 8)
    some (.pair a b)
  else do
    let a ← Opr.ofCode (fld x 23 8)
    let dst ← CvtTy.ofCode (fld x 11 4)
    let src ← CvtTy.ofCode (fld x 7 4)
    some (.reg a src dst)

/-- R23: base, index and scale of an FM word. -/
def Mem.body (m : Mem) : Nat :=
  (192 + m.base.val) * 2 ^ 23 +
    (match m.idx with
     | some (n, sc) => n.val * 2 ^ 15 + 2 ^ 11 + sc.toNat * 2 ^ 9
     | none => 0)

def Mem.ofBody (x : Nat) : Option Mem := do
  let base ← sOfCode (fld x 23 8)
  if fld x 11 1 = 1 then
    let n ← vOfCode (fld x 15 8)
    some ⟨base, some (n, BitVec.ofNat 2 (fld x 9 2))⟩
  else some ⟨base, none⟩

/-- R152: regang's mask register with M. -/
def optSBody : Option (Fin 64) → Nat
  | some a => (192 + a.val) * 2 ^ 23 + 1
  | none => 0

def optSOf (x : Nat) : Option (Option (Fin 64)) :=
  if fld x 0 1 = 1 then (sOfCode (fld x 23 8)).map some else some none

/-- R190: the phase destination of an arrival with T. -/
def optTBody : Option (Fin 64) → Nat
  | some a => (192 + a.val) * 2 ^ 31 + 1
  | none => 0

def optTOf (x : Nat) : Option (Option (Fin 64)) :=
  if fld x 0 1 = 1 then (sOfCode (fld x 31 8)).map some else some none

/-- R232: the barrier of a copy with BE. -/
def optNbBody : Option (BitVec 4) → Nat
  | some nb => nb.toNat * 2 ^ 7 + 2
  | none => 0

def optNbOf (x : Nat) : Option (Option (BitVec 4)) :=
  if fld x 1 1 = 1 then some (some (BitVec.ofNat 4 (fld x 7 4))) else some none

/-- R133: vote's mode and destination. -/
def VoteDst.body : VoteDst → Nat
  | .any p => p.toNat * 2 ^ 31
  | .all p => p.toNat * 2 ^ 31 + 1 * 2 ^ 4
  | .uni p => p.toNat * 2 ^ 31 + 2 * 2 ^ 4
  | .ballot s => (192 + s.val) * 2 ^ 31 + 3 * 2 ^ 4

def VoteDst.ofBody (x : Nat) : Option VoteDst :=
  match fld x 4 3 with
  | 0 => some (.any (BitVec.ofNat 3 (fld x 31 3)))
  | 1 => some (.all (BitVec.ofNat 3 (fld x 31 3)))
  | 2 => some (.uni (BitVec.ofNat 3 (fld x 31 3)))
  | 3 => (sOfCode (fld x 31 8)).map .ballot
  | _ => none

/-- R138: the v form names no predicate, the s form one in A. -/
def P2rDst.body : P2rDst → Nat
  | .v d => d.val * 2 ^ 31
  | .s d p => (192 + d.val) * 2 ^ 31 + p.toNat * 2 ^ 23

def P2rDst.ofBody (x : Nat) : Option P2rDst := do
  match ← Opr.ofCode (fld x 31 8) with
  | .v d => some (.v d)
  | .s d => some (.s d (BitVec.ofNat 3 (fld x 23 3)))

/-- R199: KIND and IDX. -/
def YieldOn.body : YieldOn → Nat
  | .bar nb => nb.toNat * 2 ^ 9
  | .tl t => 1 * 2 ^ 13 + t.toNat * 2 ^ 9

def YieldOn.ofBody (x : Nat) : Option YieldOn :=
  match fld x 13 2 with
  | 0 => some (.bar (BitVec.ofNat 4 (fld x 9 4)))
  | 1 => some (.tl (BitVec.ofNat 3 (fld x 9 3)))
  | _ => none

/-- R205: mode, rounding and widths of mma. -/
def MmaMode.body : MmaMode → Nat
  | .bfp wa wb rnd => wa.toNat * 2 ^ 7 + wb.toNat * 2 ^ 10 + rnd.code * 2 ^ 2
  | .bf16 rnd => rnd.code * 2 ^ 2 + 1
  | .z16 => 2
  | .z32 => 3

def MmaMode.ofBody (x : Nat) : Option MmaMode :=
  match fld x 0 2 with
  | 0 => (Rnd.ofCode (fld x 2 3)).map (.bfp (BitVec.ofNat 3 (fld x 7 3)) (BitVec.ofNat 3 (fld x 10 3)))
  | 1 => (Rnd.ofCode (fld x 2 3)).map .bf16
  | 2 => some .z16
  | 3 => some .z32
  | _ => none

/-- R211: FMT and width of acccvt. -/
def AccFmt.body : AccFmt → Nat
  | .bf16 => 0
  | .bfp w => w.toNat * 2 ^ 7 + 1
  | .bfpc w => w.toNat * 2 ^ 7 + 2

def AccFmt.ofBody (x : Nat) : Option AccFmt :=
  match fld x 0 2 with
  | 0 => some .bf16
  | 1 => some (.bfp (BitVec.ofNat 3 (fld x 7 3)))
  | 2 => some (.bfpc (BitVec.ofNat 3 (fld x 7 3)))
  | _ => none

/-- R217: KIND, PRE and K of scfg. -/
def ScanKind.body : ScanKind → Nat
  | .aff pre => pre.code * 2 ^ 2
  | .trp => 1
  | .rng k => 2 + k.toNat * 2 ^ 4

def ScanKind.ofBody (x : Nat) : Option ScanKind :=
  match fld x 0 2 with
  | 0 => (ScanPre.ofCode (fld x 2 2)).map .aff
  | 1 => some .trp
  | 2 => some (.rng (fld x 4 1 == 1))
  | _ => none

/-- R240: shin's OWN bit with its source. -/
def ShinSrc.body : ShinSrc → Nat
  | .own a => a.val * 2 ^ 23 + 2 ^ 2
  | .other => 0

def ShinSrc.ofBody (x : Nat) : Option ShinSrc :=
  if fld x 2 1 = 1 then (vOfCode (fld x 23 8)).map .own else some .other

/-- R10, R13: the four bits of a guard. -/
def Guard.code (g : Guard) : Nat := g.neg.toNat * 8 + g.idx.toNat

def Guard.ofCode (n : Nat) : Guard := ⟨fld n 3 1 == 1, BitVec.ofNat 3 (fld n 0 3)⟩

/-- Fields placed at their lowest bits. -/
def place : List (Nat × Nat) → Nat
  | [] => 0
  | (sh, x) :: rest => x * 2 ^ sh + place rest

/-- R10: a full-form word from its header, its opcode and the fields of bits [38:0]. -/
def fullWord (h : Hdr) (op : Nat) (body : List (Nat × Nat)) : Nat :=
  h.stall.toNat * 2 ^ 59 + h.ch.toNat * 2 ^ 57 + h.g0.code * 2 ^ 53 + h.g1.code * 2 ^ 49 + op * 2 ^ 39 + place body

/-- R10: the header fields of a word. -/
def Hdr.ofWord (w : Nat) : Hdr :=
  ⟨BitVec.ofNat 4 (fld w 59 4), BitVec.ofNat 2 (fld w 57 2), Guard.ofCode (fld w 53 4), Guard.ofCode (fld w 49 4)⟩

/-- R25: the 30 bits of a slot. -/
def PSlot.code (x : PSlot) : Nat :=
  x.op.code * 2 ^ 24 + x.arg.d.code * 2 ^ 16 + x.arg.s.code * 2 ^ 8 + x.arg.gi.toNat * 2 ^ 5 + x.arg.gn.toNat * 2 ^ 4 +
    x.arg.aux.toNat

def PSlot.ofCode (x : Nat) : Option PSlot := do
  let op ← POp.ofCode (fld x 24 6)
  let d ← Opr.ofCode (fld x 16 8)
  let s ← Opr.ofCode (fld x 8 8)
  some ⟨op, d, s, BitVec.ofNat 3 (fld x 5 3), fld x 4 1 == 1, BitVec.ofNat 4 (fld x 0 4)⟩

/-- R25: a paired word from its STALL and its slots. -/
def pairWord (stall : BitVec 3) (a b : PSlot) : Nat :=
  2 ^ 63 + stall.toNat * 2 ^ 60 + a.code * 2 ^ 30 + b.code

/-- R26: the constructor of a pair, by slot A's operation. -/
def Instr.ofPair (k : BitVec 3) (a b : PSlot) : Instr :=
  match a.op with
  | .nop => .pairedNop k a.arg b
  | .mov => .pairedMov k a.arg b
  | .movi => .pairedMovi k a.arg b
  | .iadd => .pairedIadd k a.arg b
  | .isub => .pairedIsub k a.arg b
  | .and => .pairedAnd k a.arg b
  | .or => .pairedOr k a.arg b
  | .xor => .pairedXor k a.arg b
  | .shl => .pairedShl k a.arg b
  | .shr => .pairedShr k a.arg b
  | .sar => .pairedSar k a.arg b
  | .imin => .pairedImin k a.arg b
  | .imax => .pairedImax k a.arg b
  | .ineg => .pairedIneg k a.arg b
  | .not => .pairedNot k a.arg b
  | .fadd => .pairedFadd k a.arg b
  | .fsub => .pairedFsub k a.arg b
  | .fmul => .pairedFmul k a.arg b
  | .fmin => .pairedFmin k a.arg b
  | .fmax => .pairedFmax k a.arg b
  | .fneg => .pairedFneg k a.arg b
  | .fabs => .pairedFabs k a.arg b
  | .iaddZ16 => .pairedIaddZ16 k a.arg b
  | .isubZ16 => .pairedIsubZ16 k a.arg b
  | .iaddZ32 => .pairedIaddZ32 k a.arg b
  | .isubZ32 => .pairedIsubZ32 k a.arg b

/-- The word of an instruction as a number; an event row has none. -/
def encodeNat : Instr → Option Nat
  | .nop h => some (fullWord h 0 [])
  | .mov h d a ty => some (fullWord h 1 [(31, d.code), (0, a.body), (3, ty.code)])
  | .movi h d imm => some (fullWord h 2 [(31, d.code), (0, imm.toNat)])
  | .movh h d q imm => some (fullWord h 3 [(31, d.code), (21, q.toNat), (0, imm.toNat)])
  | .sel h d a b p neg ty => some (fullWord h 4 [(31, d.val), (23, a.code), (15, b.code), (7, p.toNat), (0, neg.toNat), (3, ty.code)])
  | .iadd h d a b ty => some (fullWord h 5 [(31, d.code), (0, a.body), (15, b.code), (3, ty.code)])
  | .isub h d a b ty => some (fullWord h 6 [(31, d.code), (0, a.body), (15, b.code), (3, ty.code)])
  | .imul h d a b ty => some (fullWord h 7 [(31, d.code), (23, a.code), (15, b.code), (3, ty.code)])
  | .imulh h d a b ty => some (fullWord h 8 [(31, d.code), (23, a.code), (15, b.code), (3, ty.code)])
  | .imad h d a b c ty => some (fullWord h 9 [(31, d.code), (23, a.code), (15, b.code), (7, c.code), (3, ty.code)])
  | .imin h d a b ty => some (fullWord h 10 [(31, d.code), (23, a.code), (15, b.code), (3, ty.code)])
  | .imax h d a b ty => some (fullWord h 11 [(31, d.code), (23, a.code), (15, b.code), (3, ty.code)])
  | .iabs h d a ty => some (fullWord h 12 [(31, d.code), (23, a.code), (3, ty.code)])
  | .ineg h d a ty => some (fullWord h 13 [(31, d.code), (23, a.code), (3, ty.code)])
  | .isat h d a tgt ty => some (fullWord h 14 [(31, d.code), (23, a.code), (0, tgt.code), (3, ty.code)])
  | .idiv h d a b ty => some (fullWord h 15 [(31, d.code), (23, a.code), (15, b.code), (3, ty.code)])
  | .irem h d a b ty => some (fullWord h 16 [(31, d.code), (23, a.code), (15, b.code), (3, ty.code)])
  | .and h d a b ty => some (fullWord h 17 [(31, d.code), (0, a.body), (15, b.code), (3, ty.code)])
  | .or h d a b ty => some (fullWord h 18 [(31, d.code), (0, a.body), (15, b.code), (3, ty.code)])
  | .xor h d a b ty => some (fullWord h 19 [(31, d.code), (0, a.body), (15, b.code), (3, ty.code)])
  | .andn h d a b ty => some (fullWord h 20 [(31, d.code), (23, a.code), (15, b.code), (3, ty.code)])
  | .not h d a ty => some (fullWord h 21 [(31, d.code), (23, a.code), (3, ty.code)])
  | .shl h d a b ty => some (fullWord h 22 [(31, d.code), (23, a.code), (15, b.code), (3, ty.code)])
  | .shr h d a b ty => some (fullWord h 23 [(31, d.code), (23, a.code), (15, b.code), (3, ty.code)])
  | .sar h d a b ty => some (fullWord h 24 [(31, d.code), (23, a.code), (15, b.code), (3, ty.code)])
  | .rot h d a b ty => some (fullWord h 25 [(31, d.code), (23, a.code), (15, b.code), (3, ty.code)])
  | .bfe h d a b ty => some (fullWord h 26 [(31, d.code), (23, a.code), (15, b.code), (3, ty.code)])
  | .bfi h d a b c ty => some (fullWord h 27 [(31, d.code), (23, a.code), (15, b.code), (7, c.code), (3, ty.code)])
  | .popc h d a ty => some (fullWord h 28 [(31, d.code), (23, a.code), (3, ty.code)])
  | .clz h d a ty => some (fullWord h 29 [(31, d.code), (23, a.code), (3, ty.code)])
  | .brev h d a ty => some (fullWord h 30 [(31, d.code), (23, a.code), (3, ty.code)])
  | .icmp h p a b cond ty => some (fullWord h 31 [(31, p.toNat), (23, a.code), (15, b.code), (0, cond.code), (3, ty.code)])
  | .lea h d a b sh ty => some (fullWord h 32 [(31, d.code), (23, a.code), (15, b.code), (0, sh.toNat), (3, ty.code)])
  | .fadd h d a b ty rnd => some (fullWord h 128 [(31, d.code), (0, a.body), (15, b.code), (3, ty.code), (0, rnd.code)])
  | .fsub h d a b ty rnd => some (fullWord h 129 [(31, d.code), (0, a.body), (15, b.code), (3, ty.code), (0, rnd.code)])
  | .fmul h d a b ty rnd => some (fullWord h 130 [(31, d.code), (0, a.body), (15, b.code), (3, ty.code), (0, rnd.code)])
  | .ffma h d a b ty rnd => some (fullWord h 131 [(31, d.code), (0, a.body), (15, b.code), (3, ty.code), (0, rnd.code)])
  | .fmin h d a b ty => some (fullWord h 132 [(31, d.code), (0, a.body), (15, b.code), (3, ty.code)])
  | .fmax h d a b ty => some (fullWord h 133 [(31, d.code), (0, a.body), (15, b.code), (3, ty.code)])
  | .fcmp h p a b ty => some (fullWord h 134 [(31, p.toNat), (0, a.body), (15, b.code), (3, ty.code)])
  | .fclass h d a ty => some (fullWord h 135 [(31, d.code), (23, a.code), (3, ty.code)])
  | .frcp h d a ty => some (fullWord h 136 [(31, d.code), (23, a.code), (3, ty.code)])
  | .frsq h d a ty => some (fullWord h 137 [(31, d.code), (23, a.code), (3, ty.code)])
  | .fsqrt h d a ty rnd => some (fullWord h 138 [(31, d.code), (23, a.code), (3, ty.code), (0, rnd.code)])
  | .fdiv h d a b ty rnd => some (fullWord h 139 [(31, d.code), (23, a.code), (15, b.code), (3, ty.code), (0, rnd.code)])
  | .fexp2 h d a ty => some (fullWord h 140 [(31, d.code), (23, a.code), (3, ty.code)])
  | .flog2 h d a ty => some (fullWord h 141 [(31, d.code), (23, a.code), (3, ty.code)])
  | .fsin h d a ty => some (fullWord h 142 [(31, d.code), (23, a.code), (3, ty.code)])
  | .fcos h d a ty => some (fullWord h 143 [(31, d.code), (23, a.code), (3, ty.code)])
  | .ftanh h d a ty => some (fullWord h 144 [(31, d.code), (23, a.code), (3, ty.code)])
  | .fsig h d a ty => some (fullWord h 145 [(31, d.code), (23, a.code), (3, ty.code)])
  | .fround h d a ty rnd => some (fullWord h 146 [(31, d.code), (23, a.code), (3, ty.code), (0, rnd.code)])
  | .fscale h d a b ty rnd => some (fullWord h 147 [(31, d.code), (23, a.code), (15, b.code), (3, ty.code), (0, rnd.code)])
  | .cvt h d src rnd => some (fullWord h 148 [(31, d.code), (0, src.body), (0, rnd.code)])
  | .bfpk h d a w desc ty rnd => some (fullWord h 149 [(31, d.val), (23, a.val), (15, w.toNat), (7, 192 + desc.val), (3, ty.code), (0, rnd.code)])
  | .bfup h d a w desc ty rnd => some (fullWord h 150 [(31, d.val), (23, a.val), (15, w.toNat), (7, 192 + desc.val), (3, ty.code), (0, rnd.code)])
  | .bfscl h d a w desc ty rnd => some (fullWord h 151 [(31, d.val), (23, a.val), (15, w.toNat), (7, 192 + desc.val), (3, ty.code), (0, rnd.code)])
  | .fdot2 h d a b c rnd => some (fullWord h 152 [(31, d.code), (23, a.code), (15, b.code), (7, c.code), (3, 2), (0, rnd.code)])
  | .bra h off rc => some (fullWord h 256 [(15, off.toNat), (0, rc.toNat)])
  | .jmp h a => some (fullWord h 257 [(23, a.code)])
  | .call h off rc => some (fullWord h 258 [(15, off.toNat), (0, rc.toNat)])
  | .ret h => some (fullWord h 259 [])
  | .regang h mask => some (fullWord h 260 [(0, optSBody mask)])
  | .exit h => some (fullWord h 261 [])
  | .inv h d a b len br meth dec isInt => some (fullWord h 262 [(31, d.val), (23, a.val), (15, b.code), (10, len.toNat), (7, br.toNat), (5, meth.code), (4, dec.toNat), (3, isInt.toNat)])
  | .bkset h br a b maxit tol isInt => some (fullWord h 263 [(31, br.toNat), (23, a.code), (15, b.code), (7, maxit.toNat), (1, tol.toNat), (0, isInt.toNat)])
  | .bkget h d br fld => some (fullWord h 264 [(31, d.code), (23, br.toNat), (0, fld.toNat)])
  | .prm h d a b mode w64 => some (fullWord h 272 [(31, d.val), (23, a.val), (15, b.code), (4, mode.code), (3, w64.toNat)])
  | .vote h d p => some (fullWord h 273 [(0, d.body), (23, p.toNat)])
  | .lred h d a op rnd => some (fullWord h 274 [(31, 192 + d.val), (23, a.val), (3, op.code), (0, rnd.code)])
  | .lscan h d a excl op rnd => some (fullWord h 275 [(31, d.val), (23, a.val), (7, excl.toNat), (3, op.code), (0, rnd.code)])
  | .rdlane h d a b w64 => some (fullWord h 276 [(31, 192 + d.val), (23, a.val), (15, 192 + b.val), (3, w64.toNat)])
  | .plop h d a b tt => some (fullWord h 280 [(31, d.toNat), (23, a.toNat), (15, b.toNat), (0, tt.toNat)])
  | .p2r h d => some (fullWord h 281 [(0, d.body)])
  | .r2p h a mask => some (fullWord h 282 [(23, a.code), (7, mask.toNat)])
  | .ld h d m sz ofs => some (fullWord h 384 [(31, d.code), (0, m.body), (12, sz.code), (0, ofs.toNat)])
  | .st h d m sz ofs => some (fullWord h 385 [(31, d.code), (0, m.body), (12, sz.code), (0, ofs.toNat)])
  | .ldl h d m sz ofs => some (fullWord h 386 [(31, d.code), (0, m.body), (12, sz.code), (0, ofs.toNat)])
  | .stl h d m sz ofs => some (fullWord h 387 [(31, d.code), (0, m.body), (12, sz.code), (0, ofs.toNat)])
  | .lds h d m sz win ofs => some (fullWord h 388 [(31, d.code), (0, m.body), (12, sz.code), (7, win.code), (0, ofs.toNat)])
  | .sts h d m sz win ofs => some (fullWord h 389 [(31, d.code), (0, m.body), (12, sz.code), (7, win.code), (0, ofs.toNat)])
  | .pf h m sz ofs => some (fullWord h 390 [(0, m.body), (12, sz.code), (0, ofs.toNat)])
  | .bred h d m sz op ofs => some (fullWord h 392 [(31, d.code), (0, m.body), (12, sz.code), (6, op.code), (0, ofs.toNat)])
  | .bupd h d m sz op ofs => some (fullWord h 393 [(31, d.val), (0, m.body), (12, sz.code), (6, op.code), (0, ofs.toNat)])
  | .qinit h a b => some (fullWord h 394 [(23, 192 + a.val), (15, 192 + b.val)])
  | .qenq h d m sz wait p ofs => some (fullWord h 395 [(31, d.code), (0, m.body), (12, sz.code), (8, wait.toNat), (5, p.toNat), (0, ofs.toNat)])
  | .qdeq h d m sz wait p ofs => some (fullWord h 396 [(31, d.code), (0, m.body), (12, sz.code), (8, wait.toNat), (5, p.toNat), (0, ofs.toNat)])
  | .atom h d m sz op ord => some (fullWord h 512 [(31, d.val), (0, m.body), (12, sz.code), (5, op.code), (2, ord.code)])
  | .lda h d m sz ofs => some (fullWord h 513 [(31, d.code), (0, m.body), (12, sz.code), (0, ofs.toNat)])
  | .str h d m sz ofs => some (fullWord h 514 [(31, d.code), (0, m.body), (12, sz.code), (0, ofs.toNat)])
  | .fence h kind => some (fullWord h 515 [(0, kind.code)])
  | .barInit h a nb ring => some (fullWord h 520 [(23, 192 + a.val), (7, nb.toNat), (0, ring.toNat)])
  | .barArrive h d nb => some (fullWord h 521 [(0, optTBody d), (7, nb.toNat)])
  | .barWait h a nb => some (fullWord h 522 [(23, 192 + a.val), (7, nb.toNat)])
  | .barSync h d nb => some (fullWord h 523 [(0, optTBody d), (7, nb.toNat)])
  | .barDrop h d nb => some (fullWord h 524 [(0, optTBody d), (7, nb.toNat)])
  | .barExpect h a nb => some (fullWord h 525 [(23, 192 + a.val), (7, nb.toNat)])
  | .barBind h nb lvl => some (fullWord h 526 [(7, nb.toNat), (0, lvl.code)])
  | .tlwait h a tl => some (fullWord h 528 [(23, 192 + a.val), (7, tl.toNat)])
  | .tlread h d tl => some (fullWord h 529 [(31, 192 + d.val), (7, tl.toNat)])
  | .yield h cont b on => some (fullWord h 530 [(23, cont.toNat), (15, 192 + b.val), (0, on.body)])
  | .gang h a => some (fullWord h 640 [(23, 192 + a.val)])
  | .mma h t a b mode => some (fullWord h 641 [(31, t.toNat), (23, 192 + a.val), (15, 192 + b.val), (0, mode.body)])
  | .acczero h t => some (fullWord h 642 [(31, t.toNat)])
  | .accld h t a => some (fullWord h 643 [(31, t.toNat), (23, 192 + a.val)])
  | .accst h t a => some (fullWord h 644 [(31, t.toNat), (23, 192 + a.val)])
  | .acccvt h t a fmt rnd => some (fullWord h 645 [(31, t.toNat), (23, 192 + a.val), (0, fmt.body), (2, rnd.code)])
  | .scfg h a b dch kind => some (fullWord h 648 [(23, 192 + a.val), (15, 192 + b.val), (7, dch.toNat), (0, kind.body)])
  | .srun h => some (fullWord h 649 [])
  | .scin h => some (fullWord h 650 [])
  | .scout h => some (fullWord h 651 [])
  | .sfix h => some (fullWord h 652 [])
  | .cpy h d a b s2g bar => some (fullWord h 768 [(31, 192 + d.val), (23, 192 + a.val), (15, 192 + b.val), (0, s2g.toNat), (0, optNbBody bar)])
  | .lrmk h d a b => some (fullWord h 769 [(31, 192 + d.val), (23, 192 + a.val), (15, 192 + b.val)])
  | .gxch h d a b st nb be k32 => some (fullWord h 770 [(31, 192 + d.val), (23, 192 + a.val), (15, 192 + b.val), (7, st.toNat), (10, nb.toNat), (14, be.toNat), (0, k32.toNat)])
  | .shmul h d a b st k => some (fullWord h 776 [(31, d.val), (23, a.val), (15, b.val), (7, st.toNat), (0, k.code)])
  | .shtrunc h d a st f k => some (fullWord h 777 [(31, d.val), (23, a.val), (7, st.toNat), (2, f.toNat), (0, k.code)])
  | .shsign h d a st k => some (fullWord h 778 [(31, d.val), (23, a.val), (7, st.toNat), (0, k.code)])
  | .shopen h d a st k => some (fullWord h 779 [(31, d.val), (23, a.val), (7, st.toNat), (0, k.code)])
  | .shin h d own st k => some (fullWord h 780 [(31, d.val), (0, own.body), (7, st.toNat), (0, k.code)])
  | .send h a b len => some (fullWord h 784 [(23, 192 + a.val), (15, 192 + b.val), (0, len.code)])
  | .recv h d a b len anyt anys => some (fullWord h 785 [(31, 192 + d.val), (23, 192 + a.val), (15, 192 + b.val), (0, len.code), (3, anyt.toNat), (4, anys.toNat)])
  | .mprobe h d a len anyt anys => some (fullWord h 786 [(31, 192 + d.val), (23, 192 + a.val), (0, len.code), (3, anyt.toNat), (4, anys.toNat)])
  | .trap h code => some (fullWord h 896 [(0, code.toNat)])
  | .rtt h => some (fullWord h 897 [])
  | .brkp h code => some (fullWord h 898 [(0, code.toNat)])
  | .rdsr h d sr => some (fullWord h 899 [(31, d.code), (7, sr.code)])
  | .wrsr h a sr => some (fullWord h 900 [(23, 192 + a.val), (7, sr.code)])
  | .mark h a id => some (fullWord h 901 [(23, 192 + a.val), (7, id.toNat)])
  | .lnch h d a => some (fullWord h 904 [(31, 192 + d.val), (23, 192 + a.val)])
  | .ldep h a b tl => some (fullWord h 905 [(23, 192 + a.val), (15, 192 + b.val), (7, tl.toNat)])
  | .lwait h a b tl => some (fullWord h 906 [(23, 192 + a.val), (15, 192 + b.val), (7, tl.toNat)])
  | .lsig h a b tl => some (fullWord h 907 [(23, 192 + a.val), (15, 192 + b.val), (7, tl.toNat)])
  | .pairedNop k a b => some (pairWord k ⟨.nop, a⟩ b)
  | .pairedMov k a b => some (pairWord k ⟨.mov, a⟩ b)
  | .pairedMovi k a b => some (pairWord k ⟨.movi, a⟩ b)
  | .pairedIadd k a b => some (pairWord k ⟨.iadd, a⟩ b)
  | .pairedIsub k a b => some (pairWord k ⟨.isub, a⟩ b)
  | .pairedAnd k a b => some (pairWord k ⟨.and, a⟩ b)
  | .pairedOr k a b => some (pairWord k ⟨.or, a⟩ b)
  | .pairedXor k a b => some (pairWord k ⟨.xor, a⟩ b)
  | .pairedShl k a b => some (pairWord k ⟨.shl, a⟩ b)
  | .pairedShr k a b => some (pairWord k ⟨.shr, a⟩ b)
  | .pairedSar k a b => some (pairWord k ⟨.sar, a⟩ b)
  | .pairedImin k a b => some (pairWord k ⟨.imin, a⟩ b)
  | .pairedImax k a b => some (pairWord k ⟨.imax, a⟩ b)
  | .pairedIneg k a b => some (pairWord k ⟨.ineg, a⟩ b)
  | .pairedNot k a b => some (pairWord k ⟨.not, a⟩ b)
  | .pairedFadd k a b => some (pairWord k ⟨.fadd, a⟩ b)
  | .pairedFsub k a b => some (pairWord k ⟨.fsub, a⟩ b)
  | .pairedFmul k a b => some (pairWord k ⟨.fmul, a⟩ b)
  | .pairedFmin k a b => some (pairWord k ⟨.fmin, a⟩ b)
  | .pairedFmax k a b => some (pairWord k ⟨.fmax, a⟩ b)
  | .pairedFneg k a b => some (pairWord k ⟨.fneg, a⟩ b)
  | .pairedFabs k a b => some (pairWord k ⟨.fabs, a⟩ b)
  | .pairedIaddZ16 k a b => some (pairWord k ⟨.iaddZ16, a⟩ b)
  | .pairedIsubZ16 k a b => some (pairWord k ⟨.isubZ16, a⟩ b)
  | .pairedIaddZ32 k a b => some (pairWord k ⟨.iaddZ32, a⟩ b)
  | .pairedIsubZ32 k a b => some (pairWord k ⟨.isubZ32, a⟩ b)
  | .fixedLatencyResult .. | .pendingResultWrite .. | .storeRegistration .. | .homeBankOperation .. | .joinArrival ..
    | .comparatorFire .. | .barstall .. | .combinerArrival .. | .combinerRelease .. | .matrixOperationComplete ..
    | .copyTransferComplete .. | .scanOperationComplete .. | .carryDelivery .. | .straitWordArrival .. | .abort ..
    | .hand .. | .gateTimeout .. | .handDeal .. | .entropyHealthFailure | .messageArrival .. | .teamRetirement ..
    | .launchRetirement .. | .launchReady .. | .dispatch .. | .aging .. | .priorityPreemption .. | .spanIdle ..
    | .linkShareWindow .. | .drainExpiry .. | .saveComplete .. | .flushComplete .. | .parkLimitExpiry ..
    | .coreScrubComplete .. | .replicaInvalidation .. | .collapseComplete .. | .smpcWrite .. | .preempt .. | .kill ..
    | .restoreNow .. | .pfqhWrite .. | .pgdone .. | .tlbInvalidate .. | .invalidationComplete .. | .wayMaskWrite ..
    | .wayMaskChangeComplete .. | .keyCreate .. | .keyImport .. | .keyRetire .. | .scrub .. | .scrubComplete ..
    | .streamOpen .. | .streamClose .. | .streamQuery .. | .hqtailWrite .. | .hqcfgWrite .. | .descriptorFetch ..
    | .descriptorComplete .. | .configCommit .. | .configRead .. | .lockInterface .. | .startInterface ..
    | .stopInterface .. | .linkDown .. | .functionLevelReset .. | .ideIntegrityFailure .. | .ideKeyExpiry ..
    | .kSetGo .. | .getVersion .. | .getCapabilities .. | .negotiateAlgorithms .. | .getDigests .. | .getCertificate ..
    | .challenge .. | .getMeasurements .. | .keyExchange .. | .finish .. | .keyUpdate .. | .heartbeat ..
    | .endSession .. | .vendorDefinedRequest .. | .peerRequest .. | .peerLinkFailure .. | .hostPhysicalRead ..
    | .hostPhysicalWrite .. | .dbgattWrite .. | .stop .. | .stopEffect .. | .dbgContinue .. | .dbgStep .. | .regrd ..
    | .regwr .. | .memrd .. | .memwr .. | .cntcfgWrite .. | .regionDefine .. | .regionClose ..
    | .regionCloseComplete .. | .regionImport .. | .regionCommit .. | .regionQuery .. | .periodicCommit ..
    | .singleBitError .. | .uncorrectableError .. | .patrolScrub .. | .dieReset .. | .transitDrainLimit ..
    | .dieResetComplete .. | .fieldSwap .. | .packageReset | .packageResetRequest .. | .powerStateEntry ..
    | .islandWake .. | .wakeComplete .. | .frequencyLevelChange .. | .withheldRead .. | .alcmdLevel2 ..
    | .alcmdLevel3 .. | .tamperMeshBroken | .voltageClockFault | .registerWrite .. | .tdiConfigurationChange ..
    | .linkLevelRetry .. | .domainFormation .. => none

/-- The word of an instruction. -/
def encode (i : Instr) : Option Word := (encodeNat i).map (BitVec.ofNat 64)

/-- R35: the candidate instruction of class 0, by minor code; x is bits [38:0] of the word. -/
def candidate0 (h : Hdr) (x : Nat) : Nat → Option Instr
  | 0 => some (.nop h)
  | 1 => do
    let d ← Opr.ofCode (fld x 31 8)
    let a ← ASrc.ofBody x
    let ty ← ITy.ofCode (fld x 3 3)
    some (.mov h d a ty)
  | 2 => do
    let d ← Opr.ofCode (fld x 31 8)
    let imm := BitVec.ofNat 23 (fld x 0 23)
    some (.movi h d imm)
  | 3 => do
    let d ← Opr.ofCode (fld x 31 8)
    let q := BitVec.ofNat 2 (fld x 21 2)
    let imm := BitVec.ofNat 16 (fld x 0 16)
    some (.movh h d q imm)
  | 4 => do
    let d ← vOfCode (fld x 31 8)
    let a ← Opr.ofCode (fld x 23 8)
    let b ← Opr.ofCode (fld x 15 8)
    let p := BitVec.ofNat 3 (fld x 7 3)
    let neg := fld x 0 1 == 1
    let ty ← ITy.ofCode (fld x 3 3)
    some (.sel h d a b p neg ty)
  | 5 => do
    let d ← Opr.ofCode (fld x 31 8)
    let a ← ASrc.ofBody x
    let b ← Opr.ofCode (fld x 15 8)
    let ty ← ITy.ofCode (fld x 3 3)
    some (.iadd h d a b ty)
  | 6 => do
    let d ← Opr.ofCode (fld x 31 8)
    let a ← ASrc.ofBody x
    let b ← Opr.ofCode (fld x 15 8)
    let ty ← ITy.ofCode (fld x 3 3)
    some (.isub h d a b ty)
  | 7 => do
    let d ← Opr.ofCode (fld x 31 8)
    let a ← Opr.ofCode (fld x 23 8)
    let b ← Opr.ofCode (fld x 15 8)
    let ty ← ITy.ofCode (fld x 3 3)
    some (.imul h d a b ty)
  | 8 => do
    let d ← Opr.ofCode (fld x 31 8)
    let a ← Opr.ofCode (fld x 23 8)
    let b ← Opr.ofCode (fld x 15 8)
    let ty ← ITy.ofCode (fld x 3 3)
    some (.imulh h d a b ty)
  | 9 => do
    let d ← Opr.ofCode (fld x 31 8)
    let a ← Opr.ofCode (fld x 23 8)
    let b ← Opr.ofCode (fld x 15 8)
    let c ← Opr.ofCode (fld x 7 8)
    let ty ← ITy.ofCode (fld x 3 3)
    some (.imad h d a b c ty)
  | 10 => do
    let d ← Opr.ofCode (fld x 31 8)
    let a ← Opr.ofCode (fld x 23 8)
    let b ← Opr.ofCode (fld x 15 8)
    let ty ← ITy.ofCode (fld x 3 3)
    some (.imin h d a b ty)
  | 11 => do
    let d ← Opr.ofCode (fld x 31 8)
    let a ← Opr.ofCode (fld x 23 8)
    let b ← Opr.ofCode (fld x 15 8)
    let ty ← ITy.ofCode (fld x 3 3)
    some (.imax h d a b ty)
  | 12 => do
    let d ← Opr.ofCode (fld x 31 8)
    let a ← Opr.ofCode (fld x 23 8)
    let ty ← ITy.ofCode (fld x 3 3)
    some (.iabs h d a ty)
  | 13 => do
    let d ← Opr.ofCode (fld x 31 8)
    let a ← Opr.ofCode (fld x 23 8)
    let ty ← ITy.ofCode (fld x 3 3)
    some (.ineg h d a ty)
  | 14 => do
    let d ← Opr.ofCode (fld x 31 8)
    let a ← Opr.ofCode (fld x 23 8)
    let tgt ← SatTo.ofCode (fld x 0 3)
    let ty ← ITy.ofCode (fld x 3 3)
    some (.isat h d a tgt ty)
  | 15 => do
    let d ← Opr.ofCode (fld x 31 8)
    let a ← Opr.ofCode (fld x 23 8)
    let b ← Opr.ofCode (fld x 15 8)
    let ty ← ITy.ofCode (fld x 3 3)
    some (.idiv h d a b ty)
  | 16 => do
    let d ← Opr.ofCode (fld x 31 8)
    let a ← Opr.ofCode (fld x 23 8)
    let b ← Opr.ofCode (fld x 15 8)
    let ty ← ITy.ofCode (fld x 3 3)
    some (.irem h d a b ty)
  | 17 => do
    let d ← Opr.ofCode (fld x 31 8)
    let a ← ASrc.ofBody x
    let b ← Opr.ofCode (fld x 15 8)
    let ty ← ITy.ofCode (fld x 3 3)
    some (.and h d a b ty)
  | 18 => do
    let d ← Opr.ofCode (fld x 31 8)
    let a ← ASrc.ofBody x
    let b ← Opr.ofCode (fld x 15 8)
    let ty ← ITy.ofCode (fld x 3 3)
    some (.or h d a b ty)
  | 19 => do
    let d ← Opr.ofCode (fld x 31 8)
    let a ← ASrc.ofBody x
    let b ← Opr.ofCode (fld x 15 8)
    let ty ← ITy.ofCode (fld x 3 3)
    some (.xor h d a b ty)
  | 20 => do
    let d ← Opr.ofCode (fld x 31 8)
    let a ← Opr.ofCode (fld x 23 8)
    let b ← Opr.ofCode (fld x 15 8)
    let ty ← ITy.ofCode (fld x 3 3)
    some (.andn h d a b ty)
  | 21 => do
    let d ← Opr.ofCode (fld x 31 8)
    let a ← Opr.ofCode (fld x 23 8)
    let ty ← ITy.ofCode (fld x 3 3)
    some (.not h d a ty)
  | 22 => do
    let d ← Opr.ofCode (fld x 31 8)
    let a ← Opr.ofCode (fld x 23 8)
    let b ← Opr.ofCode (fld x 15 8)
    let ty ← ITy.ofCode (fld x 3 3)
    some (.shl h d a b ty)
  | 23 => do
    let d ← Opr.ofCode (fld x 31 8)
    let a ← Opr.ofCode (fld x 23 8)
    let b ← Opr.ofCode (fld x 15 8)
    let ty ← ITy.ofCode (fld x 3 3)
    some (.shr h d a b ty)
  | 24 => do
    let d ← Opr.ofCode (fld x 31 8)
    let a ← Opr.ofCode (fld x 23 8)
    let b ← Opr.ofCode (fld x 15 8)
    let ty ← ITy.ofCode (fld x 3 3)
    some (.sar h d a b ty)
  | 25 => do
    let d ← Opr.ofCode (fld x 31 8)
    let a ← Opr.ofCode (fld x 23 8)
    let b ← Opr.ofCode (fld x 15 8)
    let ty ← ITy.ofCode (fld x 3 3)
    some (.rot h d a b ty)
  | 26 => do
    let d ← Opr.ofCode (fld x 31 8)
    let a ← Opr.ofCode (fld x 23 8)
    let b ← Opr.ofCode (fld x 15 8)
    let ty ← ITy.ofCode (fld x 3 3)
    some (.bfe h d a b ty)
  | 27 => do
    let d ← Opr.ofCode (fld x 31 8)
    let a ← Opr.ofCode (fld x 23 8)
    let b ← Opr.ofCode (fld x 15 8)
    let c ← Opr.ofCode (fld x 7 8)
    let ty ← ITy.ofCode (fld x 3 3)
    some (.bfi h d a b c ty)
  | 28 => do
    let d ← Opr.ofCode (fld x 31 8)
    let a ← Opr.ofCode (fld x 23 8)
    let ty ← ITy.ofCode (fld x 3 3)
    some (.popc h d a ty)
  | 29 => do
    let d ← Opr.ofCode (fld x 31 8)
    let a ← Opr.ofCode (fld x 23 8)
    let ty ← ITy.ofCode (fld x 3 3)
    some (.clz h d a ty)
  | 30 => do
    let d ← Opr.ofCode (fld x 31 8)
    let a ← Opr.ofCode (fld x 23 8)
    let ty ← ITy.ofCode (fld x 3 3)
    some (.brev h d a ty)
  | 31 => do
    let p := BitVec.ofNat 3 (fld x 31 3)
    let a ← Opr.ofCode (fld x 23 8)
    let b ← Opr.ofCode (fld x 15 8)
    let cond ← ICond.ofCode (fld x 0 3)
    let ty ← ITy.ofCode (fld x 3 3)
    some (.icmp h p a b cond ty)
  | 32 => do
    let d ← Opr.ofCode (fld x 31 8)
    let a ← Opr.ofCode (fld x 23 8)
    let b ← Opr.ofCode (fld x 15 8)
    let sh := BitVec.ofNat 3 (fld x 0 3)
    let ty ← ITy.ofCode (fld x 3 3)
    some (.lea h d a b sh ty)
  | _ => none

/-- R35: the candidate instruction of class 1, by minor code; x is bits [38:0] of the word. -/
def candidate1 (h : Hdr) (x : Nat) : Nat → Option Instr
  | 0 => do
    let d ← Opr.ofCode (fld x 31 8)
    let a ← ASrc.ofBody x
    let b ← Opr.ofCode (fld x 15 8)
    let ty ← FTy.ofCode (fld x 3 3)
    let rnd ← Rnd.ofCode (fld x 0 3)
    some (.fadd h d a b ty rnd)
  | 1 => do
    let d ← Opr.ofCode (fld x 31 8)
    let a ← ASrc.ofBody x
    let b ← Opr.ofCode (fld x 15 8)
    let ty ← FTy.ofCode (fld x 3 3)
    let rnd ← Rnd.ofCode (fld x 0 3)
    some (.fsub h d a b ty rnd)
  | 2 => do
    let d ← Opr.ofCode (fld x 31 8)
    let a ← ASrc.ofBody x
    let b ← Opr.ofCode (fld x 15 8)
    let ty ← FTy.ofCode (fld x 3 3)
    let rnd ← Rnd.ofCode (fld x 0 3)
    some (.fmul h d a b ty rnd)
  | 3 => do
    let d ← Opr.ofCode (fld x 31 8)
    let a ← FfmaSrc.ofBody x
    let b ← Opr.ofCode (fld x 15 8)
    let ty ← FTy.ofCode (fld x 3 3)
    let rnd ← Rnd.ofCode (fld x 0 3)
    some (.ffma h d a b ty rnd)
  | 4 => do
    let d ← Opr.ofCode (fld x 31 8)
    let a ← ASrc.ofBody x
    let b ← Opr.ofCode (fld x 15 8)
    let ty ← FTy.ofCode (fld x 3 3)
    some (.fmin h d a b ty)
  | 5 => do
    let d ← Opr.ofCode (fld x 31 8)
    let a ← ASrc.ofBody x
    let b ← Opr.ofCode (fld x 15 8)
    let ty ← FTy.ofCode (fld x 3 3)
    some (.fmax h d a b ty)
  | 6 => do
    let p := BitVec.ofNat 3 (fld x 31 3)
    let a ← FcmpSrc.ofBody x
    let b ← Opr.ofCode (fld x 15 8)
    let ty ← FTy.ofCode (fld x 3 3)
    some (.fcmp h p a b ty)
  | 7 => do
    let d ← Opr.ofCode (fld x 31 8)
    let a ← Opr.ofCode (fld x 23 8)
    let ty ← FTy.ofCode (fld x 3 3)
    some (.fclass h d a ty)
  | 8 => do
    let d ← Opr.ofCode (fld x 31 8)
    let a ← Opr.ofCode (fld x 23 8)
    let ty ← FTy.ofCode (fld x 3 3)
    some (.frcp h d a ty)
  | 9 => do
    let d ← Opr.ofCode (fld x 31 8)
    let a ← Opr.ofCode (fld x 23 8)
    let ty ← FTy.ofCode (fld x 3 3)
    some (.frsq h d a ty)
  | 10 => do
    let d ← Opr.ofCode (fld x 31 8)
    let a ← Opr.ofCode (fld x 23 8)
    let ty ← FTy.ofCode (fld x 3 3)
    let rnd ← Rnd.ofCode (fld x 0 3)
    some (.fsqrt h d a ty rnd)
  | 11 => do
    let d ← Opr.ofCode (fld x 31 8)
    let a ← Opr.ofCode (fld x 23 8)
    let b ← Opr.ofCode (fld x 15 8)
    let ty ← FTy.ofCode (fld x 3 3)
    let rnd ← Rnd.ofCode (fld x 0 3)
    some (.fdiv h d a b ty rnd)
  | 12 => do
    let d ← Opr.ofCode (fld x 31 8)
    let a ← Opr.ofCode (fld x 23 8)
    let ty ← FTy.ofCode (fld x 3 3)
    some (.fexp2 h d a ty)
  | 13 => do
    let d ← Opr.ofCode (fld x 31 8)
    let a ← Opr.ofCode (fld x 23 8)
    let ty ← FTy.ofCode (fld x 3 3)
    some (.flog2 h d a ty)
  | 14 => do
    let d ← Opr.ofCode (fld x 31 8)
    let a ← Opr.ofCode (fld x 23 8)
    let ty ← FTy.ofCode (fld x 3 3)
    some (.fsin h d a ty)
  | 15 => do
    let d ← Opr.ofCode (fld x 31 8)
    let a ← Opr.ofCode (fld x 23 8)
    let ty ← FTy.ofCode (fld x 3 3)
    some (.fcos h d a ty)
  | 16 => do
    let d ← Opr.ofCode (fld x 31 8)
    let a ← Opr.ofCode (fld x 23 8)
    let ty ← FTy.ofCode (fld x 3 3)
    some (.ftanh h d a ty)
  | 17 => do
    let d ← Opr.ofCode (fld x 31 8)
    let a ← Opr.ofCode (fld x 23 8)
    let ty ← FTy.ofCode (fld x 3 3)
    some (.fsig h d a ty)
  | 18 => do
    let d ← Opr.ofCode (fld x 31 8)
    let a ← Opr.ofCode (fld x 23 8)
    let ty ← FTy.ofCode (fld x 3 3)
    let rnd ← Rnd.ofCode (fld x 0 3)
    some (.fround h d a ty rnd)
  | 19 => do
    let d ← Opr.ofCode (fld x 31 8)
    let a ← Opr.ofCode (fld x 23 8)
    let b ← Opr.ofCode (fld x 15 8)
    let ty ← FTy.ofCode (fld x 3 3)
    let rnd ← Rnd.ofCode (fld x 0 3)
    some (.fscale h d a b ty rnd)
  | 20 => do
    let d ← Opr.ofCode (fld x 31 8)
    let src ← CvtSrc.ofBody x
    let rnd ← Rnd.ofCode (fld x 0 3)
    some (.cvt h d src rnd)
  | 21 => do
    let d ← vOfCode (fld x 31 8)
    let a ← vOfCode (fld x 23 8)
    let w := BitVec.ofNat 3 (fld x 15 3)
    let desc ← sOfCode (fld x 7 8)
    let ty ← FTy.ofCode (fld x 3 3)
    let rnd ← Rnd.ofCode (fld x 0 3)
    some (.bfpk h d a w desc ty rnd)
  | 22 => do
    let d ← vOfCode (fld x 31 8)
    let a ← vOfCode (fld x 23 8)
    let w := BitVec.ofNat 3 (fld x 15 3)
    let desc ← sOfCode (fld x 7 8)
    let ty ← FTy.ofCode (fld x 3 3)
    let rnd ← Rnd.ofCode (fld x 0 3)
    some (.bfup h d a w desc ty rnd)
  | 23 => do
    let d ← vOfCode (fld x 31 8)
    let a ← vOfCode (fld x 23 8)
    let w := BitVec.ofNat 3 (fld x 15 3)
    let desc ← sOfCode (fld x 7 8)
    let ty ← FTy.ofCode (fld x 3 3)
    let rnd ← Rnd.ofCode (fld x 0 3)
    some (.bfscl h d a w desc ty rnd)
  | 24 => do
    let d ← Opr.ofCode (fld x 31 8)
    let a ← Opr.ofCode (fld x 23 8)
    let b ← Opr.ofCode (fld x 15 8)
    let c ← Opr.ofCode (fld x 7 8)
    let rnd ← Rnd.ofCode (fld x 0 3)
    some (.fdot2 h d a b c rnd)
  | _ => none

/-- R35: the candidate instruction of class 2, by minor code; x is bits [38:0] of the word. -/
def candidate2 (h : Hdr) (x : Nat) : Nat → Option Instr
  | 0 => do
    let off := BitVec.ofNat 24 (fld x 15 24)
    let rc := BitVec.ofNat 15 (fld x 0 15)
    some (.bra h off rc)
  | 1 => do
    let a ← Opr.ofCode (fld x 23 8)
    some (.jmp h a)
  | 2 => do
    let off := BitVec.ofNat 24 (fld x 15 24)
    let rc := BitVec.ofNat 15 (fld x 0 15)
    some (.call h off rc)
  | 3 => some (.ret h)
  | 4 => do
    let mask ← optSOf x
    some (.regang h mask)
  | 5 => some (.exit h)
  | 6 => do
    let d ← vOfCode (fld x 31 8)
    let a ← vOfCode (fld x 23 8)
    let b ← Opr.ofCode (fld x 15 8)
    let len := BitVec.ofNat 5 (fld x 10 5)
    let br := BitVec.ofNat 3 (fld x 7 3)
    let meth ← InvMeth.ofCode (fld x 5 2)
    let dec := fld x 4 1 == 1
    let isInt := fld x 3 1 == 1
    some (.inv h d a b len br meth dec isInt)
  | 7 => do
    let br := BitVec.ofNat 3 (fld x 31 3)
    let a ← Opr.ofCode (fld x 23 8)
    let b ← Opr.ofCode (fld x 15 8)
    let maxit := BitVec.ofNat 6 (fld x 7 6)
    let tol := BitVec.ofNat 6 (fld x 1 6)
    let isInt := fld x 0 1 == 1
    some (.bkset h br a b maxit tol isInt)
  | 8 => do
    let d ← Opr.ofCode (fld x 31 8)
    let br := BitVec.ofNat 3 (fld x 23 3)
    let fld := BitVec.ofNat 3 (fld x 0 3)
    some (.bkget h d br fld)
  | 16 => do
    let d ← vOfCode (fld x 31 8)
    let a ← vOfCode (fld x 23 8)
    let b ← Opr.ofCode (fld x 15 8)
    let mode ← PrmMode.ofCode (fld x 4 3)
    let w64 := fld x 3 1 == 1
    some (.prm h d a b mode w64)
  | 17 => do
    let d ← VoteDst.ofBody x
    let p := BitVec.ofNat 3 (fld x 23 3)
    some (.vote h d p)
  | 18 => do
    let d ← sOfCode (fld x 31 8)
    let a ← vOfCode (fld x 23 8)
    let op ← RedOp.ofCode (fld x 3 4)
    let rnd ← Rnd.ofCode (fld x 0 3)
    some (.lred h d a op rnd)
  | 19 => do
    let d ← vOfCode (fld x 31 8)
    let a ← vOfCode (fld x 23 8)
    let excl := fld x 7 1 == 1
    let op ← RedOp.ofCode (fld x 3 4)
    let rnd ← Rnd.ofCode (fld x 0 3)
    some (.lscan h d a excl op rnd)
  | 20 => do
    let d ← sOfCode (fld x 31 8)
    let a ← vOfCode (fld x 23 8)
    let b ← sOfCode (fld x 15 8)
    let w64 := fld x 3 1 == 1
    some (.rdlane h d a b w64)
  | 24 => do
    let d := BitVec.ofNat 3 (fld x 31 3)
    let a := BitVec.ofNat 3 (fld x 23 3)
    let b := BitVec.ofNat 3 (fld x 15 3)
    let tt := BitVec.ofNat 4 (fld x 0 4)
    some (.plop h d a b tt)
  | 25 => do
    let d ← P2rDst.ofBody x
    some (.p2r h d)
  | 26 => do
    let a ← Opr.ofCode (fld x 23 8)
    let mask := BitVec.ofNat 8 (fld x 7 8)
    some (.r2p h a mask)
  | _ => none

/-- R35: the candidate instruction of class 3, by minor code; x is bits [38:0] of the word. -/
def candidate3 (h : Hdr) (x : Nat) : Nat → Option Instr
  | 0 => do
    let d ← Opr.ofCode (fld x 31 8)
    let m ← Mem.ofBody x
    let sz ← Sz.ofCode (fld x 12 3)
    let ofs := BitVec.ofNat 9 (fld x 0 9)
    some (.ld h d m sz ofs)
  | 1 => do
    let d ← Opr.ofCode (fld x 31 8)
    let m ← Mem.ofBody x
    let sz ← Sz.ofCode (fld x 12 3)
    let ofs := BitVec.ofNat 9 (fld x 0 9)
    some (.st h d m sz ofs)
  | 2 => do
    let d ← Opr.ofCode (fld x 31 8)
    let m ← Mem.ofBody x
    let sz ← Sz.ofCode (fld x 12 3)
    let ofs := BitVec.ofNat 9 (fld x 0 9)
    some (.ldl h d m sz ofs)
  | 3 => do
    let d ← Opr.ofCode (fld x 31 8)
    let m ← Mem.ofBody x
    let sz ← Sz.ofCode (fld x 12 3)
    let ofs := BitVec.ofNat 9 (fld x 0 9)
    some (.stl h d m sz ofs)
  | 4 => do
    let d ← Opr.ofCode (fld x 31 8)
    let m ← Mem.ofBody x
    let sz ← Sz.ofCode (fld x 12 3)
    let win ← Window.ofCode (fld x 7 2)
    let ofs := BitVec.ofNat 7 (fld x 0 7)
    some (.lds h d m sz win ofs)
  | 5 => do
    let d ← Opr.ofCode (fld x 31 8)
    let m ← Mem.ofBody x
    let sz ← Sz.ofCode (fld x 12 3)
    let win ← Window.ofCode (fld x 7 2)
    let ofs := BitVec.ofNat 7 (fld x 0 7)
    some (.sts h d m sz win ofs)
  | 6 => do
    let m ← Mem.ofBody x
    let sz ← Sz.ofCode (fld x 12 3)
    let ofs := BitVec.ofNat 9 (fld x 0 9)
    some (.pf h m sz ofs)
  | 8 => do
    let d ← Opr.ofCode (fld x 31 8)
    let m ← Mem.ofBody x
    let sz ← Sz.ofCode (fld x 12 3)
    let op ← BredOp.ofCode (fld x 6 3)
    let ofs := BitVec.ofNat 6 (fld x 0 6)
    some (.bred h d m sz op ofs)
  | 9 => do
    let d ← vOfCode (fld x 31 8)
    let m ← Mem.ofBody x
    let sz ← Sz.ofCode (fld x 12 3)
    let op ← BupdOp.ofCode (fld x 6 3)
    let ofs := BitVec.ofNat 6 (fld x 0 6)
    some (.bupd h d m sz op ofs)
  | 10 => do
    let a ← sOfCode (fld x 23 8)
    let b ← sOfCode (fld x 15 8)
    some (.qinit h a b)
  | 11 => do
    let d ← Opr.ofCode (fld x 31 8)
    let m ← Mem.ofBody x
    let sz ← Sz.ofCode (fld x 12 3)
    let wait := fld x 8 1 == 1
    let p := BitVec.ofNat 3 (fld x 5 3)
    let ofs := BitVec.ofNat 5 (fld x 0 5)
    some (.qenq h d m sz wait p ofs)
  | 12 => do
    let d ← Opr.ofCode (fld x 31 8)
    let m ← Mem.ofBody x
    let sz ← Sz.ofCode (fld x 12 3)
    let wait := fld x 8 1 == 1
    let p := BitVec.ofNat 3 (fld x 5 3)
    let ofs := BitVec.ofNat 5 (fld x 0 5)
    some (.qdeq h d m sz wait p ofs)
  | _ => none

/-- R35: the candidate instruction of class 4, by minor code; x is bits [38:0] of the word. -/
def candidate4 (h : Hdr) (x : Nat) : Nat → Option Instr
  | 0 => do
    let d ← vOfCode (fld x 31 8)
    let m ← Mem.ofBody x
    let sz ← Sz.ofCode (fld x 12 3)
    let op ← AtomOp.ofCode (fld x 5 4)
    let ord ← AtomOrd.ofCode (fld x 2 3)
    some (.atom h d m sz op ord)
  | 1 => do
    let d ← Opr.ofCode (fld x 31 8)
    let m ← Mem.ofBody x
    let sz ← Sz.ofCode (fld x 12 3)
    let ofs := BitVec.ofNat 9 (fld x 0 9)
    some (.lda h d m sz ofs)
  | 2 => do
    let d ← Opr.ofCode (fld x 31 8)
    let m ← Mem.ofBody x
    let sz ← Sz.ofCode (fld x 12 3)
    let ofs := BitVec.ofNat 9 (fld x 0 9)
    some (.str h d m sz ofs)
  | 3 => do
    let kind ← FenceKind.ofCode (fld x 0 2)
    some (.fence h kind)
  | 8 => do
    let a ← sOfCode (fld x 23 8)
    let nb := BitVec.ofNat 4 (fld x 7 4)
    let ring := fld x 0 1 == 1
    some (.barInit h a nb ring)
  | 9 => do
    let d ← optTOf x
    let nb := BitVec.ofNat 4 (fld x 7 4)
    some (.barArrive h d nb)
  | 10 => do
    let a ← sOfCode (fld x 23 8)
    let nb := BitVec.ofNat 4 (fld x 7 4)
    some (.barWait h a nb)
  | 11 => do
    let d ← optTOf x
    let nb := BitVec.ofNat 4 (fld x 7 4)
    some (.barSync h d nb)
  | 12 => do
    let d ← optTOf x
    let nb := BitVec.ofNat 4 (fld x 7 4)
    some (.barDrop h d nb)
  | 13 => do
    let a ← sOfCode (fld x 23 8)
    let nb := BitVec.ofNat 4 (fld x 7 4)
    some (.barExpect h a nb)
  | 14 => do
    let nb := BitVec.ofNat 4 (fld x 7 4)
    let lvl ← BarLevel.ofCode (fld x 0 2)
    some (.barBind h nb lvl)
  | 16 => do
    let a ← sOfCode (fld x 23 8)
    let tl := BitVec.ofNat 3 (fld x 7 3)
    some (.tlwait h a tl)
  | 17 => do
    let d ← sOfCode (fld x 31 8)
    let tl := BitVec.ofNat 3 (fld x 7 3)
    some (.tlread h d tl)
  | 18 => do
    let cont := BitVec.ofNat 16 (fld x 23 16)
    let b ← sOfCode (fld x 15 8)
    let on ← YieldOn.ofBody x
    some (.yield h cont b on)
  | _ => none

/-- R35: the candidate instruction of class 5, by minor code; x is bits [38:0] of the word. -/
def candidate5 (h : Hdr) (x : Nat) : Nat → Option Instr
  | 0 => do
    let a ← sOfCode (fld x 23 8)
    some (.gang h a)
  | 1 => do
    let t := BitVec.ofNat 6 (fld x 31 6)
    let a ← sOfCode (fld x 23 8)
    let b ← sOfCode (fld x 15 8)
    let mode ← MmaMode.ofBody x
    some (.mma h t a b mode)
  | 2 => do
    let t := BitVec.ofNat 6 (fld x 31 6)
    some (.acczero h t)
  | 3 => do
    let t := BitVec.ofNat 6 (fld x 31 6)
    let a ← sOfCode (fld x 23 8)
    some (.accld h t a)
  | 4 => do
    let t := BitVec.ofNat 6 (fld x 31 6)
    let a ← sOfCode (fld x 23 8)
    some (.accst h t a)
  | 5 => do
    let t := BitVec.ofNat 6 (fld x 31 6)
    let a ← sOfCode (fld x 23 8)
    let fmt ← AccFmt.ofBody x
    let rnd ← Rnd.ofCode (fld x 2 3)
    some (.acccvt h t a fmt rnd)
  | 8 => do
    let a ← sOfCode (fld x 23 8)
    let b ← sOfCode (fld x 15 8)
    let dch := BitVec.ofNat 7 (fld x 7 7)
    let kind ← ScanKind.ofBody x
    some (.scfg h a b dch kind)
  | 9 => some (.srun h)
  | 10 => some (.scin h)
  | 11 => some (.scout h)
  | 12 => some (.sfix h)
  | _ => none

/-- R35: the candidate instruction of class 6, by minor code; x is bits [38:0] of the word. -/
def candidate6 (h : Hdr) (x : Nat) : Nat → Option Instr
  | 0 => do
    let d ← sOfCode (fld x 31 8)
    let a ← sOfCode (fld x 23 8)
    let b ← sOfCode (fld x 15 8)
    let s2g := fld x 0 1 == 1
    let bar ← optNbOf x
    some (.cpy h d a b s2g bar)
  | 1 => do
    let d ← sOfCode (fld x 31 8)
    let a ← sOfCode (fld x 23 8)
    let b ← sOfCode (fld x 15 8)
    some (.lrmk h d a b)
  | 2 => do
    let d ← sOfCode (fld x 31 8)
    let a ← sOfCode (fld x 23 8)
    let b ← sOfCode (fld x 15 8)
    let st := BitVec.ofNat 3 (fld x 7 3)
    let nb := BitVec.ofNat 4 (fld x 10 4)
    let be := fld x 14 1 == 1
    let k32 := fld x 0 1 == 1
    some (.gxch h d a b st nb be k32)
  | 8 => do
    let d ← vOfCode (fld x 31 8)
    let a ← vOfCode (fld x 23 8)
    let b ← vOfCode (fld x 15 8)
    let st := BitVec.ofNat 3 (fld x 7 3)
    let k ← ZWidth.ofCode (fld x 0 2)
    some (.shmul h d a b st k)
  | 9 => do
    let d ← vOfCode (fld x 31 8)
    let a ← vOfCode (fld x 23 8)
    let st := BitVec.ofNat 3 (fld x 7 3)
    let f := BitVec.ofNat 5 (fld x 2 5)
    let k ← ZWidth.ofCode (fld x 0 2)
    some (.shtrunc h d a st f k)
  | 10 => do
    let d ← vOfCode (fld x 31 8)
    let a ← vOfCode (fld x 23 8)
    let st := BitVec.ofNat 3 (fld x 7 3)
    let k ← ZWidth.ofCode (fld x 0 2)
    some (.shsign h d a st k)
  | 11 => do
    let d ← vOfCode (fld x 31 8)
    let a ← vOfCode (fld x 23 8)
    let st := BitVec.ofNat 3 (fld x 7 3)
    let k ← ZWidth.ofCode (fld x 0 2)
    some (.shopen h d a st k)
  | 12 => do
    let d ← vOfCode (fld x 31 8)
    let own ← ShinSrc.ofBody x
    let st := BitVec.ofNat 3 (fld x 7 3)
    let k ← ZWidth.ofCode (fld x 0 2)
    some (.shin h d own st k)
  | 16 => do
    let a ← sOfCode (fld x 23 8)
    let b ← sOfCode (fld x 15 8)
    let len ← MsgLen.ofCode (fld x 0 3)
    some (.send h a b len)
  | 17 => do
    let d ← sOfCode (fld x 31 8)
    let a ← sOfCode (fld x 23 8)
    let b ← sOfCode (fld x 15 8)
    let len ← MsgLen.ofCode (fld x 0 3)
    let anyt := fld x 3 1 == 1
    let anys := fld x 4 1 == 1
    some (.recv h d a b len anyt anys)
  | 18 => do
    let d ← sOfCode (fld x 31 8)
    let a ← sOfCode (fld x 23 8)
    let len ← MsgLen.ofCode (fld x 0 3)
    let anyt := fld x 3 1 == 1
    let anys := fld x 4 1 == 1
    some (.mprobe h d a len anyt anys)
  | _ => none

/-- R35: the candidate instruction of class 7, by minor code; x is bits [38:0] of the word. -/
def candidate7 (h : Hdr) (x : Nat) : Nat → Option Instr
  | 0 => do
    let code := BitVec.ofNat 15 (fld x 0 15)
    some (.trap h code)
  | 1 => some (.rtt h)
  | 2 => do
    let code := BitVec.ofNat 15 (fld x 0 15)
    some (.brkp h code)
  | 3 => do
    let d ← Opr.ofCode (fld x 31 8)
    let sr ← SpecialReg.ofCode (fld x 7 8)
    some (.rdsr h d sr)
  | 4 => do
    let a ← sOfCode (fld x 23 8)
    let sr ← SpecialReg.ofCode (fld x 7 8)
    some (.wrsr h a sr)
  | 5 => do
    let a ← sOfCode (fld x 23 8)
    let id := BitVec.ofNat 8 (fld x 7 8)
    some (.mark h a id)
  | 8 => do
    let d ← sOfCode (fld x 31 8)
    let a ← sOfCode (fld x 23 8)
    some (.lnch h d a)
  | 9 => do
    let a ← sOfCode (fld x 23 8)
    let b ← sOfCode (fld x 15 8)
    let tl := BitVec.ofNat 3 (fld x 7 3)
    some (.ldep h a b tl)
  | 10 => do
    let a ← sOfCode (fld x 23 8)
    let b ← sOfCode (fld x 15 8)
    let tl := BitVec.ofNat 3 (fld x 7 3)
    some (.lwait h a b tl)
  | 11 => do
    let a ← sOfCode (fld x 23 8)
    let b ← sOfCode (fld x 15 8)
    let tl := BitVec.ofNat 3 (fld x 7 3)
    some (.lsig h a b tl)
  | _ => none

/-- R35: the candidate of a full-form word by its opcode. -/
def fullCandidate (h : Hdr) (op x : Nat) : Option Instr :=
  match op / 128 with
  | 0 => candidate0 h x (op % 128)
  | 1 => candidate1 h x (op % 128)
  | 2 => candidate2 h x (op % 128)
  | 3 => candidate3 h x (op % 128)
  | 4 => candidate4 h x (op % 128)
  | 5 => candidate5 h x (op % 128)
  | 6 => candidate6 h x (op % 128)
  | 7 => candidate7 h x (op % 128)
  | _ => none

/-- The one instruction a word can stand for, before the reserved bits and the operand rules are checked. -/
def candidate (w : Nat) : Option Instr :=
  if fld w 63 1 = 1 then do
    let a ← PSlot.ofCode (fld w 30 30)
    let b ← PSlot.ofCode (fld w 0 30)
    some (Instr.ofPair (BitVec.ofNat 3 (fld w 60 3)) a b)
  else fullCandidate (Hdr.ofWord w) (fld w 39 10) (fld w 0 39)

/-- Why a word is no instruction (R38); each of these traps ILL with subcode 0 when a fragment issues it. -/
inductive DecodeError where
  /-- an opcode, a paired opcode or a field code that the tables do not list -/
  | unassigned
  /-- a reserved field or bit that is not zero -/
  | reservedBits
  /-- an operand, slot, pairing or cache-hint rule broken -/
  | operandRule
  /-- fewer bytes than a word holds -/
  | short
  deriving DecidableEq, Repr

/-- R38: the instruction a word encodes, or why it encodes none. -/
def decode (w : Word) : Except DecodeError Instr :=
  match candidate w.toNat with
  | none => .error .unassigned
  | some i =>
    if encodeNat i = some w.toNat then (if i.wf then .ok i else .error .operandRule) else .error .reservedBits

/-- R8: a word from eight bytes, the first the least significant. -/
def wordOfBytes : List Byte → Option Word
  | [b0, b1, b2, b3, b4, b5, b6, b7] => some (b7 ++ b6 ++ b5 ++ b4 ++ b3 ++ b2 ++ b1 ++ b0)
  | _ => none

/-- R8: the eight bytes of a word, as memory holds them. -/
def bytesOfWord (w : Word) : List Byte := (List.range 8).map (fun j => w.extractLsb' (8 * j) 8)

/-- Decoding any list of bytes: the first eight are a word, the rest is handed back. -/
def decodeBytes (bs : List Byte) : Except DecodeError (Instr × List Byte) :=
  match wordOfBytes (bs.take 8) with
  | none => .error .short
  | some w => (decode w).map (fun i => (i, bs.drop 8))

/-- The instruction a table row's bits decode to: the bits are the low nbits of one 64-bit word, the rest zero. -/
def decodeTableWord (nbits w : Nat) : Option Instr :=
  match decodeBytes (bytesOfWord (BitVec.ofNat 64 (w % 2 ^ min nbits 64))) with
  | .ok (i, _) => some i
  | .error _ => none

end Sys2Proof
end

