-- ==== Sys2Proof/Config.lean ====
section
/-! DEFINITION. The free values: what the spec leaves open while the machine goes on. Each is an opaque function with no
body, so a proof can use no value of it, and a claim about it holds whatever it is. The first argument is the state's
nonce, which every step advances, wherever the value may differ from one moment to the next. -/

namespace Sys2Proof

/-- R31: whether a read that comes before a fixed-latency result is ready returns the new value (log entry 10). -/
opaque Config.early : Nat → Nat → Bool

/-- R283, R279: whether a plain load that finds an unowned copy with an older value returns that value (log entry 11). -/
opaque Config.stale : Nat → Nat → Bool

/-- R439: whether a line was owned or dirty in the slices of a die that is reset (log entry 20). -/
opaque Config.dirty : Nat → Nat → Bool

/-- R443: a sensor's reading (log entry 21). -/
opaque Config.sensor : Nat → Nat → Word

/-- R390: the bytes of the digests of the three firmware images (log entry 22). -/
opaque Config.firmware : Nat → Nat → Byte

/-- R290, R366: a byte that another package has put into its own memory (log entry 13). -/
opaque Config.peerByte : Nat → Nat → Byte

/-- R290: whether another package has written a byte of its own memory since this package last saw it (log entry 13). -/
opaque Config.peerWrote : Nat → Nat → Bool

/-- R344, R283: whether a cache no longer holds a line that it was filled with (log entry 73). -/
opaque Config.evicted : Nat → Nat → Bool

/-- R367: which of the allowed ways of a slice a line takes (log entry 73). -/
opaque Config.way : Nat → Nat → Nat

/-- R236, R293: whether a unit that a transfer has still to move is moved now (log entry 27). -/
opaque Config.moves : Nat → Nat → Bool

/-- R314: a number the Dealer draws, by pair, stream, serial and index within the item (log entry 14). -/
@[noinline] opaque Config.dealt : Nat → Nat → Nat → Nat → Word

/-- R343: what a read of a register window address that names no register returns to a launch (log entry 15). -/
opaque Config.windowRead : Nat → Nat → Word

/-- R366, R406: whether a peer package refuses a request (log entry 16). -/
opaque Config.peerRefuses : Nat → Nat → Bool

/-- R422, R424: cycles a request waited in queues: timing (log entry 17). -/
opaque Config.queueCycles : Nat → Nat → Word

/-- R229, R370, R384: the bytes of the keys the security unit draws, by the number of the key (log entry 18). -/
opaque Config.keyByte : Nat → Nat → Byte

/-- R429: the device id of the identity certificate (log entry 19). -/
opaque Config.deviceId : Nat

/-- R389, R429: the bytes of the ECDSA signature that the device identity key or alias key makes of a digest (log entry 19). -/
opaque Config.signature : List Nat → Nat → Nat

/-- R389: the slot-0 certificate chain: its length and its bytes; its alias key is derived from the measurements (log entry 23). -/
opaque Config.chainLength : Nat
opaque Config.chainByte : List Nat → Nat → Nat

/-- R434: the private scalar of the device identity key (log entry 19). -/
opaque Config.deviceScalar : Nat → Byte

/-- R314: where boot places a partition's hand buffer in its DRAM, and its bytes (log entry 40). -/
opaque Config.handBase : Nat → Nat
opaque Config.handSize : Nat → Nat

/-- R334: the flits that a request for so many bytes takes on a die link, its answer included (log entry 45). -/
opaque Config.flits : Nat → Nat

/-- R433: whether a certificate chains to the Grenica root, and the device id it names (log entry 19). -/
opaque Config.certChains : List Nat → Bool
opaque Config.certDevice : List Nat → Nat

/-- R433: whether a signature of a digest verifies under a certificate's key (log entry 19). -/
opaque Config.verifies : List Nat → List Nat → List Nat → Bool

/-- R434: whether the stored record of a region fails its check at boot (log entry 75). -/
opaque Config.storeFails : Nat → Nat → Bool

end Sys2Proof
end

