-- ==== Sys2Proof/Machine/Phys.lean ====
section
/-! DEFINITION. Physical memory and the host register file: bytes by physical address under a key slot (R343, R376),
poisoned lines (R436), the registers of the I/O die's window (R3) with their reset values and write masks, and the look-up
of teams, launches and contexts. -/

namespace Sys2Proof.Machine

/-! ### DRAM -/

/-- R343: the end of DRAM. -/
def dramEnd : Nat := 2 ^ 39

/-- R343: a physical address in DRAM. -/
def inDram (pa : Nat) : Bool := decide (pa < dramEnd)

/-- R343: a physical address in the register windows of the I/O die. -/
def inWindow (pa : Nat) : Bool := decide (0xFF0000000000 ≤ pa) && decide (pa < 2 ^ 48)

/-- R343: the logical home die of a DRAM address. -/
def homeDie (pa : Nat) : Nat := bits pa 38 36

/-- The bytes of a drawn key. -/
def drawnKey (k n : Nat) : List Nat := (List.range n).map (fun j => (Config.keyByte k j).toNat)

/-- R370: the 64-byte key of a slot. -/
def State.slotKey (s : State) (slot : Nat) : List Nat :=
  let k := Cells.get ⟨.free, 0, 0, 0, []⟩ s.sec.slots slot
  if slot = 0 then drawnKey s.sec.epoch 64 else if k.raw.isEmpty then drawnKey k.key 64 else natsOf k.raw

/-- R376: the slot a line is stored under. -/
def State.lineSlot (s : State) (line : Nat) : Nat := Cells.get 0 s.slotOf line

/-- R376: what the ciphertext of a line decrypts to under a slot: a line's bytes stand in mem as they read under its own. -/
def State.crossLine (s : State) (slot line : Nat) : List Byte :=
  let plain := natsOf (Cells.slice Memory.unlisted s.mem (64 * line) 64)
  let out := bytesOf (xts true (s.slotKey slot) line (xts false (s.slotKey (s.lineSlot line)) line plain))
  (List.range 64).map (fun j => out.getD j 0)

/-- R376: one byte of DRAM read under a key slot. -/
def State.byteAt (s : State) (slot pa : Nat) : Byte :=
  if s.lineSlot (pa / 64) = slot then Cells.get Memory.unlisted s.mem pa
  else (s.crossLine slot (pa / 64)).getD (pa % 64) 0

/-- n bytes of DRAM under a key slot. -/
def State.readPhys (s : State) (slot pa n : Nat) : List Byte :=
  (Cells.slice Memory.unlisted s.mem pa n).zipIdx.map (fun x =>
    if s.lineSlot ((pa + x.2) / 64) = slot then x.1 else s.byteAt slot (pa + x.2))

/-- R376: a line that is written under another slot than it is stored under first takes, under the new slot, the bytes it
decrypts to. -/
def State.rekeyLine (s : State) (slot line : Nat) : State :=
  if s.lineSlot line = slot then s
  else
    { s with
      mem := Cells.splice Memory.unlisted s.mem (64 * line) (s.crossLine slot line)
      slotOf := Cells.set 0 s.slotOf line slot }

/-- R436: a byte that is written is no longer bad. -/
def State.healByte (s : State) (pa : Nat) : State :=
  { s with
    poisoned := Cells.set 0 s.poisoned (pa / 64) (Cells.get 0 s.poisoned (pa / 64) &&& ~~~(laneBit (pa % 64))) }

/-- R376, R436: the lines of [pa, pa + n) are ready to be written under a slot: each is stored under it, and the bytes are no
longer bad. -/
def State.prepare (s : State) (slot pa n : Nat) : State :=
  let s := (List.range ((pa + n - 1) / 64 + 1 - pa / 64)).foldl (fun (s : State) j => s.rekeyLine slot (pa / 64 + j)) s
  if s.poisoned.isEmpty then s else (List.range n).foldl (fun (s : State) j => s.healByte (pa + j)) s

/-- Bytes of DRAM written from an address under a key slot. -/
def State.writePhys (s : State) (slot pa : Nat) (bs : List Byte) : State :=
  if bs.isEmpty then s
  else
    let s := s.prepare slot pa bs.length
    { s with mem := Cells.splice Memory.unlisted s.mem pa bs }

/-- R436: some byte of [pa, pa + n) lies in a poisoned line. -/
def State.poisonedAt (s : State) (pa n : Nat) : Bool :=
  !s.poisoned.isEmpty &&
    (List.range (n + 63)).any (fun j => (Cells.get 0 s.poisoned ((pa + j) / 64) != 0) && decide ((pa + j) / 64 * 64 < pa + n))

/-- A little-endian word of n bytes read physically under slot 0. -/
def State.physNat (s : State) (pa n : Nat) : Nat := leNat (s.readPhys 0 pa n)

/-! ### Host memory -/

/-- Host bus memory: bytes written in ascending order. -/
def hostWrite (m : Memory) : Nat → List Byte → Memory
  | _, [] => m
  | a, b :: rest => hostWrite (Cells.set Memory.unlisted m a b) (a + 1) rest

def hostRead (m : Memory) (a n : Nat) : List Byte := (List.range n).map (fun j => Cells.get Memory.unlisted m (a + j))

/-! ### Registers of the window -/

def Blk.code : Blk → Nat
  | .control => 0
  | .xlat => 1
  | .sec => 2
  | .hostLink => 3
  | .peer => 4
  | .config => 5
  | .debug => 6
  | .sensor => 7
  | .repair => 8
  | .power => 9
  | .pkg => 10

/-- The key of a register in the host register file. -/
def regKey (b : Blk) (off : Nat) : Nat := Blk.code b * 2 ^ 20 + off

/-- The reset value of a register kept in the host register file (R367, R442: the only ones that are not 0). -/
def regReset (b : Blk) (off : Nat) : Word :=
  match b with
  | .xlat => if 0x4000 ≤ off && off < 0x4200 && off % 0x40 ≤ 0x20 then 0xFFFF else 0
  | .power => if off = 8 then 2800 else if off = 0x10 then 48 else 0
  | _ => 0

/-- A register kept in the host register file; what is stored is the difference from its reset value, so that a file at
reset lists nothing. -/
def State.hreg (s : State) (b : Blk) (off : Nat) : Word := Cells.get 0 s.hregs (regKey b off) ^^^ regReset b off

def State.setHreg (s : State) (b : Blk) (off : Nat) (v : Word) : State :=
  { s with hregs := Cells.set 0 s.hregs (regKey b off) (v ^^^ regReset b off) }

/-! ### Looking things up -/

def State.team? (s : State) (id : Nat) : Option Team := s.teams.find? (fun t => t.id == id)

def State.modTeam (s : State) (id : Nat) (f : Team → Team) : State :=
  { s with teams := s.teams.map (fun t => if t.id = id then f t else t) }

def State.modGroup (s : State) (id g : Nat) (f : Group → Group) : State :=
  s.modTeam id (fun t => { t with groups := modNth t.groups g f })

def Group.frag? (g : Group) (e : Nat) : Option Frag := g.frags.find? (fun f => f.ent == e)

def Group.modFrag (g : Group) (e : Nat) (f : Frag → Frag) : Group :=
  { g with frags := g.frags.map (fun x => if x.ent = e then f x else x) }

def State.modFrag (s : State) (id g e : Nat) (f : Frag → Frag) : State :=
  s.modGroup id g (fun x => x.modFrag e f)

def State.launch? (s : State) (seq : Nat) : Option Launch := s.launches.find? (fun l => l.seq == seq)

def State.modLaunch (s : State) (seq : Nat) (f : Launch → Launch) : State :=
  { s with launches := s.launches.map (fun l => if l.seq = seq then f l else l) }

def State.ctx? (s : State) (h : Nat) : Option Ctx := s.ctxs.find? (fun c => c.handle == h)

def State.modCtx (s : State) (h : Nat) (f : Ctx → Ctx) : State :=
  { s with ctxs := s.ctxs.map (fun c => if c.handle = h then f c else c) }

def State.modStream (s : State) (n : Nat) (f : Stream → Stream) : State := { s with streams := modNth s.streams n f }

def State.modSec (s : State) (f : Sec → Sec) : State := { s with sec := f s.sec }

def State.modDbg (s : State) (p : Nat) (f : Dbg → Dbg) : State := { s with dbg := modNth s.dbg p f }

/-- R370: the key slot of a launch: its handle's, or 0 for an ordinary launch. -/
def Launch.slot (l : Launch) : Nat := if l.r.keyh = 0 then 0 else field l.r.keyh 29 20

/-- R327: the width of a launch's groups. -/
def Rec.width (r : Rec) : Nat := 16 * 2 ^ r.wc

/-- R327: lane memory per lane in bytes. -/
def Rec.lmemBytes (r : Rec) : Nat := 256 * (r.lmem + 1)

/-- R309: the partition of a die. -/
def State.partOf (s : State) (die : Nat) : Nat := s.diemap.getD die 0

/-- R309: the dies of a partition. -/
def State.diesOf (s : State) (p : Nat) : List Nat := (List.range 8).filter (fun d => s.partOf d == p)

/-- A physical range wholly in the DRAM of a partition's dies. -/
def State.inPartDram (s : State) (p pa n : Nat) : Bool :=
  inDram pa && inDram (pa + n - 1) && (List.range 8).all (fun d =>
    s.partOf d == p || decide (pa + n ≤ d * 2 ^ 36) || decide ((d + 1) * 2 ^ 36 ≤ pa))

/-- R314: the hand buffer of a partition as base and size: a region of the DRAM of one of its dies; which region is free. -/
def State.handRegion (s : State) (p : Nat) : Nat × Nat :=
  let ds := s.diesOf p
  let k := Config.handBase p % (2 ^ 36 * ds.length)
  (ds.getD (k / 2 ^ 36) 0 * 2 ^ 36 + k % 2 ^ 36, if ds = [] then 0 else 1 + Config.handSize p % (2 ^ 36 - k % 2 ^ 36))

/-- R314: a physical range meets the hand buffer of a partition of a share pair. -/
def State.inHands (s : State) (pa n : Nat) : Bool :=
  s.pairs.any (fun y => [y.p0, y.p1].any (fun p =>
    decide (pa < (s.handRegion p).1 + (s.handRegion p).2) && decide ((s.handRegion p).1 < pa + n)))

/-- R380: the save area of a partition as base and size, if it has one. -/
def State.saveArea (s : State) (p : Nat) : Option (Nat × Nat) :=
  let sz := field (s.hreg .sec (0x808 + 0x10 * p)) 5 0
  if sz = 0 then none else some ((s.hreg .sec (0x800 + 0x10 * p)).toNat, 2 ^ sz)

/-- Cycles of the 1.8 GHz reference in a microsecond (R96). -/
def us : Nat := 1800

end Sys2Proof.Machine
end

