-- ==== Sys2Proof/Machine/Dies.lean ====
section
/-! DEFINITION. The mesh of dies (R361-R363): which physical position each logical die has, its neighbours and its
adjacency register, and the typical access times that follow from the distance (R169). -/

namespace Sys2Proof.Machine

/-- R361, R363: the physical position of a logical die: the positions but the removed one, in ascending order; after a
field swap the swapped die stands at the position that was removed. -/
def Fuses.posOf (f : Fuses) (d : Nat) : Nat :=
  if f.swapped = some d then f.removed else if d < f.removed then d else d + 1

/-- The logical die at a position of the 3x3 mesh. -/
def Fuses.dieAt (f : Fuses) (row col : Int) : Option Nat :=
  if row < 0 || 2 < row || col < 0 || 2 < col then none
  else (List.range 8).find? (fun d => Int.ofNat (f.posOf d) == 3 * row + col)

/-- The logical die one position away. -/
def Fuses.beside (f : Fuses) (d : Nat) (drow dcol : Int) : Option Nat :=
  f.dieAt (Int.ofNat (f.posOf d / 3) + drow) (Int.ofNat (f.posOf d % 3) + dcol)

/-- R361: the adjacency register of a logical die. -/
def Fuses.adjacency (f : Fuses) (d : Nat) : Word :=
  let side (x : Option Nat) : Nat := x.getD 15
  BitVec.ofNat 64 (f.posOf d * 2 ^ 16 + side (f.beside d 0 (-1)) * 2 ^ 12 + side (f.beside d 1 0) * 2 ^ 8 +
    side (f.beside d 0 1) * 2 ^ 4 + side (f.beside d (-1) 0))

/-- R362: the links a request crosses between two dies, along a row and along a column. -/
def Fuses.hops (f : Fuses) (a b : Nat) : Nat :=
  let p := f.posOf a
  let q := f.posOf b
  ((p / 3 - q / 3) + (q / 3 - p / 3)) + ((p % 3 - q % 3) + (q % 3 - p % 3))

/-- R361, R363: the position without an active die. -/
def Fuses.hole (f : Fuses) : Nat :=
  match f.swapped with
  | some d => if d < f.removed then d else d + 1
  | none => f.removed

/-- The numbers passed on the way from a to b. -/
def towards (a b : Nat) : List Nat :=
  if a ≤ b then (List.range (b - a)).map (fun j => a + j + 1) else (List.range (a - b)).map (fun j => a - j - 1)

/-- R362: the positions a request passes from p to q, along the row first, or along the column first. -/
def rowFirst (p q : Nat) : List Nat := (towards (p % 3) (q % 3)).map (fun c => p / 3 * 3 + c) ++ (towards (p / 3) (q / 3)).map (fun r => 3 * r + q % 3)

def colFirst (p q : Nat) : List Nat := (towards (p / 3) (q / 3)).map (fun r => 3 * r + p % 3) ++ (towards (p % 3) (q % 3)).map (fun c => q / 3 * 3 + c)

/-- R362, R439, R441: the fixed route between two dies, as positions; gone are the positions that it passes around. -/
def Fuses.route (f : Fuses) (gone : List Nat) (a b : Nat) : List Nat :=
  let r := rowFirst (f.posOf a) (f.posOf b)
  if r.dropLast.any (fun x => x == f.hole || gone.contains x) then colFirst (f.posOf a) (f.posOf b) else r

/-- The logical die at a position. -/
def Fuses.dieOf (f : Fuses) (pos : Nat) : Option Nat := (List.range 8).find? (fun d => f.posOf d == pos)

/-- R361: two dies are neighbours when either names the other. -/
def Fuses.neighbours (f : Fuses) (a b : Nat) : Bool := f.hops a b == 1

/-! ### Power states (R441) -/

/-- R441: the nominal wake time of a power state in µs. -/
def wakeUs : Nat → Nat
  | 1 => 2
  | 2 => 50
  | 3 => 2000
  | _ => 0

def State.islandSt (s : State) (i : Nat) : Nat := ((s.islands[i]?).map Island.st).getD 3

/-- R441: the fabric or the stack interface of a die cannot serve a request now. -/
def State.asleep (s : State) (die : Nat) : Bool := s.islandSt (3 * die + 1) != 0 || s.islandSt (3 * die + 2) != 0

/-- R441: a request for an island starts its wake, unless it is awake, waking or held in A3; an island of a die in A3 wakes the
whole die. -/
def State.wakeIsland (s : State) (i : Nat) : State :=
  let one (s : State) (i : Nat) : State :=
    { s with islands := modNth s.islands i (fun x => if x.st = 0 || x.waking.isSome then x else { x with waking := some (s.clock + wakeUs x.st * us) }) }
  if 27 ≤ i then s
  else if i < 24 && s.islandSt i == 3 then one (one (one s (i / 3 * 3)) (i / 3 * 3 + 1)) (i / 3 * 3 + 2)
  else one s i

/-- R441: a request homed on a die wakes it. -/
def State.wakeDie (s : State) (die : Nat) : State := (s.wakeIsland (3 * die + 1)).wakeIsland (3 * die + 2)

/-- R169: the typical time of an access that its home serves, for a die (8 for the control core, which stands beside die
0). -/
def State.homeTime (s : State) (die : Nat) (c : Loc) : Nat :=
  if c.peer != 0 then 864
  else
    let h := s.fuses.hops (if die = 8 then 0 else die) (homeDie c.pa)
    if h = 0 then 380 else 610 + 120 * (h - 1)

end Sys2Proof.Machine
end

