-- ==== Sys2Proof/Machine/Walk.lean ====
section
/-! DEFINITION. Translation (R342-R355, R366, R373, R378, R428): the ASID table, the five-level walk with the order of its
tests, the TLB and the walk cache, the accessed and dirty bits, contiguous groups, the permission of a leaf, and the hits of L1s
and slices, which are checked against the leaf their line was filled through. -/

namespace Sys2Proof.Machine

/-- What an access needs of its leaf (R349, R428): fetch, read, write, or the read of a copy into scratchpad. -/
inductive Access where
  | fetch | read | write | copyRead
  deriving DecidableEq, Repr

/-- R342, R373: who translates: address space, partition, key slot, requesting die (8 for the control core) and L1, which engines have
none of. -/
structure Space where
  asid : Nat
  part : Nat
  slot : Nat
  die  : Nat
  core : Option Nat
  deriving DecidableEq, Repr

/-- R344: where an access finds its line: the core's L1, a slice of the requesting die, or neither. -/
inductive Level where
  | l1 | slice | beyond
  deriving DecidableEq, Repr

/-- A translated byte: physical address, leaf key, memory type, read-mostly bit, peer index, the page's size, the leaf, and
where its line was found. -/
structure Tr where
  pa      : Nat
  key     : Nat
  mt      : Nat
  rm      : Bool
  peer    : Nat
  sizeLog : Nat
  leaf    : Word
  found   : Level
  deriving DecidableEq, Repr

/-- R354: the subcodes of a translation fault; the not-present and scrub-pending ones are replayable. -/
def replayable (sub : Nat) : Bool := (decide (0x11 ≤ sub) && decide (sub ≤ 0x15)) || sub == 0x30

/-- R343: bits [63:57] all equal bit 56. -/
def canonical (va : Word) : Bool := field va 63 56 == 0 || field va 63 56 == 0xFF

/-- R344: the memory controller whose TLB translates an address. -/
def ctlOf (va : Nat) : Nat := bits va 14 12 ^^^ bits va 23 21 ^^^ bits va 32 30

/-- R346: the index of a level. -/
def levelIdx (va level : Nat) : Nat := bits va (9 * level + 11) (9 * level + 3)

/-- R346: log2 of the page a leaf of the level maps. -/
def leafLog (level : Nat) : Nat := 9 * level + 3

/-! ### Entry fields (R347) -/

def Word.v (e : Word) : Bool := e.getLsbD 0
def Word.leaf (e : Word) : Bool := e.getLsbD 1
def Word.w (e : Word) : Bool := e.getLsbD 2
def Word.x (e : Word) : Bool := e.getLsbD 3
def Word.rm (e : Word) : Bool := e.getLsbD 4
def Word.ct (e : Word) : Bool := e.getLsbD 5
def Word.mt (e : Word) : Nat := field e 7 6
def Word.sp (e : Word) : Bool := e.getLsbD 8
def Word.acc (e : Word) : Bool := e.getLsbD 9
def Word.dirty (e : Word) : Bool := e.getLsbD 10
def Word.addr (e : Word) : Nat := field e 47 12 * 2 ^ 12
def Word.peer (e : Word) : Nat := field e 52 48
def Word.key (e : Word) : Nat := field e 62 53

/-- R348: a valid entry with a reserved bit set, or a leaf where none or one is required, or a misaligned large frame. -/
def reservedFault (e : Word) (level : Nat) : Bool :=
  e.getLsbD 63 || e.getLsbD 11 ||
    (if Word.leaf e then
       decide (level ≥ 4) || Word.mt e == 3 || (level == 2 && field e 20 12 != 0) || (level == 3 && field e 29 12 != 0)
     else level == 1 || field e 62 48 != 0 || field e 10 2 != 0)

/-- R378: the frames a scrub in progress holds pending. -/
def State.scrubPending (s : State) (pa n : Nat) : Bool :=
  s.sec.scrubs.any (fun x => decide (pa < x.base + 2 ^ x.sizeLog) && decide (x.base < pa + n))

/-- R400: in place of a key slot: copy-in, whose translation leaves out the key test. -/
def anySlot : Nat := 1024

/-- R373: the key of a leaf may be used by the launch. -/
def keyOk (slot : Nat) (e : Word) : Bool :=
  slot == anySlot || (Word.key e == 0 || (Word.key e == slot && Word.peer e == 0 && Word.mt e != 2))

/-- R348: the frame of a leaf lies where a leaf may point. -/
def State.frameOk (s : State) (sp : Space) (e : Word) (sizeLog : Nat) : Bool :=
  Word.peer e != 0 ||
    (let pa := Word.addr e
     if inWindow pa then Word.mt e == 2 else s.inPartDram sp.part pa (2 ^ sizeLog) && !s.inHands pa (2 ^ sizeLog))

/-- R349: the leaf permits the access. -/
def permits (e : Word) (a : Access) : Bool :=
  match a with
  | .read | .copyRead => true
  | .write => Word.w e
  | .fetch => Word.x e

/-- R428: an address that lies in an ACTIVE metered region may only be read by a copy into scratchpad, and not at all
once a CLOSE has begun. -/
def State.metered (s : State) (asid va : Nat) : Option Region :=
  s.sec.regions.find? (fun r => r.asid == asid && decide (r.base ≤ va) && decide (va < r.limit))

def State.meterOk (s : State) (asid va : Nat) (a : Access) : Bool :=
  match s.metered asid va with
  | none => true
  | some r => a == .copyRead && !r.closing

/-- The permission tests of a leaf in their order (R348, R349, R373). -/
def State.leafOk (s : State) (sp : Space) (e : Word) (sizeLog : Nat) (a : Access) : Bool :=
  s.frameOk sp e sizeLog && keyOk sp.slot e && permits e a

/-- R350: setting A, and D for a write, in an entry, and in all 16 entries of a merged group. -/
def setBits (e : Word) (a : Access) : Word := e ||| 0x200 ||| (if a == .write then 0x400 else 0)

def State.touch (s : State) (pa : Nat) (a : Access) : State :=
  let e := BitVec.ofNat 64 (s.physNat pa 8)
  if setBits e a = e then s else s.writePhys 0 pa (leBytes 8 (setBits e a).toNat)

/-- R351: the 16 entries of a contiguous group may be merged. -/
def mergeable (es : List Word) (sizeLog : Nat) : Bool :=
  match es with
  | [] => false
  | e0 :: _ =>
    aligned (Word.addr e0) (16 * 2 ^ sizeLog) &&
      (List.range es.length).all (fun j =>
        let e := es.getD j 0
        Word.v e && Word.leaf e && Word.ct e && field e 8 2 == field e0 8 2 && field e 62 48 == field e0 62 48 &&
          Word.addr e == Word.addr e0 + j * 2 ^ sizeLog)

/-- R352: capacities of a controller's TLB and walk cache; the entry added least recently makes room. -/
def capped {α : Type} (p : α → Bool) (cap : Nat) (l : List α) (x : α) : List α :=
  if (l.filter p).length < cap then l ++ [x] else (l.eraseP p) ++ [x]

def State.addTlb (s : State) (x : TlbEntry) : State :=
  { s with tlb := capped (fun y => y.die == x.die && y.ctl == x.ctl) 2048 s.tlb x }

def State.addWalk (s : State) (x : WalkEntry) : State :=
  { s with walks := capped (fun y => y.die == x.die && y.ctl == x.ctl) 256 s.walks x }

/-- R352: the walk-cache tag of a level: the VA bits from that level's index up. -/
def walkTag (va level : Nat) : Nat := bits va 56 (9 * level + 3)

/-- R352: the deepest walk-cache entry that serves an address. -/
def State.walkHit (s : State) (sp : Space) (va : Nat) : Option WalkEntry :=
  [2, 3, 4, 5].findSome? (fun lv =>
    s.walks.find? (fun w => w.die == sp.die && w.ctl == ctlOf va && w.asid == sp.asid && w.level == lv && w.tag == walkTag va lv))

def State.tlbHit (s : State) (sp : Space) (va : Nat) : Option TlbEntry :=
  s.tlb.find? (fun t => t.die == sp.die && t.ctl == ctlOf va && t.asid == sp.asid && t.va == va / 2 ^ t.sizeLog * 2 ^ t.sizeLog)

/-- The result of a leaf for one address. -/
def trOf (e : Word) (base va sizeLog : Nat) (found : Level) : Tr :=
  { pa := base + va % 2 ^ sizeLog, key := Word.key e, mt := Word.mt e, rm := Word.rm e && Word.peer e == 0,
    peer := Word.peer e, sizeLog := sizeLog, leaf := e, found := found }

/-- R439: the home die of an address is being reset. -/
def State.dieDown (s : State) (pa : Nat) : Bool := s.dieResets.any (fun r => inDram pa && r.die == homeDie pa && r.drained)

/-- R436, R439: a physical read of n bytes meets a bad line or a die that is being reset. -/
def State.badPhys (s : State) (pa n : Nat) : Bool := s.poisonedAt pa n || s.dieDown pa

/-- R350, R351: a walk ends at a good leaf: the bits are set and one TLB entry is installed. -/
def State.install (s : State) (sp : Space) (va entPa level : Nat) (e : Word) (a : Access) : State × Tr :=
  let lg := leafLog level
  let grp := entPa / 128 * 128
  let es := (List.range 16).map (fun j => BitVec.ofNat 64 (s.physNat (grp + 8 * j) 8))
  if Word.ct e && !s.badPhys grp 128 && mergeable es lg then
    let s := (List.range 16).foldl (fun s j => s.touch (grp + 8 * j) a) s
    let lg' := lg + 4
    let base := Word.addr (es.getD 0 0)
    let ds : BitVec 16 := BitVec.ofNat 16 ((es.zipIdx.map (fun y => if Word.dirty (setBits y.1 a) then 2 ^ y.2 else 0)).sum)
    let x : TlbEntry :=
      ⟨sp.die, ctlOf va, sp.asid, va / 2 ^ lg' * 2 ^ lg', lg', setBits ((e &&& ~~~(0x0000FFFFFFFFF000 : Word)) ||| BitVec.ofNat 64 base) a, ds, entPa⟩
    (s.addTlb x, trOf (setBits e a) base va lg' .beyond)
  else
    let s := s.touch entPa a
    let x : TlbEntry := ⟨sp.die, ctlOf va, sp.asid, va / 2 ^ lg * 2 ^ lg, lg, setBits e a, 0, entPa⟩
    (s.addTlb x, trOf (setBits e a) (Word.addr e) va lg .beyond)

/-- R346-R354, R378, R436: the walk from a table of a level downwards; an entry that cannot be read ends it, and the tests of
each level follow in the order V, reserved bits, scrub pending, permission. -/
def State.walkFrom (s : State) (sp : Space) (va : Nat) (a : Access) : Nat → Nat → State × Except Nat Tr
  | 0, _ => (s, .error 1)
  | level + 1, table =>
    let lv := level + 1
    let pa := table + 8 * levelIdx va lv
    if s.scrubPending table 4096 then (s, .error 0x30)
    else if !s.inPartDram sp.part table 4096 then (s, .error 1)
    else if s.badPhys pa 8 then (s, .error 0x50)
    else
      let e := BitVec.ofNat 64 (s.physNat pa 8)
      if !Word.v e then (s, .error (0x10 + lv))
      else if reservedFault e lv then (s, .error (0x20 + lv))
      else if Word.leaf e then
        if Word.sp e || (Word.peer e == 0 && s.scrubPending (Word.addr e) (2 ^ leafLog lv)) then (s, .error 0x30)
        else if !s.leafOk sp e (leafLog lv) a then (s, .error 1)
        else
          let r := s.install sp va pa lv e a
          (r.1, .ok r.2)
      else if s.scrubPending (Word.addr e) 4096 then (s, .error 0x30)
      else if !s.inPartDram sp.part (Word.addr e) 4096 then (s, .error 1)
      else (s.addWalk ⟨sp.die, ctlOf va, sp.asid, lv, walkTag va lv, e, pa⟩).walkFrom sp va a level (Word.addr e)

/-- R366: a peer leaf names a package the domain reaches. -/
def State.peerOk (s : State) (p : Nat) : Bool :=
  (s.hreg .peer 0).getLsbD 8 &&
    (let e := s.hreg .peer (8 * p)
     e.getLsbD 63 && (List.range 12).any (fun j => e.getLsbD j && !s.peerDown.contains j))

/-! ### Hits in L1s and slices (R344, R345, R375) -/

/-- The copy a core holds of the line of an address. -/
def State.l1Line? (s : State) (core asid va : Nat) : Option L1Line :=
  s.l1.find? (fun x => x.core == core && x.asid == asid && x.va == va / 64 * 64)

/-- The line of an address in the slices of a die. -/
def State.sliceLine? (s : State) (die asid va : Nat) : Option SliceLine :=
  s.slices.find? (fun x => x.die == die && x.asid == asid && x.va == va / 64 * 64)

/-- R344: a lookup in the core's L1 and then in the requesting die's slices. -/
def State.lookLine (s : State) (sp : Space) (va : Nat) : Option (Word × Nat × Level) :=
  ((sp.core.bind (fun k => s.l1Line? k sp.asid va)).map (fun x => (x.leaf, x.pa, Level.l1))).or
    ((s.sliceLine? sp.die sp.asid va).map (fun x => (x.leaf, x.pa, Level.slice)))

/-- R283, R344: the lines that L1s and slices have replaced since the last step are gone (log entry 73). -/
def State.evict (s : State) : State :=
  { s with l1 := s.l1.filter (fun x => !Config.evicted s.nonce ((x.core * 2 ^ 12 + x.asid) * 2 ^ 64 + x.va))
           slices := s.slices.filter (fun x => !Config.evicted s.nonce (((1024 + x.die) * 2 ^ 12 + x.asid) * 2 ^ 64 + x.va)) }

/-- R349, R350: a write through a leaf whose D is 0 is translated again. -/
def rewalks (e : Word) (a : Access) : Bool := a == .write && Word.w e && !Word.dirty e

/-- R351: the entry covers the 16 pages of a contiguous group. -/
def TlbEntry.merged (t : TlbEntry) : Bool := t.sizeLog == 16 || t.sizeLog == 25 || t.sizeLog == 34

/-- log2 of the size of a page of an entry. -/
def TlbEntry.pageLog (t : TlbEntry) : Nat := if t.merged then t.sizeLog - 4 else t.sizeLog

/-- The leaf a TLB entry gives for an address, with the frame and the D bit of its page. -/
def TlbEntry.leafAt (t : TlbEntry) (va : Nat) : Word :=
  let j := va / 2 ^ t.pageLog % 16
  if t.merged then
    (t.leaf &&& ~~~(0x0000FFFFFFFFF400 : Word)) ||| BitVec.ofNat 64 (Word.addr t.leaf + j * 2 ^ t.pageLog) |||
      (if t.ds.getLsbD j then 0x400 else 0)
  else t.leaf

/-- The key of a shared counter: kind, die, unit, event and partition; 4 stands for a requester that is of no partition. -/
def sharedKey (kind die unit event part : Nat) : Nat := (((kind * 8 + die) * 32 + unit) * 4 + event) * 5 + part

def State.bump (s : State) (kind die unit event part amount : Nat) : State :=
  let k := sharedKey kind die unit event part
  { s with shared := Cells.set 0 s.shared k (Cells.get 0 s.shared k + amount) }

/-- R424: a unit serves or carries a request of n bytes. -/
def State.countAt (s : State) (kind die unit part n : Nat) : State := (s.bump kind die unit 0 part 1).bump kind die unit 2 part n

/-- R344, R350-R352: translation by the TLB, or by a walk from the deepest level that the walk cache supplies; of a contiguous group only the
entry of the address is tested. -/
def State.viaTlb (s : State) (sp : Space) (n : Nat) (a : Access) (root : Nat) : State × Except Nat Tr :=
  match s.tlbHit sp n with
  | some t =>
    let e := t.leafAt n
    if rewalks e a then ({ s with tlb := s.tlb.filter (fun x => x != t) } : State).walkFrom sp n a 5 root
    else if !s.leafOk sp e t.pageLog a then (s, .error 1)
    else (s, .ok (trOf e (Word.addr t.leaf) n t.sizeLog .beyond))
  | none =>
    let s := if sp.die < 8 then s.bump 4 sp.die (ctlOf n) 3 sp.part 1 else s
    match s.walkHit sp n with
    | some w => s.walkFrom sp n a (w.level - 1) (Word.addr w.entry)
    | none => s.walkFrom sp n a 5 root

/-- R366: an access of a peer's page needs a way to that peer. -/
def State.peerChecked (s : State) (r : State × Except Nat Tr) : State × Except Nat Tr :=
  match r.2 with
  | .ok t => if t.peer != 0 && !s.peerOk t.peer then (r.1, .error 0x40) else r
  | .error _ => r

/-- R344, R345, R375: a line that a home slice on another die holds is checked as a hit. -/
def State.homeChecked (sp : Space) (va : Nat) (a : Access) (r : State × Except Nat Tr) : State × Except Nat Tr :=
  match r.2 with
  | .ok t =>
    if t.peer != 0 || !inDram t.pa || homeDie t.pa == sp.die then r
    else
      match r.1.sliceLine? (homeDie t.pa) sp.asid va with
      | some x => if keyOk sp.slot x.leaf && permits x.leaf a then r else (r.1, .error 1)
      | none => r
  | .error _ => r

/-- R342-R355, R366, R375: translation of one address; an error is the subcode of the MEMF. A hit in the L1 or in a slice is
checked as a translation would be. -/
def State.translate (s : State) (sp : Space) (va : Word) (a : Access) : State × Except Nat Tr :=
  if !canonical va then (s, .error 1)
  else if !s.meterOk sp.asid va.toNat a then (s, .error 1)
  else
    let ent := (s.hreg .xlat 0).toNat + 8 * sp.asid
    let root := s.physNat ent 8
    if s.badPhys ent 8 then (s, .error 0x50)
    else if !bit root 0 || bits root 11 1 != 0 || bits root 63 48 != 0 then (s, .error 1)
    else
      let miss := s.peerChecked (State.homeChecked sp va.toNat a (s.viaTlb sp (va.toNat % 2 ^ 57) a (bits root 47 12 * 2 ^ 12)))
      match s.lookLine sp va.toNat with
      | some (e, pa, lv) =>
        if !(keyOk sp.slot e && permits e a) then (s, .error 1)
        else if rewalks e a then miss
        else s.peerChecked (s, .ok (trOf e pa va.toNat 6 lv))
      | none => miss

end Sys2Proof.Machine
end

