-- ==== Sys2Proof/Machine/Home.lean ====
section
/-! DEFINITION. What a translated location is served by (R177, R282-R291, R343-R349, R361-R369): live queues, the lines of slices and
L1s, the register window, the memories of peers, read-mostly pages, and reading and writing at the home of a location. -/

namespace Sys2Proof.Machine

/-! ### Live queues (R177, R180) -/

/-- The physical place of a byte of a live queue's header or entry area. -/
def Queue.place (q : Queue) (ofs : Nat) : Nat × Nat :=
  let fr := q.frames.getD ((q.va % 4096 + ofs) / 4096) (0, 0)
  (fr.1 + (q.va + ofs) % 4096, fr.2)

def State.queueWord (s : State) (q : Queue) (ofs : Nat) : Nat := leNat (s.readPhys (q.place ofs).2 (q.place ofs).1 8)

def State.setQueueWord (s : State) (q : Queue) (ofs x : Nat) : State :=
  s.writePhys (q.place ofs).2 (q.place ofs).1 (leBytes 8 x)

/-- The entries between HEAD and TAIL. -/
def State.queueCount (s : State) (q : Queue) : Nat := (s.queueWord q 0x10 + 2 ^ 64 - s.queueWord q 8) % 2 ^ 64

/-- The live queue at a header. -/
def State.queueAt (s : State) (c : Loc) : Option Queue := s.queues.find? (fun q => q.asid == c.asid && q.va == c.va)

/-- R177: the access touches a line of a live queue. -/
def Queue.covers (q : Queue) (asid va n : Nat) : Bool :=
  q.asid == asid && decide (va < q.va + 64 + 8 * q.cap) && decide (q.va / 64 * 64 < va + n)

def State.queueLine (s : State) (asid va n : Nat) : Bool := s.queues.any (fun q => q.covers asid va n)

/-- R184: the place of a release fence among the accesses on their way. -/
def HomeFn.isMark : HomeFn → Bool
  | .mark => true
  | _ => false

/-- R180: an operation of a .wait queue word, which its home may keep waiting. -/
def HomeFn.waits : HomeFn → Bool
  | .enq _ w _ => w
  | .deq _ w _ => w
  | _ => false

/-- R180: a participant of a .wait word that its queue cannot serve now. -/
def State.mustWait (s : State) (p : HomeOp) : Bool :=
  match s.queueAt p.loc, p.fn with
  | some q, .enq _ w _ => w && decide (q.cap ≤ s.queueCount q)
  | some q, .deq _ w _ => w && s.queueCount q == 0
  | _, _ => false

/-- R169, R180: a queue operation that its queue keeps waiting. -/
def State.queueWaits (s : State) (p : HomeOp) : Bool := p.fn.waits && s.mustWait p

/-! ### Slices (R344, R364, R367-R369) -/

/-- R344: the index of the slice of an address; bits above 56 read as zero. -/
def sliceOf (va : Nat) : Nat := (List.range 11).foldl (fun h j => h ^^^ bits (va % 2 ^ 57) (5 * j + 10) (5 * j + 6)) 0

/-- R177, R285: the home slice of an address: for a line of a live queue, that of its header. -/
def State.homeSlice (s : State) (asid va : Nat) : Nat :=
  sliceOf (((s.queues.find? (fun q => q.covers asid va 1)).map Queue.va).getD va)

/-- R367, R368: the ways in which a die's slices may allocate for an index: those of its mask, and while a change is in
progress those of both. -/
def State.waysFor (s : State) (die index : Nat) : List Nat :=
  let m := (s.hreg .xlat (0x4000 + 0x40 * die + 8 * index)).toNat
  (List.range 16).filter (fun w => bit m w && s.wayChanges.all (fun c => !(c.1 == die && c.2.1 == index) || bit c.2.2 w))

/-- R345, R367: a slice of a die holds the line of a location, in a way that is free among those allowed; a line it holds already
takes the leaf of the latest translation. -/
def State.addSlice (s : State) (die index : Nat) (c : Loc) (replica : Bool) : State :=
  match s.sliceLine? die c.asid c.va with
  | some x => { s with slices := s.slices.map (fun y => if y = x then { y with leaf := c.leaf, pa := c.pa / 64 * 64 } else y) }
  | none =>
    let ws := s.waysFor die index
    let w := ws.getD (Config.way s.nonce (c.va / 64) % ws.length) 0
    if ws = [] then s
    else { s with slices := s.slices ++ [⟨die, w, index, c.asid, c.va / 64 * 64, c.pa / 64 * 64, c.leaf, replica⟩] }

/-- Lines that p selects leave the slices; their words are those registered in mem. -/
def State.dropSlices (s : State) (p : SliceLine → Bool) : State := { s with slices := s.slices.filter (fun x => !p x) }

/-! ### The register window and peers (R343, R366, R405) -/

/-- R343, R353, R361, R367: what the register window holds for a launch: the translation block, and otherwise a free value. -/
def State.windowByte (s : State) (pa : Nat) : Byte :=
  let off := pa % 2 ^ 24
  let d := (off - 0x3000) / 8
  if 0x5000 ≤ off then (leBytes 8 (Config.windowRead s.nonce (pa / 8)).toNat).getD (pa % 8) 0
  else if 0x3000 ≤ off && d < 8 then (leBytes 8 (s.fuses.adjacency d).toNat).getD (off % 8) 0
  else (leBytes 8 (s.hreg .xlat (off / 8 * 8)).toNat).getD (off % 8) 0

/-- The key of a byte of a peer's memory. -/
def peerKey (peer pa : Nat) : Nat := 2 ^ 48 * peer + pa

/-- R290: a byte of a peer's memory as last seen. -/
def State.peerByte (s : State) (peer pa : Nat) : Byte := BitVec.ofNat 8 (Cells.get 0 s.peerMem (peerKey peer pa) - 1)

/-- R290: what the peer itself has done to the n bytes at an address since they were last seen. -/
def State.peerTouch (s : State) (peer pa n : Nat) : State :=
  let see (m : Cells Nat) (k : Nat) : Cells Nat :=
    if Cells.get 0 m k = 0 || Config.peerWrote s.nonce k then Cells.set 0 m k ((Config.peerByte s.nonce k).toNat + 1) else m
  { s with peerMem := (List.range n).foldl (fun m j => see m (peerKey peer (pa + j))) s.peerMem }

/-- The bytes of a peer's memory as this package writes them. -/
def State.setPeer (s : State) (peer pa : Nat) (bs : List Byte) : State :=
  { s with peerMem := bs.zipIdx.foldl (fun m (b : Byte × Nat) => Cells.set 0 m (peerKey peer (pa + b.2)) (b.1.toNat + 1)) s.peerMem }

/-- R405, R407: the links of a peer entry that are up, and the one that a line's requests take (log entry 16). -/
def State.peerLinks (s : State) (p : Nat) : List Nat :=
  let e := s.hreg .peer (8 * p)
  (List.range 12).filter (fun j => e.getLsbD j && !s.peerDown.contains j)

def State.peerRoute (s : State) (p pa : Nat) : Nat :=
  let ls := s.peerLinks p
  ls.getD (pa / 64 % ls.length) 0

/-- R405: a request goes toward the package that a peer index names. -/
def State.sendPeer (s : State) (peer pa n : Nat) (fn : PeerFn) : State :=
  let req : PeerReq := ⟨field (s.hreg .peer 0) 4 0, field (s.hreg .peer (8 * peer)) 20 16, 0, pa, n, fn⟩
  { s with out := s.out ++ [.peerSend (s.peerRoute peer pa) req] }

/-- R290, R405: a read that goes to its home asks a peer for the bytes. -/
def State.askHome (s : State) (c : Loc) (n : Nat) : State := if c.peer = 0 then s else s.sendPeer c.peer c.pa n .read

/-! ### Reading and writing at home (R285, R290) -/

/-- The bytes registered at the home of a location. -/
def State.homeBytes (s : State) (c : Loc) (n : Nat) : List Byte :=
  if c.peer != 0 then (List.range n).map (fun j => s.peerByte c.peer (c.pa + j))
  else if inWindow c.pa then (List.range n).map (fun j => s.windowByte (c.pa + j))
  else s.readPhys c.key c.pa n

/-- R343, R353: the register write that a store to the window's translation block makes, of the register's whole word. -/
def State.windowWrite (s : State) (pa : Nat) (bs : List Byte) : State :=
  let off := pa % 2 ^ 24
  if 0x5000 ≤ off then s
  else
    let old := (List.range 8).map (fun j => s.windowByte (pa / 8 * 8 + j))
    let new := old.take (pa % 8) ++ bs ++ old.drop (pa % 8 + bs.length)
    { s with inbox := s.inbox ++ [.registerWrite .window .xlat (off / 8 * 8) (BitVec.ofNat 64 (leNat (new.take 8)))] }

/-- Bytes written at the home of a location: to memory, to a peer's, or to the register window. -/
def State.writeHome (s : State) (c : Loc) (bs : List Byte) : State :=
  if c.peer != 0 then (s.setPeer c.peer c.pa bs).sendPeer c.peer c.pa bs.length (.write bs)
  else if inWindow c.pa then s.windowWrite c.pa bs
  else s.writePhys c.key c.pa bs

/-! ### L1 copies (R283) -/

/-- R349: a line that an L1 may hold: not device or L1-uncached, and no line of a live queue (R177). -/
def State.cacheable (s : State) (c : Loc) : Bool := c.mt == 0 && !s.queueLine c.asid (c.va / 64 * 64) 64

/-- A line is installed in an L1, or its copy refreshed, from its home. -/
def State.install1 (s : State) (core : Nat) (c : Loc) : State :=
  if !s.cacheable c then s
  else
    let x : L1Line := ⟨core, c.asid, c.va / 64 * 64, c.pa / 64 * 64, c.leaf, s.homeBytes { c with pa := c.pa / 64 * 64 } 64⟩
    { s with l1 := s.l1.filter (fun y => !(y.core == core && y.asid == c.asid && y.va == x.va)) ++ [x] }

/-- R278: an L1's copy of a line whose home has been read is no older than what was read. -/
def State.refresh1 (s : State) (core : Nat) (c : Loc) : State :=
  if (s.l1Line? core c.asid c.va).isSome then s.install1 core c else s

/-- R283: an acquire discards every unowned word of the core's L1. -/
def State.acquire (s : State) (core : Nat) : State := { s with l1 := s.l1.filter (fun x => x.core != core) }

/-! ### Read-mostly pages (R289, R364, R365) -/

def Replica.covers (r : Replica) (asid va : Nat) : Bool :=
  r.asid == asid && decide (r.base ≤ va) && decide (va < r.base + 2 ^ r.sizeLog)

/-- The directory entry that covers an address of a read-mostly page. -/
def State.replica? (s : State) (asid va : Nat) : Option Replica := s.replicas.find? (fun r => r.covers asid va)

def Replica.start (r : Replica) : Replica := if r.collapse then r else { r with collapse := true, acks := r.dies }

/-- R289, R365: the replicas of the pages that a write reaches begin to collapse. -/
def State.collapseAt (s : State) (asid va : Nat) : State :=
  { s with replicas := s.replicas.map (fun r => if r.covers asid va then r.start else r) }

/-- R365: a die invalidates every replica line of an entry's page. -/
def State.dropReplica (s : State) (r : Replica) (die : Nat) : State :=
  s.dropSlices (fun x => x.replica && x.die == die && r.covers x.asid x.va)

/-- R289: a physical write of the host or of a peer first collapses every replica of the pages it reaches. -/
def State.collapsePhys (s : State) (pa n : Nat) : State :=
  let hit (r : Replica) : Bool := decide (pa < Replica.pa r + 2 ^ r.sizeLog) && decide (Replica.pa r < pa + n)
  let s := (s.replicas.filter hit).foldl (fun s r => (List.range 8).foldl (fun s d => s.dropReplica r d) s) s
  { s with replicas := s.replicas.filter (fun r => !hit r) }

/-- R177, R289: a range of an address space that a write on its way reaches, or in which lines of a live queue lie: its page takes no
replicas. -/
def State.written (s : State) (asid a n : Nat) : Bool :=
  s.queues.any (fun q => q.asid == asid && decide (a < q.va + 64 + 8 * q.cap) && decide (q.va < a + n)) ||
    s.homeOps.any (fun p => !p.fn.isMark && p.loc.asid == asid && decide (a < p.loc.va + p.n) && decide (p.loc.va < a + n))

/-- R289, R364: a read of a read-mostly page from another die than its home, that its slice does not serve, adds the die to the page's
entry; a full directory serves the read without replication and starts the collapse of the entry added least recently. The
result says whether the line becomes a replica. -/
def State.replicate (s : State) (die : Nat) (c : Loc) (t : Tr) : State × Bool :=
  if !t.rm || c.mt = 2 || t.found != .beyond || !inDram c.pa || die = homeDie c.pa || die = 8 ||
      s.written c.asid (c.va / 2 ^ t.sizeLog * 2 ^ t.sizeLog) (2 ^ t.sizeLog) then (s, false)
  else
    match s.replica? c.asid c.va with
    | some r =>
      if r.collapse then (s, false)
      else if r.dies.contains die then (s, true)
      else ({ s with replicas := s.replicas.map (fun y => if y.id = r.id then { y with dies := y.dies ++ [die] } else y) }, true)
    | none =>
      let home := homeDie c.pa
      let mine := s.replicas.filter (fun r => r.home == home)
      let off := c.va % 2 ^ t.sizeLog
      if mine.length < 1024 then
        ({ s with nextId := s.nextId + 1
                  replicas := s.replicas ++ [⟨s.nextId, home, c.asid, c.va - off, c.pa - off, t.sizeLog, [die], false, []⟩] }, true)
      else ({ s with replicas := s.replicas.map (fun y => if mine.head? = some y then y.start else y) }, false)

/-- R344, R364: what an access that neither the L1 nor a slice of its die serves leaves in the slices: the line at its home, and
a replica where its page is read-mostly. -/
def State.fill (s : State) (sp : Space) (a : Access) (c : Loc) (t : Tr) : State :=
  if t.found != .beyond || !inDram c.pa || c.peer != 0 || c.mt = 2 then s
  else
    let r := if a == .write then (s, false) else s.replicate sp.die c t
    let s := r.1.addSlice (homeDie c.pa) sp.part c false
    if r.2 then s.addSlice sp.die sp.part c true else s

/-! ### Reaching a location (R168, R354) -/

/-- What check 4 adds to translation: a peer that refuses (R366), a poisoned line that is read (R436), a die in reset
(R439), and, for other words than queue words, the lines of a live queue that must not be written (R177). -/
def State.locError (s : State) (c : Loc) (n : Nat) (rd wr queueWord : Bool) : Option Nat :=
  if c.peer != 0 then (if Config.peerRefuses s.nonce c.pa then some 0x40 else none)
  else if s.dieDown c.pa || (rd && s.poisonedAt c.pa n) then some 0x50
  else if wr && !queueWord && s.queueLine c.asid c.va n then some 1
  else none

/-- One participant's translation; an agent without an L1 reads at the home at once. -/
def State.reach1 (s : State) (sp : Space) (a : Access) (rd queueWord : Bool) (n : Nat) (va : Word) : State × Except Nat (Loc × Tr) :=
  match s.translate sp va a with
  | (s, .error e) => (s, .error e)
  | (s, .ok t) =>
    let c : Loc := ⟨sp.asid, va.toNat, t.pa, t.key, t.mt, t.peer, t.leaf⟩
    match s.locError c n rd (a == .write) queueWord with
    | some e => (s, .error e)
    | none =>
      let s := if c.peer != 0 then s.peerTouch c.peer (c.pa / 64 * 64) 64 else s
      let s := if sp.core.isNone && a != .write then s.askHome c n else s
      (s.fill sp a c t, .ok (c, t))

/-- R168 check 4: every participant is translated before any accesses memory. -/
def State.reach (sp : Space) (a : Access) (rd queueWord : Bool) (n : Nat) :
    State → List (Nat × Word) → State × List ((Nat × Word) × Except Nat (Loc × Tr))
  | s, [] => (s, [])
  | s, p :: ps =>
    let r := s.reach1 sp a rd queueWord n p.2
    let q := State.reach sp a rd queueWord n r.1 ps
    (q.1, (p, r.2) :: q.2)

/-- Translated bytes written at once, each 8-byte piece through its own translation (R420); the replicas of a page it writes collapse first
(R289). -/
def State.storeWords (s : State) (sp : Space) (va : Word) (ws : List Word) : Option State :=
  ws.zipIdx.foldlM (fun s (x : Word × Nat) =>
    match s.reach1 sp .write false false 8 (va + BitVec.ofNat 64 (8 * x.2)) with
    | (s, .ok (c, _)) => some ((if c.peer = 0 then s.collapsePhys c.pa 8 else s).writeHome c (leBytes 8 x.1.toNat))
    | (_, .error _) => none) s

end Sys2Proof.Machine
end

