-- ==== Sys2Proof/Machine/Ops.lean ====
section
/-! DEFINITION. The named operations every meaning is written with: register cells and results in flight (R30-R34),
timelines (R324-R326), fault and trace records (R333, R419), alarms (R447), ending a team (R250, R333), TAKING A TRAP and
returning from one (R250, R251), and issuing a word with the checks and waits of R14, R32, R33, R38 and R39. -/

namespace Sys2Proof.Machine

/-! ### Register cells -/

/-- A register cell as it stands in the file (R82); p0 reads true. -/
def Group.raw (g : Group) : Key → Word
  | .v n l => (Cells.get 0 g.v (64 * n + l)).setWidth 64
  | .s n => Cells.get 0 g.s n
  | .p n l => if n = 0 then 1 else if (Cells.get 0 g.p n).getLsbD l then 1 else 0

/-- Writing one register cell; a write to p0 has no place to go. -/
def Group.write (g : Group) (k : Key) (x : Word) : Group :=
  match k with
  | .v n l => { g with v := Cells.set 0 g.v (64 * n + l) (x.setWidth 32) }
  | .s n => { g with s := Cells.set 0 g.s n x }
  | .p n l =>
    let m := Cells.get 0 g.p n
    { g with p := if n = 0 then g.p else Cells.set 0 g.p n (if x = 0 then m &&& ~~~(laneBit l) else m ||| laneBit l) }

def Group.writes (g : Group) (ws : List RegWrite) : Group := ws.foldl (fun g w => g.write w.key w.val) g

/-- A number for a register cell, to tell the free values of R31 apart. -/
def Key.code : Key → Nat
  | .v n l => 64 * n + l
  | .s n => 0x10000 + n
  | .p n l => 0x20000 + 64 * n + l

/-- The value a flight writes to a cell, if it writes it. -/
def Flight.find (f : Flight) (k : Key) : Option Word := (f.writes.find? (fun w => w.key == k)).map RegWrite.val

/-- R31: what a read of a cell returns at a cycle: every result that is ready, and of one that is not yet ready either
the value before it or its own, each result in flight by a choice of its own: its place n among them. -/
def readFlights (now nonce : Nat) (k : Key) : Nat → List Flight → Word → Word
  | _, [], cur => cur
  | n, f :: rest, cur =>
    readFlights now nonce k (n + 1) rest
      (match f.find k with
       | none => cur
       | some x => if f.ready ≤ now then x else if Config.early nonce (k.code + 0x40000 * n) then x else cur)

/-- R31: what a read of a cell of a group returns. -/
def Group.read (g : Group) (now nonce : Nat) (k : Key) : Word := readFlights now nonce k 0 g.flights (g.raw k)

/-- R31, R217: the scan configuration as a word reads it. -/
def Group.scanCfg (g : Group) (now nonce : Nat) : Option ScanCfg :=
  g.flights.zipIdx.foldl (fun cur f =>
    match f.1.cfg with
    | none => cur
    | some x => if f.1.ready ≤ now then some x else if Config.early nonce (0x30000 + 0x40000 * f.2) then some x else cur) g.scfg

/-- R74: flags set by OR. -/
def Group.orFlags (g : Group) (f : BitVec 6) : Group := { g with flags := g.flags ||| f }

/-- One result in flight is written, with its flags (R31, R75). -/
def Group.land (g : Group) (f : Flight) : Group :=
  let h := (g.writes f.writes).orFlags f.flags
  { h with scfg := f.cfg.or h.scfg }

/-- R34: every fixed-latency result the group has issued is written. -/
def Group.settle (g : Group) : Group :=
  let h := g.flights.foldl Group.land g
  { h with flights := [] }

/-- R30, R31: the results in issue order that are ready are written; the first that is not holds the later ones in the
list, from which reads still see them. One in flight to a register of a lane that has exited since is written all the same (DESIGN CHOICE, log
entry 71). -/
def Group.landReady (g : Group) (now : Nat) : Group :=
  match g.flights with
  | [] => g
  | f :: rest =>
    if f.ready ≤ now then
      let h := g.land f
      { h with flights := rest }
    else g

/-- A result of fixed latency starts on its way. -/
def Group.launchFlight (g : Group) (f : Flight) : Group := { g with flights := g.flights ++ [f] }

/-- R32: the registers of a variable-latency result. -/
def PendReg.hits (r : PendReg) (x : Ref) : Bool :=
  match r, x with
  | .v n _, .v m cnt => decide (m ≤ n) && decide (n < m + cnt)
  | .v n _, .img m cnt => decide (m ≤ n) && decide (n < m + cnt)
  | .s n, .s m => n == m
  | .p n, .p m => n == m
  | _, _ => false

/-- R32: some register the word names is pending. -/
def Group.interlocked (g : Group) (refs : List Ref) : Bool :=
  g.pend.any (fun p => p.regs.any (fun r => refs.any (fun x => r.hits x)))

/-- The pending marks that a destination makes for a set of lanes. -/
def pendRegs (lanes : Lanes) : Ref → List PendReg
  | .v n cnt => (List.range cnt).map (fun j => .v (n + j) lanes)
  | .img n cnt => (List.range cnt).map (fun j => .v (n + j) lanes)
  | .s n => [.s n]
  | .p n => [.p n]

/-- A variable-latency result is written and its marks clear (R32, R169); an older fixed-latency result of the same cell
no longer lands on it. A predicate still pending when its lane has exited is written all the same (log entry 71). -/
def Group.finishPend (g : Group) (p : Pend) : Group :=
  let clear (f : Flight) : Flight :=
    { f with writes := f.writes.filter (fun w => !(p.writes.any (fun v => v.key == w.key))) }
  let h : Group := { g with pend := g.pend.filter (fun q => q.id != p.id), flights := g.flights.map clear }
  (h.writes p.writes).orFlags p.flags

/-- R33: the ready cycle of a register has not come. Of a register with several fixed-latency results in flight it is the latest: an older one
that is not ready counts beside a younger one that is (DESIGN CHOICE, log entry 10). -/
def Group.early (g : Group) (now : Nat) (x : Ref) : Bool :=
  g.flights.any (fun f => decide (now < f.ready) && f.writes.any (fun w =>
    match x, w.key with
    | .v n cnt, .v m _ => decide (n ≤ m) && decide (m < n + cnt)
    | .img n cnt, .v m _ => decide (n ≤ m) && decide (m < n + cnt)
    | .s n, .s m => n == m
    | .p n, .p m _ => n == m
    | _, _ => false))

/-! ### Timelines (R197, R324-R326) -/

/-- R326, R387: a raise of a completion or signal timeline is mirrored and announced; a function has 2,048 vectors. -/
def State.announce (s : State) (c : Ctx) (i : Nat) (v : Word) : State :=
  let s := if c.mirr = 0 then s else { s with hostMem := hostWrite s.hostMem (c.mirr + 8 * i) (leBytes 8 v.toNat) }
  if c.mse && decide (c.vec < 2048) then { s with out := s.out ++ [.msix c.part c.vec] } else s

/-- R332, R252: timeline := Max(timeline, v). -/
def State.raise (s : State) (h i : Nat) (v : Word) : State :=
  match s.ctx? h with
  | none => s
  | some c =>
    let v' := if (c.tls.getD i 0).toNat < v.toNat then v else c.tls.getD i 0
    (s.modCtx h (fun c => { c with tls := c.tls.set i v' })).announce c i v'

/-- The value of a timeline. -/
def State.timeline (s : State) (h i : Nat) : Word := ((s.ctx? h).map (fun c => c.tls.getD i 0)).getD 0

/-- R214, R324: the next number of an engine timeline. -/
def State.nextNumber (s : State) (h i : Nat) : Word := ((s.ctx? h).map (fun c => c.nextNo.getD i 0)).getD 0

def State.takeNumber (s : State) (h i : Nat) : State :=
  s.modCtx h (fun c => { c with nextNo := c.nextNo.set i (c.nextNo.getD i 0 + 1) })

/-- The engine timeline passes every consecutive number that is complete. -/
def advanceTl : Nat → Word → List (Nat × Word) → Nat → Word × List (Nat × Word)
  | 0, v, done, _ => (v, done)
  | fuel + 1, v, done, i =>
    if done.contains (i, v + 1) then advanceTl fuel (v + 1) (done.filter (fun d => d != (i, v + 1))) i else (v, done)

/-- R75: the flags of engine operations that a timeline covers. -/
def Group.shownFlags (g : Group) (i : Nat) (tl : Word) : Group :=
  let seen (e : Nat × Word × BitVec 6) : Bool := e.1 == i && decide (e.2.1.toNat ≤ tl.toNat)
  { (g.eflags.filter seen).foldl (fun g e => g.orFlags e.2.2) g with eflags := g.eflags.filter (fun e => !seen e) }

/-- R75: the groups of a context's launches see the flags their timeline now covers. -/
def State.showFlags (s : State) (h i : Nat) : State :=
  let mine (t : Team) : Bool := s.launches.any (fun l => l.seq == t.seq && l.r.ctx == h)
  { s with teams := s.teams.map (fun t =>
      if mine t then { t with groups := t.groups.map (fun g => g.shownFlags i (s.timeline h i)) } else t) }

/-- R75: flags of operation number n of an engine, for a group: visible once the timeline covers the number. -/
def State.engineFlags (s : State) (tid gi i : Nat) (n : Word) (f : BitVec 6) : State :=
  s.modGroup tid gi (fun g => { g with eflags := g.eflags ++ [(i, n, f)] })

/-- R214: operation number n of an engine timeline is complete; the timeline reaches it once every lower one is. -/
def State.completeNumber (s : State) (h i : Nat) (n : Word) : State :=
  (s.modCtx h (fun c =>
    let r := advanceTl (c.done.length + 1) (c.tls.getD i 0) ((i, n) :: c.done) i
    { c with tls := c.tls.set i r.1, done := r.2 })).showFlags h i

/-! ### Records -/

/-- The bytes of a list of 64-bit words. -/
def wordsBytes (ws : List Word) : List Byte := (ws.map (fun w => leBytes 8 w.toNat)).flatten

/-- R328, R333: a record of the context fault queue; with an invalid CTX, of the stream's lowest-numbered context. -/
def State.postFault (s : State) (l : Launch) (grp team span stat cause sub : Nat) (tpc tval : Word) : State :=
  let h :=
    match s.ctx? l.r.ctx with
    | some c => if c.signal || c.stream != l.stream then none else some c
    | none => none
  let mine := s.ctxs.filter (fun c => c.stream == l.stream)
  match h.or (mine.find? (fun c => mine.all (fun k => decide (c.handle ≤ k.handle)))) with
  | none => s
  | some c =>
    let w2 := BitVec.ofNat 64 (grp * 2 ^ 56 + team * 2 ^ 48 + span * 2 ^ 32 + sub * 2 ^ 16 + cause * 2 ^ 8 + stat)
    let ws : List Word :=
      [l.lpc, BitVec.ofNat 64 l.seq, w2, tpc, tval, BitVec.ofNat 64 s.clock, 0, BitVec.ofNat 64 c.posted]
    (s.writePhys 0 (c.fqb + 64 * (c.posted % 2 ^ c.fqn)) (wordsBytes ws)).modCtx c.handle (fun c => { c with posted := c.posted + 1 })

/-- R408, R410: the debug block attached to a launch, if its attachment is in effect. -/
def State.dbgOf (s : State) (l : Launch) : Option Dbg :=
  match s.dbg[l.part]? with
  | some d => if d.att && d.seq == l.seq then some d else none
  | none => none

def State.dbgReg (s : State) (p off : Nat) : Word := s.hreg .debug (0x400 * p + off)

/-- The launch that a partition's debug block is attached to. -/
def State.attachedTo (s : State) (p : Nat) : Option Launch := (s.dbg[p]?).bind (fun d => if d.att then s.launch? d.seq else none)

/-- R408: the permission of a partition's debug block; code 3 acts as 0. -/
def State.dbgPerm (s : State) (p : Nat) : Nat :=
  let x := field (s.dbgReg p 0) 1 0
  if x = 3 then 0 else x

/-- R423: a core event of a team of an attached launch, counted by each counter of its core that selects the event. -/
def State.tally (s : State) (t : Team) (event amount : Nat) : State :=
  if s.dbg.all (fun d => !d.att) then s
  else
    match s.launch? t.seq with
    | none => s
    | some l =>
      if (s.dbgOf l).isNone || s.dbgPerm l.part = 0 then s
      else
        let core := 64 * t.die + t.core
        s.modDbg l.part (fun d =>
          { d with coreCounts := (List.range 8).foldl (fun m i =>
              if field (s.dbgReg l.part (0x180 + 8 * i)) 7 0 = event then
                Cells.set 0 m (8 * core + i) (Cells.get 0 m (8 * core + i) + amount)
              else m) d.coreCounts })

/-- R256: the slices of four lanes that a word of a fragment costs. -/
def slicesOf (mask : Lanes) : Nat := ((List.range 16).filter (fun k => field mask (4 * k + 3) (4 * k) != 0)).length

/-- R256, R423: the counts of one issued word; a uniform word costs no slice. -/
def State.tallyWord (s : State) (t : Team) (f : Frag) (act : Lanes) (perLane : Bool) : State :=
  if perLane then
    ((s.tally t 2 1).tally t 3 (slicesOf f.mask)).tally t 4 (slicesOf f.mask - slicesOf (f.mask &&& act))
  else s.tally t 2 1

/-- R256: the pipe-cycles that a per-lane word of a fragment takes. -/
def pipeCycles (mask : Lanes) : Nat := (slicesOf mask + 7) / 8

/-- R256: how long a fragment's word keeps its group off the vector pipes. -/
def holdOf (i : Instr) (W : Nat) (mask : Lanes) : Nat := if i.perLane W then pipeCycles mask else 0

/-- R255: the key of a core's vector pipes 0 and 1 and of its scalar unit, 2. -/
def unitKey (t : Team) (u : Nat) : Nat := 4 * (64 * t.die + t.core) + u

/-- R255, R256: a unit of the team's core that is free for a word in this cycle. -/
def State.freeUnit (s : State) (t : Team) (perLane : Bool) : Option Nat :=
  (if perLane then [0, 1] else [2]).find? (fun u => decide (Cells.get 0 s.pipes (unitKey t u) ≤ s.clock))

/-- R255, R256: the first cycle, from the present one on, in which a word finds a free unit of its team's core. -/
def State.unitAt (s : State) (t : Team) (perLane : Bool) : Nat :=
  let at_ (u : Nat) : Nat := Cells.get 0 s.pipes (unitKey t u)
  max s.clock (if perLane then min (at_ 0) (at_ 1) else at_ 2)

/-- R255, R256: a group's word finds a unit: a free one of its core, and for a per-lane word no pipe that the group still holds. -/
def State.unitReady (s : State) (t : Team) (g : Group) (perLane : Bool) : Bool :=
  (s.freeUnit t perLane).isSome && !(perLane && decide (s.clock < g.pipeAt))

/-- R255, R256: a word takes a free unit: a per-lane word for Ceil(c / 8) cycles, a uniform word for one. -/
def State.occupy (s : State) (t : Team) (f : Frag) (perLane : Bool) : State :=
  match s.freeUnit t perLane with
  | some u => { s with pipes := Cells.set 0 s.pipes (unitKey t u) (s.clock + if perLane then pipeCycles f.mask else 1) }
  | none => s

/-- R255, R423: what an issued word costs its core. A word that a short hand stalled has issued before (R239). -/
def State.charge (s : State) (t : Team) (f : Frag) (act : Lanes) (perLane : Bool) : State :=
  if f.st != .ready then s else (s.occupy t f perLane).tallyWord t f act perLane

/-- R419, R420: a trace record of an attached launch. -/
def State.trace (s : State) (l : Launch) (die kind grp team span id : Nat) (pc val : Word) : State :=
  match s.dbgOf l with
  | none => s
  | some d =>
    let base := s.dbgReg l.part 0x140
    let n := field base 3 0
    if !(s.dbgReg l.part 0x148).getLsbD kind || n < 6 || n > 15 || s.dbgPerm l.part = 0 then s
    else
      let w2 := BitVec.ofNat 64 (kind * 2 ^ 56 + grp * 2 ^ 48 + team * 2 ^ 40 + span * 2 ^ 24 + id * 2 ^ 16)
      let ws : List Word := [l.lpc, BitVec.ofNat 64 l.seq, w2, BitVec.ofNat 64 s.clock, pc, val, 0, BitVec.ofNat 64 d.trpos]
      let va := BitVec.ofNat 64 (field base 63 12 * 2 ^ 12 + 64 * (d.trpos % 2 ^ n))
      match s.storeWords ⟨l.asid, l.part, l.slot, die, none⟩ va ws with
      | some s => s.modDbg l.part (fun d => { d with trpos := d.trpos + 1 })
      | none => s.modDbg l.part (fun d => { d with trdrop := d.trdrop + 1 })

/-- R446: a record of a partition's audit queue of 256. -/
def State.auditLog (s : State) (p kind path off : Nat) : State :=
  s.modSec (fun x =>
    let n := (x.audit.filter (fun a => a.part == p)).foldl (fun m a => max m (a.aqn + 1)) 0
    { x with audit := x.audit.filter (fun a => !(a.part == p && decide (a.aqn + 256 ≤ n))) ++ [⟨p, n, s.clock, kind, path, off⟩] })

/-- R447, R448: an event of the alarm log, and of the partition's audit queue when it names one. -/
def State.logAlarm (s : State) (src arg lvl : Nat) (part : Option Nat) : State :=
  let s := s.modSec (fun x => { x with log := x.log ++ [⟨s.clock, src, arg, lvl⟩], alarm := max x.alarm lvl })
  match part with
  | some p => s.auditLog p 2 0 src
  | none => s

/-- R169, R180: what a result still lacks is what the unserved participants of a .wait word will bring. -/
def State.pendWaits (s : State) (p : Pend) : Bool :=
  s.homeOps.any (fun q => q.pend == some p.id) && s.homeOps.all (fun q => q.pend != some p.id || s.queueWaits q)

/-- R34, R169: a result that a save or a trap does not wait for: that of an exchange, of a posted receive, or of a word that
waits at its queue. -/
def State.pendStands (s : State) (t : Team) (p : Pend) : Bool :=
  t.exchs.any (fun x => x.pend == some p.id) || s.recvs.any (fun r => r.pend == p.id) || s.pendWaits p

/-! ### Ending a team (R250, R333, R359) -/

/-- R242, R237: the space in which a launch's accesses from a die are translated. -/
def Launch.space (l : Launch) (die : Nat) : Space := ⟨l.asid, l.part, l.slot, die, none⟩

/-- R239, R450: how many times an exchange sends: shsign log2 k times, the others once. -/
def Exch.total (x : Exch) : Nat :=
  if x.kind != .sign then 1 else match x.k with | .z16 => 4 | .z32 => 5 | .z64 => 6

/-- R244: the ABORT words a party's port sends for the serials of an exchange whose words are not all sent. -/
def Exch.aborts (x : Exch) (now : Nat) : List StraitWord :=
  if x.rounds < x.total && x.fail.isNone then
    x.items.map (fun it => ⟨0, x.pair, x.stream, it.1, x.party, (0, 0, false), x.rounds + 1, [], true, false, now + 2160⟩)
  else []

/-- Words set out through the Strait. -/
def State.postWords (s : State) (ws : List StraitWord) : State :=
  { s with words := s.words ++ ws.zipIdx.map (fun w => { w.1 with id := s.nextId + w.2 }), nextId := s.nextId + ws.length }

/-- R423: a core adds the counts of an attached launch to the launch's totals and restarts from zero. -/
def State.foldCounts (s : State) (t : Team) : State :=
  match (s.launch? t.seq).bind (fun l => (s.dbgOf l).map (fun _ => l.part)) with
  | none => s
  | some p =>
    let k := 8 * (64 * t.die + t.core)
    s.modDbg p (fun d =>
      { d with counts := d.counts.zipIdx.map (fun c => c.1 + Cells.get 0 d.coreCounts (k + c.2)),
               coreCounts := Cells.drop (fun j => decide (k ≤ j) && decide (j < k + 8)) d.coreCounts })

/-- A core's place in the list of cores to scrub, once its last team has gone (R379). -/
def State.releaseCore (s : State) (t : Team) : State :=
  let slot := ((s.launch? t.seq).map Launch.slot).getD 0
  let s := s.foldCounts t
  if s.teams.any (fun x => x.id != t.id && x.die == t.die && x.core == t.core && (x.res == .resident || x.res == .stopping)) then s
  else s.modSec (fun x => { x with scrubCore := x.scrubCore ++ [(t.die, t.core, slot, s.clock + 10260)] })

/-- R239, R243: the numbers of an exchange that will never complete count as completed, so that the timelines pass them. The
Strait's is the rule for one that traps; the copy engine's, and both for one whose team ended, are the model's choice (log entry 24). -/
def State.passNumbers (s : State) (h : Nat) (x : Exch) : State :=
  let s := s.completeNumber h 4 x.num
  if x.kind == .mat then s.completeNumber h 1 x.num1 else s

/-- The team issues nothing more; its position breaks (R305), its unsent exchange words are aborted (R244), its latches
empty, its core is to be scrubbed. -/
def State.dropTeam (s : State) (t : Team) (res : Residency) (breaks : Bool) : State :=
  let was := t.res
  let s := s.modTeam t.id (fun t =>
    { t with res := res, latch := [], copyLatch := [], exchs := [],
             groups := t.groups.map (fun g => { g with frags := [], joins := [], held := [], pend := [], exited := g.launched }) })
  let s := s.postWords (t.exchs.map (fun x => x.aborts s.clock)).flatten
  let s :=
    match s.launch? t.seq with
    | some l => (t.exchs.filter (fun (x : Exch) => x.fail.isNone)).foldl (fun (s : State) x => s.passNumbers l.r.ctx x) s
    | none => s
  let s := { s with msgs := s.msgs.filter (fun m => m.team != t.id)
                    recvs := s.recvs.filter (fun r => r.team != t.id)
                    homeOps := s.homeOps.filter (fun p => !(p.team == t.id && p.fn.waits)) }
  let s :=
    match breaks, t.chainPos with
    | true, some p => { s with broken := s.broken ++ [⟨t.seq, p⟩] }
    | _, _ => s
  if was == .resident || was == .stopping then s.releaseCore t else s

/-- R333: the launch's status is the first that is not OK. -/
def Launch.fail (l : Launch) (stat : Nat) : Launch := { l with status := if l.status = 0 then stat else l.status }

/-- A team that has not ended terminates with status FAULT: its record is posted (R333) and, with a trap as its cause, traced (R419). -/
def State.endTeam (s : State) (t : Team) (grp cause sub : Nat) (tpc tval : Word) : State :=
  match (if t.res == .terminated || t.res == .retired then none else s.launch? t.seq) with
  | none => s
  | some l =>
    let s := s.postFault l grp t.idx t.span 5 cause sub tpc tval
    let s := if cause = 0 then s
             else s.trace l t.die 6 grp t.idx t.span 0 tpc (BitVec.ofNat 64 (sub * 256 + cause))
    (s.modLaunch t.seq (fun l => l.fail 5)).dropTeam t .terminated true

/-- The order of lists of numbers by their first difference. -/
def listLe : List Nat → List Nat → Bool
  | a :: as, b :: bs => decide (a < b) || (a == b && listLe as bs)
  | _, _ => true

/-- R412: an event that a fragment met comes before one of the same cycle by (span, team, group, AGE). -/
def StopEvent.before (a b : StopEvent) : Bool :=
  let key (e : StopEvent) : Option (List Nat) :=
    if 2 ≤ e.reason && e.reason ≤ 4 then e.frag.map (fun x => [x.1, x.2.1, x.2.2.1, e.age]) else none
  match key a, key b with
  | some x, some y => a.at_ == b.at_ && x != y && listLe x y
  | _, _ => false

/-- R411: the first event that stops a launch is recorded; the stop takes effect later. -/
def State.askStop (s : State) (p : Nat) (e : StopEvent) : State :=
  s.modDbg p (fun d => { d with pending := match d.pending with | some x => some x | none => some e })

/-- The trap registers of a group. -/
def Group.trapRegs (g : Group) : BitVec 32 × Word × Word := (g.tcause, g.tpc, g.tval)

def Group.setTrapRegs (g : Group) (r : BitVec 32 × Word × Word) : Group := { g with tcause := r.1, tpc := r.2.1, tval := r.2.2 }

/-- R412: an event gives way to one of the same cycle that comes before it: its group's trap registers are as they were, unless something
has written them since, and its fragment waits at its word. -/
def State.unmeet (s : State) (seq : Nat) (e : StopEvent) : State :=
  match e.frag.bind (fun x => (s.teams.find? (fun t => t.seq == seq && t.span == x.1 && t.idx == x.2.1)).map (fun t => (t, x.2.2))) with
  | none => s
  | some (t, gi, ent) =>
    s.modGroup t.id gi (fun g =>
      (if g.trapRegs = e.wrote then g.setTrapRegs e.undo else g).modFrag ent (fun f => { f with pc := e.pc, wake := s.clock + 1 }))

/-- R412: a comparator, a brkp or a watchpoint that a fragment has met: its group's trap registers tell it, and the launch is to stop at it,
unless an event is on its way to stop the launch already that does not give way to it. -/
def State.meetStop (s : State) (l : Launch) (tid gi : Nat) (e : StopEvent) : State :=
  let go (s : State) : State :=
    let old := (((s.team? tid).bind (fun t => t.groups[gi]?)).map Group.trapRegs).getD (0, 0, 0)
    (s.modGroup tid gi (fun g => g.setTrapRegs e.wrote)).modDbg l.part (fun d => { d with pending := some { e with undo := old } })
  match (s.dbgOf l).bind Dbg.pending with
  | none => go s
  | some q => if e.before q then go (s.unmeet l.seq q) else s

/-- R411, R412: an event is on its way to stop the launch and its fragments no longer issue: at once, or 3 µs after a
comparator, a brkp or a watchpoint. -/
def StopEvent.halts (e : StopEvent) (now : Nat) : Bool := !(2 ≤ e.reason && e.reason ≤ 4) || decide (e.at_ + 3 * us ≤ now)

/-- R411, R416: the launch is stopped or about to be, and the fragment is not the one that a step lets act. -/
def State.debugHolds (s : State) (t : Team) (gi ent : Nat) : Bool :=
  s.dbg.any (fun d => d.att && d.seq == t.seq &&
    (if d.stopped then d.step != some (t.span, t.idx, gi, ent) || d.stepEnd.isSome
     else match d.pending with | some e => e.halts s.clock | none => false))

/-- R341: a save of the team's span is in progress or done, so a fault is held until the restore. -/
def State.saving (s : State) (t : Team) : Bool :=
  t.res == .saved || (t.res == .stopping &&
    ((s.launch? t.seq).any (fun l => l.spans.any (fun p => p.idx == t.span && p.action == some .save))))

/-- R417: a termination that a debugger holds: the cause stands in the trap registers of the faulting group, or of every group of the team for
an engine's fault (log entry 76), and the launch is to stop. -/
def State.suspend (s : State) (t : Team) (p grp ent cause sub : Nat) (tpc tval : Word) : State :=
  let tell (g : Group) : Group := { g with tcause := BitVec.ofNat 32 (sub * 256 + cause), tpc := tpc, tval := tval }
  let s := if grp = 0xFF then s.modTeam t.id (fun t => { t with groups := t.groups.map tell }) else s.modGroup t.id grp tell
  let s := s.modFrag t.id grp ent (fun f => { f with st := .blocked (.trap cause sub tpc tval) })
  let s := s.modDbg p (fun d => { d with susp := d.susp ++ [(t.id, grp, cause, sub, tpc, tval)] })
  s.askStop p { reason := 8, idx := 0, at_ := s.clock, frag := if grp = 0xFF then none else some (t.span, t.idx, grp, ent) }

/-- R417: the debugger of the launch stops it on faults. -/
def State.stopsOnFault (s : State) (l : Launch) : Bool :=
  (s.dbgOf l).isSome && (s.dbgReg l.part 0x10).getLsbD 1 && s.dbgPerm l.part == 2

/-- R425: a fault of a team whose launch is stopped waits until the team may issue again, unless the debugger stops on faults. -/
def State.faultHeld (s : State) (l : Launch) (t : Team) : Bool :=
  match s.dbgOf l with
  | some d => d.stopped && !s.stopsOnFault l && (match d.step with | some x => x.1 != t.span || x.2.1 != t.idx | none => true)
  | none => false

/-- R34, R169, R215, R250: what must be complete before a trap is taken is complete: the results and accesses of the group,
and every matrix operation of its team. -/
def State.drained (s : State) (t : Team) (gi : Nat) (g : Group) : Bool :=
  g.pend.all (s.pendStands t) && s.homeOps.all (fun x => !(x.team == t.id && x.grp == gi) || s.queueWaits x) && t.mats.isEmpty

/-- R169, R341, R425: a save, a stop, or work that a group has issued holds back a fault of the team. -/
def State.holdsFault (s : State) (l : Launch) (t : Team) (grp : Nat) : Bool :=
  s.saving t || s.faultHeld l t || (t.groups[grp]?).any (fun g => !s.drained t grp g)

/-- R169, R250, R341, R359, R417, R425: a team is to terminate; a save, a stop, or the group's issued work holds the fault, and a debugger
that stops on faults stops the launch instead. -/
def State.terminate (s : State) (tid grp ent cause sub : Nat) (tpc tval : Word) : State :=
  match s.team? tid with
  | none => s
  | some t =>
    match s.launch? t.seq with
    | none => s
    | some l =>
      if s.holdsFault l t grp then s.modTeam tid (fun t => { t with heldFaults := t.heldFaults ++ [(grp, ent, cause, sub, tpc, tval)] })
      else if s.stopsOnFault l then s.suspend t l.part grp ent cause sub tpc tval
      else s.endTeam t grp cause sub tpc tval

/-! ### Traps (R93, R250, R251) -/

/-- R93: the cause codes. -/
def cILL : Nat := 0x01
def cPRIV : Nat := 0x02
def cSTALLCHK : Nat := 0x03
def cROLE : Nat := 0x04
def cALIGN : Nat := 0x05
def cMEMF : Nat := 0x06
def cBAROVF : Nat := 0x07
def cBARSTALL : Nat := 0x08
def cINVMONO : Nat := 0x09
def cSWTRAP : Nat := 0x0A
def cINVBODY : Nat := 0x0C
def cSEAL : Nat := 0x0D
def cGATE : Nat := 0x0E
def cHAND : Nat := 0x0F
def cQOVF : Nat := 0x10
def cPRMZ : Nat := 0x11
def cACCIDX : Nat := 0x12
def cSCANORD : Nat := 0x13
def cSCANBRK : Nat := 0x14
def cBRKPT : Nat := 0x15
def cWATCH : Nat := 0x16

/-- R250: the causes a handler receives. -/
def deliverable (code : Nat) : Bool :=
  [cSTALLCHK, cALIGN, cBAROVF, cINVMONO, cSWTRAP, cPRMZ, cSCANORD, cSCANBRK, cQOVF, cHAND, cGATE].contains code

/-- A trap: cause, subcode, TVAL, and TPC where it is not the trapping word's address. -/
structure Trap where
  code : Nat
  sub  : Nat := 0
  tval : Word
  tpc  : Option Word := none
  deriving DecidableEq, Repr

/-- R92, R93: the value of TCAUSE. -/
def Trap.tcause (c : Trap) : BitVec 32 := BitVec.ofNat 32 (c.sub * 256 + c.code)

/-- R250: the fragment holds a trap that waits for its delivery. -/
def Frag.trapped (f : Frag) : Bool :=
  match f.st with
  | .blocked (.trap ..) => true
  | _ => false

/-- R250: neither the handler nor a trap that waits for delivery, of another fragment of the group, keeps this one; nothing keeps the
handler's own. -/
def Group.free (g : Group) (f : Frag) : Bool :=
  g.handler == some f.ent || (g.handler.isNone && g.frags.all (fun y => y.ent == f.ent || !y.trapped))

/-- R250: a handler receives the trap, once it no longer runs for another fragment. -/
def Group.trapWaits (g : Group) (l : Launch) (ent code : Nat) : Bool :=
  deliverable code && l.r.traph != 0 && g.handler.isSome && g.handler != some ent

/-- R250: delivery to the handler: the saved registers are written, every fixed-latency result lands first (R34), and the
trapping fragment continues at the handler with its MASK, a trap word's once its STALL has run out (R11, R249); an inv whose body word
trapped is kept (R162). -/
def State.deliver (s : State) (l : Launch) (t : Team) (gi ent : Nat) (c : Trap) (tpc : Word) : State :=
  let s := s.modGroup t.id gi (fun g =>
    let g := { g.settle with tcause := c.tcause, tpc := tpc, tval := c.tval, handler := some ent,
                             left := (g.frag? ent).bind Frag.invIn }
    g.modFrag ent (fun f =>
      { f with pc := l.r.traph, st := .ready, wake := if c.code = cSWTRAP then max f.wake (s.clock + 1) else s.clock + 1, last := s.clock, todo := none, invIn := none }))
  s.trace l t.die 6 gi t.idx t.span 0 tpc (c.tcause.setWidth 64)

/-- R250: a trap waits in its fragment. -/
def State.keepTrap (s : State) (tid gi ent : Nat) (c : Trap) (tpc : Word) : State :=
  s.modFrag tid gi ent (fun f => { f with st := .blocked (.trap c.code c.sub tpc c.tval) })

/-- R250: a trap whose group's issued work is complete: delivered to the handler, now or once it is free, or the end of the team. -/
def State.settleTrap (s : State) (l : Launch) (t : Team) (gi : Nat) (g : Group) (ent : Nat) (c : Trap) (tpc : Word) : State :=
  if g.trapWaits l ent c.code then s.keepTrap t.id gi ent c tpc
  else if deliverable c.code && l.r.traph != 0 && g.handler.isNone then s.deliver l t gi ent c tpc
  else s.terminate t.id gi ent c.code c.sub tpc c.tval

/-- Taking a trap, the one operation every trap of a fragment or a stream goes through. In a stream (R323) the trap sets
STATE 3 and records CAUSE, SUB, TPC and TVAL. In a group (R250) it goes to the handler when the launch declares one, the
cause is one a handler receives; otherwise, or when it arises in the handler, the team terminates. Either way it waits, in the fragment,
until the group's issued work is complete (R169) and neither a save nor a stop holds it (R341, R425). A trap of a body word is kept in the fragment for its inv to take (R162). -/
def State.takeTrap (s : State) (who : Who) (c : Trap) : State :=
  match who with
  | .none => s
  | .body tid gi ent => s.modFrag tid gi ent (fun f => { f with st := .blocked (.trap c.code c.sub 0 c.tval) })
  | .stream n =>
    s.modStream n (fun x =>
      let tpc := c.tpc.getD x.pc
      { x with st := .faulted, tcause := c.tcause, tpc := tpc, tval := c.tval, cause := c.code, sub := c.sub,
               smtpc := tpc, smtval := c.tval })
  | .frag tid gi ent =>
    match s.team? tid with
    | none => s
    | some t =>
      match t.groups[gi]?, s.launch? t.seq with
      | some g, some l =>
        match g.frag? ent with
        | none => s
        | some f =>
          let tpc := c.tpc.getD f.pc
          if s.holdsFault l t gi then s.keepTrap tid gi ent c tpc else s.settleTrap l t gi g ent c tpc
      | _, _ => s

/-- R159: the inv that a fragment is in the midst of, which its next pass goes on with. -/
def Frag.inInv (f : Frag) : Option InvRun := f.invIn.filter (fun r => !r.again)

/-- R161, R162: the inv that the trapping fragment left, if the return goes back to it: it issues again. -/
def Group.resumedInv (g : Group) : Option InvRun :=
  (g.left.filter (fun r => r.pc == g.tpc)).map (fun r => { r with again := true })

/-- R251: the return from a trap: the fragment resumes at TPC and the group's other fragments are released. -/
def State.returnTrap (s : State) (tid gi ent : Nat) : State :=
  s.modGroup tid gi (fun g =>
    { g with handler := none, left := none }.modFrag ent
      (fun f => { f with pc := g.tpc, todo := none, invIn := g.resumedInv }))

/-! ### Issuing a word -/

/-- What a word that issues works with: the issuer, its team, group, fragment and launch (blank ones for a stream), the
word, its address, the lanes whose condition is true, and the state in which the issuer already stands at the next
word. -/
structure Issue where
  who   : Who
  team  : Team
  gi    : Nat
  grp   : Group
  frag  : Frag
  la    : Launch
  word  : Word
  pc    : Word
  lanes : Lanes
  s     : State
  deriving DecidableEq, Repr

/-- How the issue checks end. -/
inductive Check where
  /-- no fragment or stream is issuing -/
  | noIssuer
  /-- the word waits at issue, and its issuer tries again -/
  | wait (s : State)
  | trap (c : Trap)
  /-- an operand is read before its ready cycle (R33): the trap, and the word as it would issue -/
  | early (c : Trap) (x : Issue)
  /-- no lane's condition is true: the word has no effect -/
  | skip (s : State)
  | go (x : Issue)

/-- How a word's own effect ends. -/
inductive Act where
  | done (s : State)
  | wait
  | trap (c : Trap)
  /-- a trap taken after other effects -/
  | trapIn (s : State) (c : Trap)
  /-- the issuing fragment blocks at the word, with other effects already in the state -/
  | block (s : State)
  /-- the word does not issue, and something else happens to the state it would have issued in -/
  | held (f : State → State)

def Group.blank : Group :=
  { role := .c, launched := 1, exited := 0, v := [], s := [], p := [], b := [], bcfg := [], mode := 0, flags := 0, rst := false,
    abt := false, pz := false, tcause := 0, tpc := 0, tval := 0, depth := [], lmem := [], gang := 0, scfg := none, frags := [],
    joins := [], held := [], flights := [], pend := [], eflags := [], handler := none, left := none, last := 0, pipeAt := 0, afWait := [] }

def Team.blank : Team :=
  { id := 0, seq := 0, span := 0, idx := 0, half := 0, die := 8, core := 0, res := .retired, groups := [], bars := [],
    scratch := [], acc := [], latch := [], latchAt := 0, latchTold := false, mats := [], copyLatch := [], copyAt := 0,
    copyTold := false, xfers := [], scanq := [], aggH := [], aggP := [], cin := [], cv := false, cs := false, cb := false,
    chainPos := none, pages := [], faults := [], exchs := [], noFlush := false, start := 0,
    since := 0, heldFaults := [] }

def Rec.blank : Rec :=
  { entry := 0, lanes := 1, groups := 1, wc := 0, vregs := 1, scr := 0, lmem := 0, roles := 0, spans := 1, half := 0, teams := 1,
    dbg := false, chain := false, chk := false, rst := false, resid := false, eclass := 0, prio := 0, mode := 0, dur := 0,
    plat := 0, park := 0, wdog := 0, keyh := 0, sigtl := 0, ctx := 0, sigval := 0, args := 0, traph := 0 }

def Launch.blank : Launch :=
  { seq := 0, lpc := 0, stream := 0, part := 0, asid := 0, r := Rec.blank, argv := [], status := 0, st := .retired, deps := [],
    readyAt := 0, placedAt := none, spans := [], scnt := 0, aged := 0, front := false, throttled := false, started := false }

def Frag.blank : Frag :=
  { ent := 0, mask := 1, pc := 0, join := none, age := 0, st := .ready, wake := 0, last := 0, todo := none, invIn := none }

/-- R13: whether a guard is true for a lane; p0 reads true in every lane. -/
def Group.guardOn (g : Group) (now nonce : Nat) (x : Guard) (l : Nat) : Bool :=
  (x.idx == 0 || g.read now nonce (.p x.idx.toNat l) != 0) != x.neg

/-- R13, R14: the lanes of a mask whose condition is true. -/
def Group.guarded (g : Group) (now nonce W : Nat) (h : Hdr) (mask : Lanes) : Lanes :=
  if h.g0 = ⟨false, 0⟩ && h.g1 = ⟨false, 0⟩ then mask
  else laneSet W (fun l => mask.getLsbD l && g.guardOn now nonce h.g0 l && g.guardOn now nonce h.g1 l)

/-- R11: the STALL of a word. -/
def stallOf (i : Instr) : Nat :=
  match i.hdr? with
  | some h => h.stall.toNat
  | none => ((i.pair?).map (fun p => p.1.toNat)).getD 0

/-- R33: the guards of a word as operands, in order. -/
def guardRefs (i : Instr) : List Ref :=
  match i.hdr? with
  | some h => [.p h.g0.idx.toNat, .p h.g1.idx.toNat]
  | none =>
    match i.pair? with
    | some (_, a, b) => [.p a.arg.gi.toNat, .p b.arg.gi.toNat]
    | none => []

/-- R92, R94: the special registers a stream may read. -/
def srInStream : SpecialReg → Bool
  | .clock | .tcause | .tpc | .tval => true
  | _ => false

/-- R94: the special register a word reads, if it reads one, is one a stream may read. -/
def rdsrOk (i : Instr) : Bool :=
  match i with
  | .rdsr _ _ sr => srInStream sr
  | _ => true

/-- R323: the words a stream executes. -/
def scalarOk (i : Instr) : Bool :=
  let noFrag := (i.shape 16).frag.isNone
  let sOnly := (i.shape 16).reads.all Ref.scalar && (i.shape 16).writes.all Ref.scalar && (guardRefs i).all Ref.scalar
  match i.hdr? with
  | some h =>
    match (encodeNat i).map (fun w => fld w 39 10) with
    | some op =>
      sOnly && noFrag && rdsrOk i &&
        (if op < 128 then op != 0x1F && op != 4
         else if op = 0x100 then h.g0 = ⟨false, 0⟩ && h.g1 = ⟨false, 0⟩ && ((encodeNat i).map (fun w => fld w 0 15) == some 0)
         else op == 0x101 || op == 0x105 || op == 0x180 || op == 0x181 || op == 0x186 || op == 0x201 || op == 0x202 ||
           op == 0x203 || op == 0x380 || op == 0x383 || op == 0x385 || (decide (0x388 ≤ op) && decide (op ≤ 0x38B)))
    | none => false
  | none =>
    match i.pair? with
    | some (_, a, b) =>
      let ok (x : PSlot) : Bool := x.op = .nop || (!x.op.isFp && x.arg.d.isS && x.arg.gi = 0)
      ok a && ok b && sOnly
    | none => false

/-- R92: the special registers a group may write; TPC only in its handler. -/
def srWritable (handler : Bool) : SpecialReg → Bool
  | .mode | .flags | .gstat => true
  | .tpc => handler
  | _ => false

/-- R39, R95, R251, R252: the PRIV trap of a word issued by a group. -/
def privTrap (i : Instr) (word : Word) (handler : Bool) : Option Trap :=
  match i with
  | .lnch .. | .ldep .. | .lwait .. | .lsig .. => some { code := cPRIV, tval := word }
  | .rtt _ => if handler then none else some { code := cPRIV, tval := word }
  | .wrsr _ _ sr => if srWritable handler sr then none else some { code := cPRIV, tval := BitVec.ofNat 64 sr.code }
  | _ => none

/-- R84: the team owns its core's accumulator store. -/
def Team.ownsStore (t : Team) : Bool := t.groups.any (fun g => g.role == .m)

/-- R20, R84, R205, R211: the ACCIDX cases. -/
def accidx (t : Team) (W : Nat) (x : Shape) : Bool :=
  (match x.frag with
   | some f => !t.ownsStore || decide (48 ≤ f.tile.toNat) || (W == 64 && f.q != 0) || (W == 32 && f.q.getLsbD 0)
   | none => false) ||
  (match x.tiles with
   | some (a, n) => !t.ownsStore || decide (48 < a + n)
   | none => false)

/-- R213: an operation at the latch or accepted writes one of the tiles. -/
def MatKind.tiles : MatKind → List Nat
  | .mma ms => ms.map MmaArr.tile
  | .zero t => [t]
  | .load t _ => [t]
  | .store t _ => [t]
  | .convert t _ fmt _ _ _ => match fmt with | .bf16 => [t] | _ => [t, t + 1, t + 2, t + 3]

/-- R212: the operation is one of the group's. -/
def MatOp.has (m : MatOp) (g : Nat) : Bool := m.grps.any (fun x => x.1 == g)

/-- R212: the places in issue order of the words of an operation that concern a tile. -/
def MatOp.ords (m : MatOp) (tile : Nat) : List Nat :=
  match m.kind with
  | .mma ms => (ms.filter (fun a => a.tile == tile)).map MmaArr.ord
  | k => if k.tiles.contains tile then m.grps.map Prod.snd else []

/-- R213: the operations that a tile's scoreboard counts: those at the latch and those accepted. -/
def Team.scoreboard (t : Team) (tile : Nat) : List Nat :=
  (t.latch.filter (fun a => a.tile == tile)).map MmaArr.ord ++ t.mats.flatMap (fun m => m.ords tile)

/-- R213: what the word of a fragment still waits for before it reads a tile: of the operations counted when it began to wait, those still
there. -/
def Group.tileWait (g : Group) (t : Team) (f : Frag) (tile : Nat) : List Nat :=
  match g.afWait.find? (fun w => w.ent == f.ent && w.pc == f.pc && w.tile == tile) with
  | some w => w.ords.filter (t.scoreboard tile).contains
  | none => t.scoreboard tile

/-- R213: a word begins or goes on to wait for a tile. -/
def Group.awaitTile (g : Group) (f : Frag) (tile : Nat) (ords : List Nat) : Group :=
  { g with afWait := g.afWait.filter (fun w => w.ent != f.ent) ++ [⟨f.ent, f.pc, tile, ords⟩] }

/-- R213: the tile a word reads and the operations it waits for. -/
def Group.sourceWait (g : Group) (t : Team) (f : Frag) (x : Shape) : Option (Nat × List Nat) :=
  match x.frag with
  | some a => let ords := g.tileWait t f a.tile.toNat; if ords = [] then none else some (a.tile.toNat, ords)
  | none => none

/-- The address of the next word. -/
def nextPc (pc : Word) : Word := pc + 8

/-- R11, R257: a fragment goes on to the next word. -/
def Frag.advance (f : Frag) (now stall : Nat) : Frag :=
  { f with pc := nextPc f.pc, wake := now + max stall 1, last := now, todo := none, invIn := none, st := .ready }

/-- R256, R257: a group one of whose fragments has issued a word that holds a pipe for so many cycles. -/
def Group.issued (g : Group) (ent now stall hold : Nat) : Group :=
  { g.modFrag ent (fun f => f.advance now stall) with last := now, pipeAt := max g.pipeAt (now + hold), afWait := g.afWait.filter (fun w => w.ent != ent) }

/-- R33: the first operand read before its ready cycle. -/
def firstEarly (g : Group) (now : Nat) (refs : List Ref) : Option Nat := (refs.find? (g.early now)).map Ref.spec

/-- The checks of R38 and R39 in their order, but for STALLCHK: ILL, PRIV, ROLE, ACCIDX. -/
def issueTrap (i : Instr) (word : Word) (t : Team) (g : Group) (l : Launch) (ent : Nat) : Option Trap :=
  let W := l.r.width
  let x := i.shape W
  if !i.legal || !(x.reads ++ x.writes).all (Ref.below l.r.vregs) then some { code := cILL, tval := word }
  else
    match privTrap i word (g.handler == some ent) with
    | some c => some c
    | none =>
      if x.role.isSome && x.role != some g.role then some { code := cROLE, tval := word }
      else if accidx t W x then some { code := cACCIDX, tval := word }
      else none

/-- R33: the STALLCHK of a word that reads an operand before its ready cycle. An inv in progress was tested when it issued
(R159). -/
def earlyTrap (i : Instr) (now : Nat) (g : Group) (l : Launch) (f : Frag) : Option Trap :=
  if l.r.chk && g.mode.getLsbD 6 && f.inInv.isNone then
    (firstEarly g now (guardRefs i ++ (i.shape l.r.width).reads)).map
      (fun n => { code := cSTALLCHK, tval := BitVec.ofNat 64 n })
  else none

/-- A stream seen as a group of one lane that holds its s registers, results and trap registers. -/
def Stream.asGroup (x : Stream) : Group :=
  { Group.blank with s := x.s, flights := x.flights, pend := x.pend, tcause := x.tcause, tpc := x.tpc, tval := x.tval }

/-- The word of an instruction, as TVAL holds it. -/
def wordOf (i : Instr) : Word := (encode i).getD 0

/-- R14: the words whose entries say what happens when no lane's condition is true. -/
def actsEmpty (i : Instr) : Bool :=
  match i with
  | .inv .. => true
  | _ => false

/-- A word that waits at issue: its issuer tries again in the next cycle; nothing else changes. -/
def State.retry (s : State) : State :=
  match s.cur with
  | .none => s
  | .stream n => s.modStream n (fun x => { x with wake := s.clock + 1 })
  | .frag t g e | .body t g e => s.modFrag t g e (fun f => { f with wake := s.clock + 1 })

/-- The issue of a word by a stream (R41, R323). -/
def issueStream (i : Instr) (s : State) (n : Nat) : Check :=
  match s.streams[n]? with
  | none => .noIssuer
  | some x =>
    let g := x.asGroup
    let sh := i.shape 16
    if !i.legal || !scalarOk i then .trap { code := cILL, tval := wordOf i }
    else if g.interlocked (sh.reads ++ sh.writes) then .wait s.retry
    else
      let act : Lanes := match i.hdr? with | some h => g.guarded s.clock s.nonce 1 h 1 | none => 1
      let s' := s.modStream n (fun x => { x with pc := nextPc x.pc, wake := s.clock + max (stallOf i) 1 })
      if act = 0 then .skip s'
      else
        .go { who := .stream n, team := Team.blank, gi := 0, grp := g, frag := Frag.blank, word := wordOf i, pc := x.pc,
              lanes := 1, s := s', la := { Launch.blank with stream := n, part := x.part, asid := x.asid } }

/-- The lanes a word acts on: those whose condition is true, those an inv in progress has taken up, or the
unfinished participants of a word that issues again (R168, R180). -/
def actLanes (i : Instr) (s : State) (W : Nat) (g : Group) (f : Frag) : Lanes :=
  match f.inInv, f.todo with
  | some r, _ => r.lanes
  | none, some m => m
  | none, none =>
    match i.hdr? with
    | some h => g.guarded s.clock s.nonce W h f.mask
    | none => f.mask

/-- The issue of a word by a fragment: the checks of R38-R40, the interlock of R32, the tile scoreboard of R213, the
checking scoreboard of R33 and the guards of R14. -/
def issueFrag (i : Instr) (s : State) (tid gi ent : Nat) : Check :=
  match s.team? tid with
  | none => .noIssuer
  | some t =>
    match t.groups[gi]?, s.launch? t.seq with
    | some g, some l =>
      match g.frag? ent with
      | none => .noIssuer
      | some f =>
        match issueTrap i (wordOf i) t g l ent with
        | some c => .trap c
        | none =>
          let sh := i.shape l.r.width
          if g.interlocked (guardRefs i ++ sh.reads ++ sh.writes) then .wait (s.tally t 5 1).retry
          else if f.st == .ready && s.cur == .frag tid gi ent && !s.unitReady t g (i.perLane l.r.width) then .wait s.retry
          else
            match g.sourceWait t f sh with
            | some w => .wait (s.modGroup tid gi (fun g => g.awaitTile f w.1 w.2)).retry
            | none =>
            let act := actLanes i s l.r.width g f
            let s' := (s.modGroup tid gi (fun g => g.issued ent s.clock (stallOf i) (holdOf i l.r.width f.mask))).charge t f act (i.perLane l.r.width)
            let x : Issue := { who := s.cur, team := t, gi := gi, grp := g, frag := f, la := l, word := wordOf i, pc := f.pc,
                               lanes := act, s := s' }
            match earlyTrap i s.clock g l f with
            | some c => if act = 0 && !actsEmpty i then .trap c else .early c x
            | none => if act = 0 && !actsEmpty i then .skip s' else .go x
    | _, _ => .noIssuer

/-- The issue of a word by the issuer State.cur names. -/
def issue (i : Instr) (s : State) : Check :=
  match s.cur with
  | .none => .noIssuer
  | .stream n => issueStream i s n
  | .frag tid gi ent | .body tid gi ent => issueFrag i s tid gi ent

/-- The state a word's own effect leads to from the state it was issued in. -/
def Act.after (s : State) : Act → State
  | .done s' => s'
  | .wait => s.retry
  | .trap c => s.takeTrap s.cur c
  | .trapIn s' c => s'.takeTrap s.cur c
  | .block s' => s'
  | .held f => f s

/-- R33, R39, R255: a word that reads an operand early traps STALLCHK in the cycle it would issue in; its own wait at
issue comes before, and so does an ILL that its decoding finds in an inv body (R40). -/
def Act.early (s : State) (c : Trap) : Act → State
  | .wait => s.retry
  | .trap d => s.takeTrap s.cur (if d.code = cILL && d.sub = 0 then d else c)
  | _ => s.takeTrap s.cur c

/-- What every word's meaning is: the issue checks, then the word's own effect. -/
def word (i : Instr) (s : State) (body : Issue → Act) : Host.Outcome State Fault Refusal :=
  match issue i s with
  | .noIssuer => .fault .noIssuer
  | .wait s' => .next s'
  | .trap c => .next (s.takeTrap s.cur c)
  | .early c x => .next ((body x).early s c)
  | .skip s' => .next s'
  | .go x => .next ((body x).after s)

/-! ### What a word does to its issuer -/

def Issue.W (x : Issue) : Nat := match x.who with | .frag .. | .body .. => x.la.r.width | _ => 1

def Issue.now (x : Issue) : Nat := x.s.clock

/-- A change of the issuing group; a stream takes over the registers and results of its group view. -/
def Issue.modG (x : Issue) (s : State) (f : Group → Group) : State :=
  match x.who with
  | .frag t g _ | .body t g _ => s.modGroup t g f
  | .stream n =>
    s.modStream n (fun y =>
      let g := f y.asGroup
      { y with s := g.s, flights := g.flights, pend := g.pend })
  | .none => s

def Issue.modF (x : Issue) (s : State) (f : Frag → Frag) : State :=
  match x.who with
  | .frag t g e | .body t g e => s.modFrag t g e f
  | _ => s

def Issue.modT (x : Issue) (s : State) (f : Team → Team) : State := s.modTeam x.team.id f

/-- The lanes the word acts on, in ascending order. -/
def Issue.lanesList (x : Issue) : List Nat := laneList x.W x.lanes

/-- A register cell as the word reads it (R31). -/
def Issue.rd (x : Issue) (k : Key) : Word := x.grp.read x.s.clock x.s.nonce k

/-- The issuing fragment blocks at the word (R140): its PC goes back to the word. -/
def Issue.blockAt (x : Issue) (s : State) (w : Wait) : State :=
  x.modF s (fun f => { f with pc := x.pc, st := .blocked w })

/-- The issuer goes back to the word, to issue it again in the next cycle. -/
def Issue.rewind (x : Issue) (s : State) : State :=
  match x.who with
  | .frag t g e | .body t g e => s.modFrag t g e (fun f => { f with pc := x.pc, wake := s.clock + 1, todo := x.frag.todo, invIn := x.frag.invIn })
  | .stream n => s.modStream n (fun y => { y with pc := x.pc, wake := s.clock + 1 })
  | .none => s

/-- A fixed-latency result of the word (R30): writes and flags, ready lat cycles after issue. -/
def Issue.fixed (x : Issue) (lat : Nat) (writes : List RegWrite) (flags : BitVec 6) : State :=
  x.modG x.s (fun g => g.launchFlight ⟨x.s.clock + lat, writes, flags, none⟩)

/-- A variable-latency result of the word (R32) with the values already known; left counts accesses still out. -/
def Issue.variable (x : Issue) (s : State) (regs : List PendReg) (writes : List RegWrite) (flags : BitVec 6) (left due : Nat)
    (acq : Bool) : State :=
  { x.modG s (fun g => { g with pend := g.pend ++ [⟨s.nextId, x.frag.mask, regs, writes, flags, left, due, acq⟩] }) with nextId := s.nextId + 1 }

end Sys2Proof.Machine
end

