-- ==== Sys2Proof/Machine/Operands.lean ====
section
/-! DEFINITION. Operands and results: the values Opnd and Amt read and what Write writes (R17, R20, R64, R65, R99, R115,
R116), the lanes a word acts on (R14, R100, R117), addresses (R23), and results of fixed and variable latency. -/

namespace Sys2Proof.Machine

/-! ### Reading -/

/-- A v register of one lane, as the word reads it. -/
def Issue.vreg (x : Issue) (n l : Nat) : Nat := (x.rd (.v n l)).toNat % 2 ^ 32

/-- An s register, as the word reads it. -/
def Issue.sreg (x : Issue) (n : Fin 64) : Word := x.rd (.s n.val)

/-- A predicate of one lane, as the word reads it. -/
def Issue.preg (x : Issue) (p : BitVec 3) (l : Nat) : Bool := x.rd (.p p.toNat l) != 0

/-- R99: Opnd at width w. -/
def Issue.opnd (x : Issue) (w : Nat) (o : Opr) (l : Nat) : Nat :=
  match o with
  | .v n => if w = 64 then x.vreg n.val l + 2 ^ 32 * x.vreg (n.val + 1) l else x.vreg n.val l % 2 ^ w
  | .s n => (x.sreg n).toNat % 2 ^ w

/-- R20: an element of an accumulator tile, by tile, row and column. -/
def accKey (tile row col : Nat) : Nat := 4096 * tile + 64 * row + col

/-- R20: the element an accumulator fragment gives a lane. -/
def Issue.accElem (x : Issue) (f : AccFrag) (l : Nat) : Nat :=
  (Cells.get 0 x.team.acc (accKey f.tile.toNat f.row.toNat (16 * f.q.toNat + l))).toNat

/-- R99, R101: Opnd of a source that may be an accumulator fragment. -/
def Issue.asrc (x : Issue) (w : Nat) (a : ASrc) (l : Nat) : Nat :=
  match a with
  | .reg o => x.opnd w o l
  | .acc f => x.accElem f l % 2 ^ w

/-- R99: Amt, the 32-bit value of an amount or descriptor operand. -/
def Issue.amt (x : Issue) (o : Opr) (l : Nat) : Nat := x.opnd 32 o l

/-- R30: the latency of a word whose source may be an accumulator fragment. -/
def srcLat (a : ASrc) (lat : Nat) : Nat :=
  match a with
  | .reg _ => lat
  | .acc _ => max 8 lat

/-! ### Writing -/

/-- The lanes a destination is written in: lane 0 stands for the one write of an s register, also as its position index under
SR (R72, log entry 71). -/
def Issue.dstLanes (x : Issue) (d : Opr) : List Nat := if d.isS then [0] else x.lanesList

/-- A value of up to 64 bits to a v register or pair. -/
def vPair (n l y : Nat) : List RegWrite :=
  [⟨.v n l, zext y 32⟩, ⟨.v (n + 1) l, zext (y / 2 ^ 32) 32⟩]

/-- R65, R99: Write at a width; signed says that a 32-bit value in an s register is sign-extended. -/
def putInt (w : Nat) (signed : Bool) (d : Opr) (l y : Nat) : List RegWrite :=
  match d with
  | .v n => if w = 64 then vPair n.val l y else [⟨.v n.val l, zext y w⟩]
  | .s n => [⟨.s n.val, if signed && w == 32 then sext y 32 else zext y w⟩]

/-- R65: Write of a class 0 result. -/
def putTy (t : ITy) (d : Opr) (l y : Nat) : List RegWrite := putInt t.width t.signed d l y

/-- A fixed-latency result computed lane by lane. -/
def Issue.perLane (x : Issue) (lat : Nat) (d : Opr) (f : Nat → List RegWrite) : Act :=
  .done (x.fixed lat ((x.dstLanes d).flatMap f) 0)

/-- A fixed-latency result computed lane by lane with flags (R75). -/
def Issue.perLaneF (x : Issue) (lat : Nat) (d : Opr) (f : Nat → List RegWrite × BitVec 6) : Act :=
  let rs := (x.dstLanes d).map f
  .done (x.fixed lat (rs.map Prod.fst).flatten (orAll (rs.map Prod.snd)))

/-- A predicate result computed lane by lane. -/
def Issue.perLaneP (x : Issue) (lat : Nat) (p : BitVec 3) (f : Nat → Bool × BitVec 6) : Act :=
  let rs := x.lanesList.map (fun l => (l, f l))
  .done (x.fixed lat (rs.map (fun r => ⟨.p p.toNat r.1, if r.2.1 then 1 else 0⟩)) (orAll (rs.map (fun r => r.2.2))))

/-- A variable-latency result computed lane by lane (R32), written lat cycles later. -/
def Issue.perLaneV (x : Issue) (lat : Nat) (d : Opr) (cnt : Nat) (f : Nat → List RegWrite × BitVec 6) : Act :=
  let rs := (x.dstLanes d).map f
  .done (x.variable x.s (pendRegs x.lanes (d.ref cnt)) (rs.map Prod.fst).flatten (orAll (rs.map Prod.snd)) 0 (x.s.clock + lat)
    false)

/-- A variable-latency result in one s register. -/
def Issue.sResult (x : Issue) (s : State) (d : Fin 64) (v : Word) (lat : Nat) : State :=
  x.variable s [.s d.val] [⟨.s d.val, v⟩] 0 0 (x.s.clock + lat) false

/-! ### Floating operands (R115-R117) -/

/-- R115: Opnd at a floating type; the element patterns are cut out by fpApply. -/
def Issue.fopnd (x : Issue) (o : Opr) (l : Nat) : Nat := x.opnd 32 o l

/-- R118: a floating source that may be an accumulator fragment. -/
def Issue.fsrc (x : Issue) (a : ASrc) (l : Nat) : Nat := x.asrc 32 a l

/-- How a position rounds under a word's rounding field (R70-R72). -/
def Issue.rounding (x : Issue) (rnd : Rnd) (i : Nat) : Rounding :=
  { rm := effRnd rnd x.grp.mode, dith := dither (i % 256) (modeDph x.grp.mode), ftz := modeFtz x.grp.mode }

/-- R116: an operation on patterns applied at a type: once, or to both halves with positions 2l and 2l + 1. -/
def fpApply (ty : FTy) (rounding : Nat → Rounding) (l : Nat) (op : FFmt → Rounding → List Nat → Nat × BitVec 6)
    (xs : List Nat) : Nat × BitVec 6 :=
  match ty with
  | .f32 => op .f32 (rounding l) xs
  | .bf16 => op .bf16 (rounding l) (xs.map (fun x => x % 2 ^ 16))
  | .bf16x2 =>
    let lo := op .bf16 (rounding (2 * l)) (xs.map (fun x => x % 2 ^ 16))
    let hi := op .bf16 (rounding (2 * l + 1)) (xs.map (fun x => x / 2 ^ 16 % 2 ^ 16))
    (lo.1 + 2 ^ 16 * hi.1, lo.2 ||| hi.2)

/-- A class 1 result lane by lane (R117): srcs gives the operand patterns of a lane. -/
def Issue.fp (x : Issue) (lat : Nat) (ty : FTy) (rnd : Rnd) (d : Opr) (srcs : Nat → List Nat)
    (op : FFmt → Rounding → List Nat → Nat × BitVec 6) : Act :=
  x.perLaneF lat d (fun l =>
    let r := fpApply ty (x.rounding rnd) l op (srcs l)
    (putInt 32 false d l r.1, r.2))

/-! ### Addresses (R23) -/

/-- R23: the address of a lane of an FM word whose offset is ofs units of n bytes. -/
def Issue.addr (x : Issue) (m : Mem) (ofs : Int) (n l : Nat) : Word :=
  let idx : Word :=
    match m.idx with
    | some (v, sc) => sext (x.vreg v.val l) 32 * BitVec.ofNat 64 (2 ^ sc.toNat)
    | none => 0
  x.sreg m.base + idx + BitVec.ofInt 64 (ofs * n)

end Sys2Proof.Machine
end

