-- ==== Sys2Proof/Machine/Trans.lean ====
section
/-! DEFINITION. The transcendental functions (R122, R123): each value is computed in fixed point with 512 fraction bits,
from series of whole-number steps, and rounded once under RNE with a last bit that says the rest is not zero. Where the
exact value is representable it is taken exactly. -/

namespace Sys2Proof.Machine

/-- Fraction bits of the fixed-point values. -/
def fxBits : Nat := 512

/-- 1 in fixed point. -/
def fxOne : Nat := 2 ^ fxBits

/-- Σ t/((2k+1)·q^k) over fuel terms, added (alt = false) or alternating. -/
def atanSum (q : Nat) (alt : Bool) : Nat → Nat → Nat → Int
  | 0, _, _ => 0
  | fuel + 1, k, t =>
    let x : Int := (t / (2 * k + 1) : Nat)
    (if alt && k % 2 == 1 then -x else x) + atanSum q alt fuel (k + 1) (t / q)

/-- ln 2 = 2 · artanh(1/3). -/
def fxLn2 : Nat := (atanSum 9 false 170 0 (2 * fxOne / 3)).toNat

/-- 2π by Machin's formula. -/
def fxTwoPi : Nat := (2 * (16 * atanSum 25 true 120 0 (fxOne / 5) - 4 * atanSum (239 * 239) true 40 0 (fxOne / 239))).toNat

/-- The sum of x^k/k! over fuel terms from term t of index k. -/
def expSum (x : Nat) : Nat → Nat → Nat → Nat
  | 0, _, _ => 0
  | fuel + 1, k, t => t + expSum x fuel (k + 1) (t * x / fxOne / (k + 1))

/-- e^x for a fixed-point x below 1. -/
def fxExp (x : Nat) : Nat := expSum x 110 0 fxOne

/-- e^-x for a fixed-point x: the fixed-point value. -/
def fxExpNeg (x : Nat) : Nat :=
  let n := x / fxLn2 + 1
  fxExp (n * fxLn2 - x) / 2 ^ n

/-- The alternating sum of x^k/k! over every other k from term t of index k. -/
def trigSum (x2 : Nat) : Nat → Nat → Nat → Int
  | 0, _, _ => 0
  | fuel + 1, k, t => (t : Int) - trigSum x2 fuel (k + 2) (t * x2 / fxOne / ((k + 1) * (k + 2)))

/-- n/d in fixed point. -/
def fxOf (n d : Nat) : Nat := n * fxOne / d

/-- An operand reduced by the nearest multiple of 2π. -/
def fxReduce (n d : Nat) : Int :=
  let r := fxOf n d % fxTwoPi
  if fxTwoPi < 2 * r then (r : Int) - fxTwoPi else r

/-- A fixed-point value whose rest is not zero, rounded. -/
def roundFx (f : FFmt) (r : Rounding) (v : Int) : Nat × BitVec 6 :=
  roundTo f r (decide (v < 0)) (2 * v.natAbs + 1) (2 * fxOne)

/-- sin of n/d. -/
def fxSin (n d : Nat) : Int :=
  let r := fxReduce n d
  let a := r.natAbs
  let s := trigSum (a * a / fxOne) 70 1 a
  if r < 0 then -s else s

/-- cos of n/d. -/
def fxCos (n d : Nat) : Int :=
  let a := (fxReduce n d).natAbs
  trigSum (a * a / fxOne) 70 0 fxOne

/-- ln x for 1 ≤ x < 2, x = n/d. -/
def fxLn (n d : Nat) : Nat :=
  let z := (n - d) * fxOne / (n + d)
  let q := z * z / fxOne
  let terms := (List.range 170).foldl
    (fun (a : Nat × Nat) k => (a.1 + a.2 / (2 * k + 1), a.2 * q / fxOne)) (0, z)
  2 * terms.1

/-- The functions of R122. -/
inductive TransFn where
  | rcp | rsq | exp2 | log2 | sin | cos | tanh | sig
  deriving DecidableEq, Repr

/-- R123: 1 and -1, 1/2 in a format. -/
def oneOf (f : FFmt) (neg : Bool) : Nat := f.sign neg + 127 * 2 ^ f.frac
def halfOf (f : FFmt) : Nat := 126 * 2 ^ f.frac

/-- R123: the zeros. -/
def transZero (g : TransFn) (f : FFmt) (s : Bool) : Nat × BitVec 6 :=
  match g with
  | .rcp | .rsq => (f.inf s, fDZ)
  | .exp2 | .cos => (oneOf f false, 0)
  | .log2 => (f.inf true, fDZ)
  | .sin | .tanh => (f.sign s, 0)
  | .sig => (halfOf f, 0)

/-- R123: the infinities. -/
def transInf (g : TransFn) (f : FFmt) (s : Bool) : Nat × BitVec 6 :=
  match g with
  | .rcp => (f.sign s, 0)
  | .rsq => if s then (f.nan, fNV) else (0, 0)
  | .exp2 => if s then (0, 0) else (f.inf false, 0)
  | .log2 => if s then (f.nan, fNV) else (f.inf false, 0)
  | .sin | .cos => (f.nan, fNV)
  | .tanh => (oneOf f s, 0)
  | .sig => if s then (0, 0) else (oneOf f false, 0)

/-- R122: a finite non-zero operand ±n/d with d a power of two. -/
def transNum (g : TransFn) (f : FFmt) (r : Rounding) (s : Bool) (n d : Nat) : Nat × BitVec 6 :=
  match g with
  | .rcp => roundTo f r s d n
  | .rsq =>
    if s then (f.nan, fNV)
    else
      let q := sqrtFrac 260 160 d n
      if q.1 % 2 = 0 then roundTo f r false (q.1 / 2) (q.2 / 2) else roundTo f r false q.1 q.2
  | .exp2 =>
    if n % d = 0 then
      let k := min (n / d) 400
      if s then roundTo f r false 1 (2 ^ k) else roundTo f r false (2 ^ k) 1
    else if 1024 * d ≤ n then (if s then roundTo f r false 1 (2 ^ 400) else roundTo f r false (2 ^ 400) 1)
    else
      let k := n / d
      let x := fxOf (n % d) d * fxLn2 / fxOne
      if s then roundTo f r false (2 * fxExp (fxLn2 - x) + 1) (2 * fxOne * 2 ^ (k + 1))
      else roundTo f r false ((2 * fxExp x + 1) * 2 ^ k) (2 * fxOne)
  | .log2 =>
    if s then (f.nan, fNV)
    else
      let e := expOf n d
      let q := scaledBy n d e
      if q.1 = q.2 then roundTo f r (decide (e < 0)) e.natAbs 1
      else roundFx f r (e * fxOne + (fxLn q.1 q.2 * fxOne / fxLn2 : Nat))
  | .sin => let v := fxSin n d; roundFx f r (if s then -v else v)
  | .cos => roundFx f r (fxCos n d)
  | .tanh =>
    if 64 * d ≤ n then roundTo f r s (2 ^ 200 - 1) (2 ^ 200)
    else
      let e := fxExpNeg (fxOf (2 * n) d)
      let v : Int := ((fxOne - e) * fxOne / (fxOne + e) : Nat)
      roundFx f r (if s then -v else v)
  | .sig =>
    if 2048 * d ≤ n then (if s then roundTo f r false 1 (2 ^ 400) else roundTo f r false (2 ^ 200 - 1) (2 ^ 200))
    else
      let e := fxExpNeg (fxOf n d)
      roundFx f r ((if s then e * fxOne / (fxOne + e) else fxOne * fxOne / (fxOne + e) : Nat) : Int)

/-- R122, R123: a transcendental function of a pattern: result and flags. MODE.RND has no effect. -/
def transcend (g : TransFn) (f : FFmt) (ftz : Bool) (x : Nat) : Nat × BitVec 6 :=
  let r : Rounding := { rm := .rne, dith := 0, ftz := ftz }
  match unpack f ftz x with
  | .nan sg => (f.nan, flagIf sg fNV)
  | .zero s => transZero g f s
  | .inf s => transInf g f s
  | .num s n d => transNum g f r s n d

end Sys2Proof.Machine
end

