-- ==== Sys2Proof/Machine/FloatOps.lean ====
section
/-! DEFINITION. Class 1: floating arithmetic, division and square root, the transcendental functions, comparison,
classification, cvt and the block conversions (R115-R129). -/

namespace Sys2Proof.Machine

open Host (Outcome)

/-! ### Shared forms -/

/-- A class 1 operation on the values of its operands. -/
def onVals (op : FFmt → Rounding → List FVal → Nat × BitVec 6) (f : FFmt) (r : Rounding) (xs : List Nat) : Nat × BitVec 6 :=
  op f r (xs.map (unpack f r.ftz))

def val0 (xs : List FVal) : FVal := xs.getD 0 (.zero false)
def val1 (xs : List FVal) : FVal := xs.getD 1 (.zero false)
def val2 (xs : List FVal) : FVal := xs.getD 2 (.zero false)

def addOp (f : FFmt) (r : Rounding) (xs : List FVal) : Nat × BitVec 6 := fpAdd f r (val0 xs) (val1 xs)
def subOp (f : FFmt) (r : Rounding) (xs : List FVal) : Nat × BitVec 6 := fpAdd f r (val0 xs) (val1 xs).flip
def mulOp (f : FFmt) (r : Rounding) (xs : List FVal) : Nat × BitVec 6 := fpMul f r (val0 xs) (val1 xs)
def fmaOp (f : FFmt) (r : Rounding) (xs : List FVal) : Nat × BitVec 6 := fpFma f r (val0 xs) (val1 xs) (val2 xs)
def divOp (f : FFmt) (r : Rounding) (xs : List FVal) : Nat × BitVec 6 := fpDiv f r (val0 xs) (val1 xs)
def sqrtOp (f : FFmt) (r : Rounding) (xs : List FVal) : Nat × BitVec 6 := fpSqrt f r (val0 xs)
def roundOp (f : FFmt) (r : Rounding) (xs : List FVal) : Nat × BitVec 6 := fpRound f r (val0 xs)
def minOp (f : FFmt) (_ : Rounding) (xs : List FVal) : Nat × BitVec 6 := fpMinMax f true (val0 xs) (val1 xs)
def maxOp (f : FFmt) (_ : Rounding) (xs : List FVal) : Nat × BitVec 6 := fpMinMax f false (val0 xs) (val1 xs)

/-- R122: a transcendental word. -/
def Issue.trans (x : Issue) (g : TransFn) (d a : Opr) (ty : FTy) : Act :=
  x.fp 12 ty .rne d (fun l => [x.fopnd a l]) (fun f r xs => transcend g f r.ftz (xs.getD 0 0))

/-- R121: a division or square root: typical latency 24, or 14 for the BF16 types. -/
def Issue.fpVar (x : Issue) (ty : FTy) (rnd : Rnd) (d : Opr) (srcs : Nat → List Nat)
    (op : FFmt → Rounding → List FVal → Nat × BitVec 6) : Act :=
  x.perLaneV (if ty = .f32 then 24 else 14) d 1 (fun l =>
    let r := fpApply ty (x.rounding rnd) l (onVals op) (srcs l)
    (putInt 32 false d l r.1, r.2))

/-! ### Arithmetic (R119, R120) -/

/-- R119. -/
def execFadd (h : Hdr) (d : Opr) (a : ASrc) (b : Opr) (ty : FTy) (rnd : Rnd) (s : State) : Outcome State Fault Refusal :=
  word (.fadd h d a b ty rnd) s fun x => x.fp (srcLat a 5) ty rnd d (fun l => [x.fsrc a l, x.fopnd b l]) (onVals addOp)

/-- R119. -/
def execFsub (h : Hdr) (d : Opr) (a : ASrc) (b : Opr) (ty : FTy) (rnd : Rnd) (s : State) : Outcome State Fault Refusal :=
  word (.fsub h d a b ty rnd) s fun x => x.fp (srcLat a 5) ty rnd d (fun l => [x.fsrc a l, x.fopnd b l]) (onVals subOp)

/-- R119. -/
def execFmul (h : Hdr) (d : Opr) (a : ASrc) (b : Opr) (ty : FTy) (rnd : Rnd) (s : State) : Outcome State Fault Refusal :=
  word (.fmul h d a b ty rnd) s fun x => x.fp (srcLat a 5) ty rnd d (fun l => [x.fsrc a l, x.fopnd b l]) (onVals mulOp)

/-- R118, R119: with an accumulator fragment the addend is read from D. -/
def execFfma (h : Hdr) (d : Opr) (a : FfmaSrc) (b : Opr) (ty : FTy) (rnd : Rnd) (s : State) : Outcome State Fault Refusal :=
  word (.ffma h d a b ty rnd) s fun x =>
    match a with
    | .reg a c => x.fp 5 ty rnd d (fun l => [x.fopnd a l, x.fopnd b l, x.fopnd c l]) (onVals fmaOp)
    | .acc f => x.fp 8 ty rnd d (fun l => [x.accElem f l, x.fopnd b l, x.fopnd d l]) (onVals fmaOp)

/-- R120. -/
def execFmin (h : Hdr) (d : Opr) (a : ASrc) (b : Opr) (ty : FTy) (s : State) : Outcome State Fault Refusal :=
  word (.fmin h d a b ty) s fun x => x.fp (srcLat a 5) ty .rne d (fun l => [x.fsrc a l, x.fopnd b l]) (onVals minOp)

/-- R120. -/
def execFmax (h : Hdr) (d : Opr) (a : ASrc) (b : Opr) (ty : FTy) (s : State) : Outcome State Fault Refusal :=
  word (.fmax h d a b ty) s fun x => x.fp (srcLat a 5) ty .rne d (fun l => [x.fsrc a l, x.fopnd b l]) (onVals maxOp)

/-- R121. -/
def execFsqrt (h : Hdr) (d a : Opr) (ty : FTy) (rnd : Rnd) (s : State) : Outcome State Fault Refusal :=
  word (.fsqrt h d a ty rnd) s fun x => x.fpVar ty rnd d (fun l => [x.fopnd a l]) sqrtOp

/-- R121. -/
def execFdiv (h : Hdr) (d a b : Opr) (ty : FTy) (rnd : Rnd) (s : State) : Outcome State Fault Refusal :=
  word (.fdiv h d a b ty rnd) s fun x => x.fpVar ty rnd d (fun l => [x.fopnd a l, x.fopnd b l]) divOp

/-- R119. -/
def execFround (h : Hdr) (d a : Opr) (ty : FTy) (rnd : Rnd) (s : State) : Outcome State Fault Refusal :=
  word (.fround h d a ty rnd) s fun x => x.fp 5 ty rnd d (fun l => [x.fopnd a l]) (onVals roundOp)

/-- R119: both elements of a bf16x2 use the same amount. -/
def execFscale (h : Hdr) (d a b : Opr) (ty : FTy) (rnd : Rnd) (s : State) : Outcome State Fault Refusal :=
  word (.fscale h d a b ty rnd) s fun x => x.perLaneF 5 d (fun l =>
    let k := sInt 32 (x.amt b l)
    let r := fpApply ty (x.rounding rnd) l (onVals (fun f r xs => fpScale f r (val0 xs) k)) [x.fopnd a l]
    (putInt 32 false d l r.1, r.2))

/-- R119: A's and B's two BF16 elements and an FP32 addend. -/
def execFdot2 (h : Hdr) (d a b c : Opr) (rnd : Rnd) (s : State) : Outcome State Fault Refusal :=
  word (.fdot2 h d a b c rnd) s fun x => x.perLaneF 5 d (fun l =>
    let r := x.rounding rnd l
    let half (o : Opr) (k : Nat) : FVal := unpack .bf16 r.ftz (x.fopnd o l / 2 ^ (16 * k) % 2 ^ 16)
    let y := fpDot .f32 r [(half a 0, half b 0), (half a 1, half b 1)] (unpack .f32 r.ftz (x.fopnd c l))
    (putInt 32 false d l y.1, y.2))

/-! ### Transcendental functions (R122, R123) -/

/-- R122. -/
def execFrcp (h : Hdr) (d a : Opr) (ty : FTy) (s : State) : Outcome State Fault Refusal :=
  word (.frcp h d a ty) s fun x => x.trans .rcp d a ty

/-- R122. -/
def execFrsq (h : Hdr) (d a : Opr) (ty : FTy) (s : State) : Outcome State Fault Refusal :=
  word (.frsq h d a ty) s fun x => x.trans .rsq d a ty

/-- R122. -/
def execFexp2 (h : Hdr) (d a : Opr) (ty : FTy) (s : State) : Outcome State Fault Refusal :=
  word (.fexp2 h d a ty) s fun x => x.trans .exp2 d a ty

/-- R122. -/
def execFlog2 (h : Hdr) (d a : Opr) (ty : FTy) (s : State) : Outcome State Fault Refusal :=
  word (.flog2 h d a ty) s fun x => x.trans .log2 d a ty

/-- R122. -/
def execFsin (h : Hdr) (d a : Opr) (ty : FTy) (s : State) : Outcome State Fault Refusal :=
  word (.fsin h d a ty) s fun x => x.trans .sin d a ty

/-- R122. -/
def execFcos (h : Hdr) (d a : Opr) (ty : FTy) (s : State) : Outcome State Fault Refusal :=
  word (.fcos h d a ty) s fun x => x.trans .cos d a ty

/-- R122. -/
def execFtanh (h : Hdr) (d a : Opr) (ty : FTy) (s : State) : Outcome State Fault Refusal :=
  word (.ftanh h d a ty) s fun x => x.trans .tanh d a ty

/-- R122. -/
def execFsig (h : Hdr) (d a : Opr) (ty : FTy) (s : State) : Outcome State Fault Refusal :=
  word (.fsig h d a ty) s fun x => x.trans .sig d a ty

/-! ### Comparison and classification (R124, R125) -/

/-- The comparison of two patterns at a type; bf16x2 is no type of fcmp. -/
def fcmpVal (ty : FTy) (ftz : Bool) (c : FCond) (a b : Nat) : Bool × BitVec 6 :=
  match ty with
  | .f32 => fpCmp c (unpack .f32 ftz a) (unpack .f32 ftz b)
  | .bf16 | .bf16x2 => fpCmp c (unpack .bf16 ftz (a % 2 ^ 16)) (unpack .bf16 ftz (b % 2 ^ 16))

/-- R124. -/
def execFcmp (h : Hdr) (p : BitVec 3) (a : FcmpSrc) (b : Opr) (ty : FTy) (s : State) : Outcome State Fault Refusal :=
  word (.fcmp h p a b ty) s fun x =>
    let ftz := modeFtz x.grp.mode
    match a with
    | .reg a c => x.perLaneP 5 p (fun l => fcmpVal ty ftz c (x.fopnd a l) (x.fopnd b l))
    | .acc f c => x.perLaneP 8 p (fun l => fcmpVal ty ftz c (x.accElem f l) (x.fopnd b l))

/-- R125. -/
def execFclass (h : Hdr) (d a : Opr) (ty : FTy) (s : State) : Outcome State Fault Refusal :=
  word (.fclass h d a ty) s fun x => x.perLane 5 d (fun l =>
    putInt 32 false d l (if ty = .f32 then fpClass .f32 (x.fopnd a l) else fpClass .bf16 (x.fopnd a l % 2 ^ 16)))

/-! ### cvt (R126) -/

/-- The width and sign of an integer or ring type of cvt. -/
def cvtWidth : CvtTy → Nat
  | .i64 | .n64 | .z64 => 64
  | .z16 | .bf16 | .bf16h => 16
  | .f32 | .bf16x2 | .i32 | .n32 | .z32 => 32

def cvtSigned : CvtTy → Bool
  | .i32 | .i64 => true
  | _ => false

/-- The floating format of a type. -/
def cvtFmt : CvtTy → FFmt
  | .f32 => .f32
  | _ => .bf16

/-- The pattern a source type takes from its operand bits. -/
def cvtPat (src : CvtTy) (a : Nat) : Nat := if src = .bf16h then a / 2 ^ 16 % 2 ^ 16 else a % 2 ^ cvtWidth src

/-- R126, R77: one value converted. -/
def cvtVal (r : Rounding) (src dst : CvtTy) (a : Nat) : Nat × BitVec 6 :=
  let p := cvtPat src a
  if src.isFloat then
    if dst.isRing then (p % 2 ^ cvtWidth dst, 0)
    else
      let v := unpack (cvtFmt src) r.ftz p
      if dst.isInt then fpToInt r (cvtWidth dst) (cvtSigned dst) v else fpToFp (cvtFmt dst) r v
  else
    let v : Int := if cvtSigned src then sInt (cvtWidth src) p else p
    if dst.isFloat then intToFp (cvtFmt dst) r v else (wrap (cvtWidth dst) v, 0)

/-- A converted value in its destination (R65, R116): in an s register an i32 is sign-extended, as R65 has it, although R117 says Zext of a
32-bit result (DEDUCED, log entry 83). -/
def cvtPut (dst : CvtTy) (d : Opr) (l y : Nat) : List RegWrite :=
  putInt (if cvtWidth dst = 64 then 64 else 32) (dst = .i32) d l y

/-- R126. -/
def execCvt (h : Hdr) (d : Opr) (src : CvtSrc) (rnd : Rnd) (s : State) : Outcome State Fault Refusal :=
  word (.cvt h d src rnd) s fun x =>
    match src with
    | .reg a sty dty => x.perLaneF 5 d (fun l =>
        let r := cvtVal (x.rounding rnd l) sty dty (x.opnd (if cvtWidth sty = 64 then 64 else 32) a l)
        (cvtPut dty d l r.1, r.2))
    | .pair a b => x.perLaneF 5 d (fun l =>
        let lo := cvtVal (x.rounding rnd (2 * l)) .f32 .bf16 (x.fopnd a l)
        let hi := cvtVal (x.rounding rnd (2 * l + 1)) .f32 .bf16 (x.fopnd b l)
        (putInt 32 false d l (lo.1 + 2 ^ 16 * hi.1), lo.2 ||| hi.2))
    | .acc f dty => x.perLaneF 8 d (fun l =>
        let r := cvtVal (x.rounding rnd l) .f32 dty (x.accElem f l)
        (cvtPut dty d l r.1, r.2))

/-! ### Block conversions (R127-R129) -/

/-- R127: where element i of a value image stands: register, lane, and its 16-bit half for bf16x2. -/
def valuePlace (ty : FTy) (W i : Nat) : Nat × Nat × Nat :=
  if ty = .bf16x2 then (i / (2 * W), i / 2 % W, i % 2) else (i / W, i % W, 0)

/-- The format of an element of a value image. -/
def elemFmt (ty : FTy) : FFmt := if ty = .f32 then .f32 else .bf16

/-- R127: the live count of a descriptor. -/
def liveCount (desc : Word) : Nat := min (field desc 24 16) 256

/-- R128: the elements of a value image; none is a tail element. -/
def Issue.valueImage (x : Issue) (ty : FTy) (a n : Nat) : List (Option FVal) :=
  (List.range 256).map (fun i =>
    let p := valuePlace ty x.W i
    if i < n && x.grp.launched.getLsbD p.2.1 then
      let raw := x.vreg (a + p.1) p.2.1
      some (unpack (elemFmt ty) (modeFtz x.grp.mode) (if ty = .f32 then raw else raw / 2 ^ (16 * p.2.2) % 2 ^ 16))
    else none)

/-- R127, R128: a packed image written in the lanes of the fragment. -/
def Issue.packedWrites (x : Issue) (d w : Nat) (str : Nat) : List RegWrite :=
  (List.range ((8 * w + x.W - 1) / x.W * x.W)).filterMap (fun j =>
    if x.lanes.getLsbD (j % x.W) then
      some ⟨.v (d + j / x.W) (j % x.W), if j < 8 * w then zext (str / 2 ^ (32 * j)) 32 else 0⟩
    else none)

/-- R128: the bit string of a packed image, read from every launched lane. -/
def Issue.packedImage (x : Issue) (a w : Nat) : Nat :=
  (List.range (8 * w)).foldl (fun str j =>
    str + (if x.grp.launched.getLsbD (j % x.W) then x.vreg (a + j / x.W) (j % x.W) else 0) * 2 ^ (32 * j)) 0

/-- R73: a tile conversion under SR advances the phase when MODE.DPA is set. -/
def Group.stepPhase (rnd : Rnd) (g : Group) : Group :=
  if effRnd rnd g.mode = .sr && modeDpa g.mode then { g with mode := advanceDph g.mode } else g

/-- A block result: fixed latency 5, and the phase of a tile conversion. -/
def Issue.block (x : Issue) (rnd : Rnd) (ws : List RegWrite) (fl : BitVec 6) : Act :=
  .done (x.modG (x.fixed 5 ws fl) (Group.stepPhase rnd))

/-- R129. -/
def execBfpk (h : Hdr) (d a : Fin 192) (w : BitVec 3) (desc : Fin 64) (ty : FTy) (rnd : Rnd) (s : State) :
    Outcome State Fault Refusal :=
  word (.bfpk h d a w desc ty rnd) s fun x =>
    let wd := w.toNat + 1
    let ds := x.sreg desc
    let r := packBlock wd (effRnd rnd x.grp.mode) (modeDph x.grp.mode) (x.valueImage ty a.val (liveCount ds))
    x.block rnd
      (x.packedWrites d.val wd (packCodes wd r.2.1) ++
        [⟨.s desc.val, BitVec.ofNat 64 (ds.toNat / 256 * 256 + r.1)⟩]) r.2.2

/-- R129. -/
def execBfscl (h : Hdr) (d a : Fin 192) (w : BitVec 3) (desc : Fin 64) (ty : FTy) (rnd : Rnd) (s : State) :
    Outcome State Fault Refusal :=
  word (.bfscl h d a w desc ty rnd) s fun x =>
    let wd := w.toNat + 1
    let ds := x.sreg desc
    let r := packAt wd (field ds 7 0) (effRnd rnd x.grp.mode) (modeDph x.grp.mode) (x.valueImage ty a.val (liveCount ds))
    x.block rnd (x.packedWrites d.val wd (packCodes wd r.1)) r.2

/-- R127: whether some bit of element i of a packed image lies in a word of a never-launched lane. -/
def Issue.codeUnlaunched (x : Issue) (w i : Nat) : Bool :=
  (List.range 2).any (fun k => !x.grp.launched.getLsbD ((w * i + k * (w - 1)) / 32 % x.W))

/-- R129: element i unpacked: a tail element is +0. -/
def unpackElem (f : FFmt) (r : Rounding) (w e : Nat) (tail : Bool) (str i : Nat) : Nat × BitVec 6 :=
  if tail then (0, 0)
  else if e = 0xFF then (f.nan, 0)
  else (blockVal w e (codeAt w str i)).round f r

/-- R129: bfup never changes the phase. Its tail elements are those past the live count and those of never-launched lanes
(R128): an element whose code has any bit in such a lane's word (log entry 71). Under SR the index of
a result is its element's place in the block (DESIGN CHOICE, log entry 71). -/
def execBfup (h : Hdr) (d a : Fin 192) (w : BitVec 3) (desc : Fin 64) (ty : FTy) (rnd : Rnd) (s : State) :
    Outcome State Fault Refusal :=
  word (.bfup h d a w desc ty rnd) s fun x =>
    let wd := w.toNat + 1
    let ds := x.sreg desc
    let str := x.packedImage a.val wd
    let es := (List.range 256).map (fun i =>
      unpackElem (elemFmt ty) (x.rounding rnd i) wd (field ds 7 0) (decide (liveCount ds ≤ i) || x.codeUnlaunched wd i) str i)
    let ws := es.zipIdx.filterMap (fun y =>
      let p := valuePlace ty x.W y.2
      if x.lanes.getLsbD p.2.1 then some (⟨.v (d.val + p.1) p.2.1, BitVec.ofNat 64 y.1.1⟩ : RegWrite) else none)
    .done (x.fixed 5 ws (orAll (es.map Prod.snd)))

end Sys2Proof.Machine
end

