-- ==== Sys2Proof/Machine/Access.lean ====
section
/-! DEFINITION. Accesses to memory (R164-R169, R273-R291): participants and their checks, page faults and parking (R355,
R356), watchpoints and samples (R413, R421), L1 copies, the order in which accesses reach their homes, and what an access
does there: registering a store, a bank operation, a queue operation, an atomic. -/

namespace Sys2Proof.Machine

/-! ### Who accesses -/

/-- The identifier of the issuer of an access: its team, or 2^32 + n for stream n. -/
def Issue.agent (x : Issue) : Nat := match x.who with | .stream n => 2 ^ 32 + n | _ => x.team.id

/-- The L1 the issuer uses: 64 times its die plus its core; each stream has one of its own. -/
def Issue.coreIx (x : Issue) : Nat := match x.who with | .stream n => 576 + n | _ => 64 * x.team.die + x.team.core

/-- R342, R373: how the issuer's addresses are translated. -/
def Issue.space (x : Issue) : Space :=
  match x.who with
  | .stream _ => ⟨x.la.asid, x.la.part, 0, 8, some x.coreIx⟩
  | _ => { x.la.space x.team.die with core := some x.coreIx }

/-- R165: the participants of a word with their addresses; a uniform word acts once, for its lowest acting lane. -/
def Issue.parts (x : Issue) (uniform : Bool) (addr : Nat → Word) : List (Nat × Word) :=
  (if uniform then x.lanesList.take 1 else x.lanesList).map (fun l => (l, addr l))

/-- R274: the lanes in whose program order a participant's access stands. -/
def Issue.agentLanes (x : Issue) (uniform : Bool) (l : Nat) : Lanes := if uniform then x.frag.mask else laneBit l

/-! ### Waiting for earlier accesses (R185, R186) -/

/-- An access of the given lanes that has not reached its home and that p selects. -/
def State.outstanding (s : State) (team grp : Nat) (lanes : Lanes) (p : HomeOp → Bool) : Bool :=
  s.homeOps.any (fun q => q.team == team && q.grp == grp && q.lanes &&& lanes != 0 && p q)

/-- A release or acquire still on its way. -/
def HomeOp.syncs (q : HomeOp) : Bool := q.rel != 0 || q.acq

/-- R185: some acquire of the fragment is not complete, so no later access may be performed. -/
def Group.acquiring (g : Group) (lanes : Lanes) : Bool := g.pend.any (fun p => p.acq && p.lanes &&& lanes != 0)

def Issue.acquiring (x : Issue) : Bool := x.grp.acquiring x.frag.mask

/-- Accesses of the fragment that p selects are still on their way. -/
def Issue.busy (x : Issue) (p : HomeOp → Bool) : Bool := x.s.outstanding x.agent x.gi x.frag.mask p

/-- R185, R212, R226: the group's accepted matrix operations and its scans, which a release must follow. -/
def Issue.engineOps (x : Issue) : Bool :=
  x.team.mats.any (fun m => m.has x.gi) || x.team.scanq.any (fun o => o.grp == x.gi)

/-- R185: what an engine release waits for: the fragment's accesses and acquires, and the group's engine operations. -/
def Issue.releaseBusy (x : Issue) : Bool := x.acquiring || x.busy (fun _ => true) || x.engineOps

/-- R239: what the send of an exchange waits for: what any release waits for, but for the completions of earlier exchanges, since several
exchanges of a fragment may be out at once (log entry 78). -/
def Issue.sendBusy (x : Issue) : Bool :=
  x.grp.pend.any (fun p => p.acq && p.lanes &&& x.frag.mask != 0 && x.team.exchs.all (fun e => e.pend != some p.id)) ||
    x.busy (fun _ => true) || x.engineOps

/-! ### L1 copies (R283) -/

def Issue.acquired (x : Issue) (s : State) : State := s.acquire x.coreIx

/-- Bytes at an address laid over bytes read from another. -/
def overlay (a : Nat) (xs : List Byte) (b : Nat) (ys : List Byte) : List Byte :=
  ys.zipIdx.map (fun (y : Byte × Nat) => if a ≤ b + y.2 && b + y.2 < a + xs.length then xs.getD (b + y.2 - a) y.1 else y.1)

/-- R281, R284: an agent's own stores on their way are laid over what it reads. -/
def State.ownBytes (s : State) (team grp : Nat) (lanes : Lanes) (c : Loc) (bs : List Byte) : List Byte :=
  s.homeOps.foldl (fun bs q =>
    match q.fn with
    | .store ys =>
      if q.team == team && q.grp == grp && q.lanes &&& lanes != 0 && q.loc.asid == c.asid then overlay q.loc.va ys c.va bs
      else bs
    | _ => bs) bs

/-- R278-R284: the bytes with which the core's L1 serves a plain load, if it does; where its copy is older, whether it does is free. -/
def State.fromL1 (s : State) (core : Nat) (c : Loc) (n : Nat) : Option (List Byte) :=
  match if s.cacheable c then s.l1Line? core c.asid c.va else none with
  | some x =>
    let old := (x.bytes.drop (c.va % 64)).take n
    if old = s.homeBytes c n || Config.stale s.nonce c.va then some old else none
  | none => none

/-- R278-R284: a load; plain says that an unowned copy may serve it. The result says whether one did. -/
def State.loadBytes (s : State) (team grp core : Nat) (lanes : Lanes) (c : Loc) (n : Nat) (plain : Bool) : State × List Byte × Bool :=
  match if plain then s.fromL1 core c n else none with
  | some old => (s, s.ownBytes team grp lanes c old, true)
  | none =>
    let s := s.askHome c n
    (if plain then s.install1 core c else s, s.ownBytes team grp lanes c (s.homeBytes c n), false)

/-! ### Page faults (R355-R357) -/

/-- R356: records of a partition are posted while its queue has room and its registers are valid. -/
def State.postPages (s : State) (p : Nat) : Nat → State
  | 0 => s
  | fuel + 1 =>
    let reg := s.hreg .xlat (0x1000 + 0x100 * p)
    let tail := s.hreg .xlat (0x1008 + 0x100 * p)
    let head := s.hreg .xlat (0x1010 + 0x100 * p)
    let n := field reg 3 0
    let base := field reg 63 12 * 2 ^ 12
    match s.pfHeld.find? (fun x => x.1 == p) with
    | none => s
    | some x =>
      if n < 6 || 12 < n || !s.inPartDram p base (64 * 2 ^ n) || decide (2 ^ n ≤ (tail - head).toNat) then s
      else
        let s := s.writePhys 0 (base + 64 * (tail.toNat % 2 ^ n))
          (wordsBytes (x.2 ++ [BitVec.ofNat 64 s.clock, 0, tail]))
        let s := s.setHreg .xlat (0x1008 + 0x100 * p) (tail + 1)
        ({ s with pfHeld := s.pfHeld.erase x }).postPages p fuel

/-- R356: the record of a page fault joins the partition's queue. -/
def State.recordPage (s : State) (t : Team) (l : Launch) (f : PageFault) : State :=
  let w1 := (if f.ce then 2 ^ 26 else 0) + (if f.fe then 2 ^ 25 else 0) + (if f.wr then 2 ^ 24 else 0) + f.sub * 2 ^ 16 + l.asid
  let ws : List Word :=
    [f.va, BitVec.ofNat 64 w1, l.lpc, BitVec.ofNat 64 l.seq, BitVec.ofNat 64 (f.grp * 2 ^ 24 + t.idx * 2 ^ 16 + t.span)]
  let s : State := { s with pfHeld := s.pfHeld ++ [(l.part, ws)] }
  s.postPages l.part s.pfHeld.length

/-- The 4 KiB page of an address. -/
def pageOf (va : Nat) : Nat := va / 4096

/-- R356, R357: one page a team misses: a record for a page not yet outstanding; beyond 64 pages it is held. -/
def State.missPage (s : State) (tid : Nat) (l : Launch) (f : PageFault) : State :=
  match s.team? tid with
  | none => s
  | some t =>
    let page := (l.asid, pageOf f.va.toNat)
    if t.pages.contains page || t.faults.any (fun x => pageOf x.va.toNat == page.2) then s
    else if t.pages.length < 64 then
      (s.modTeam tid (fun t => { t with pages := t.pages ++ [page] })).recordPage t l f
    else s.modTeam tid (fun t => { t with faults := t.faults ++ [f] })

/-- R168: the fragment parks at its word with its unfinished participants; the missing pages are reported. -/
def Issue.park (x : Issue) (s : State) (todo : Lanes) (fs : List PageFault) : State :=
  let s := fs.foldl (fun s f => s.missPage x.team.id x.la f) s
  x.modF s (fun f =>
    { f with pc := x.pc, todo := some todo, invIn := x.frag.invIn,
             st := .blocked (.parked s.clock ((fs.map (fun p => pageOf p.va.toNat)).eraseDups)) })

/-! ### Checks of a memory word (R168) -/

/-- R413, R415, R416: whether watchpoint i is checked for a fragment: not in its step, nor at the word it stopped at. -/
def Dbg.watches (d : Dbg) (sel : Nat × Nat × Nat × Nat) (i : Nat) : Bool :=
  d.step != some sel && !(d.pass == some sel && d.reason == 4 && d.idx == i)

/-- R413: the first armed watchpoint that an access fires; sp is the space, off the address or scratchpad offset. -/
def State.watched (s : State) (l : Launch) (who : Nat × Nat × Nat × Nat) (sp : Nat) (span idx off n : Nat) (rd wr : Bool) : Option Nat :=
  match s.dbgOf l with
  | none => none
  | some d =>
    if !(s.dbgReg l.part 0x10).getLsbD 0 || s.dbgPerm l.part != 2 then none
    else
      (List.range 4).find? (fun i =>
        let c := s.dbgReg l.part (0xE0 + 8 * i)
        let a := (s.dbgReg l.part (0xC0 + 8 * i)).toNat
        d.watches who i && ((c.getLsbD 0 && rd) || (c.getLsbD 1 && wr)) && field c 9 9 == sp &&
          (sp == 0 || (field c 63 48 == span && field c 47 44 == idx)) &&
          decide (off < a + 2 ^ field c 8 4) && decide (a < off + n))

/-- The issuing fragment as the debug block names it. -/
def Issue.sel (x : Issue) : Nat × Nat × Nat × Nat := (x.team.span, x.team.idx, x.gi, x.frag.ent)

/-- R412, R413: a fragment at a debug event: it stays at its word, its group's trap registers tell the event, and the launch
is to stop; while a stop that does not give way to it is on its way it only waits. -/
def Issue.stopAt (x : Issue) (s : State) (reason idx cause sub : Nat) (tval : Word) : State :=
  (x.modF s (fun f => { f with pc := x.pc, wake := s.clock + 1 })).meetStop x.la x.team.id x.gi
    { reason := reason, idx := idx, at_ := s.clock, frag := some x.sel, age := x.frag.age, pc := x.pc,
      wrote := (BitVec.ofNat 32 (sub * 256 + cause), x.pc, tval) }

/-- The first participant that fires a watchpoint. -/
def Issue.watchHit (x : Issue) (sp : Nat) (place : Nat → Nat × Nat × Nat) (n : Nat) (ps : List (Nat × Word)) (rd wr : Bool) :
    Option (Nat × Word) :=
  ps.findSome? (fun p =>
    let q := place p.1
    (x.s.watched x.la x.sel sp q.1 q.2.1 q.2.2 n rd wr).map (fun i => (i, p.2)))

/-! ### Counts and samples (R421, R424) -/

/-- R439, R441: the positions of the dies that are being reset or are in A3. -/
def State.gone (s : State) : List Nat :=
  ((List.range 8).filter (fun d => s.dieResets.any (fun r => r.die == d) || s.islandSt (3 * d) == 3)).map s.fuses.posOf

/-- R424: the unit number of the link from a position to the one beside it. -/
def linkUnit (p q : Nat) : Nat := if q = p + 1 then 1 else if q = p + 3 then 2 else if q + 1 = p then 3 else 0

/-- R334: the flits of a launch that leave a die in the present window. -/
def State.addFlits (s : State) (seq die n : Nat) : State :=
  let k := 8 * seq + die
  { s with flits := Cells.set 0 s.flits k (Cells.get 0 s.flits k + n) }

/-- R334, R362, R424: a request's way over the die links, counted at the link each die sends it on. -/
def State.countLinks (s : State) (part seq n : Nat) (a b : Nat) : State :=
  let way := s.fuses.posOf a :: s.fuses.route s.gone a b
  (way.zip way.tail).foldl (fun s x =>
    match s.fuses.dieOf x.1 with
    | some d => (s.countAt 3 d (linkUnit x.1 x.2) part n).addFlits seq d (Config.flits n)
    | none => s) s

/-- R424: one lookup of a slice. -/
def State.countSlice (s : State) (part die unit n : Nat) (miss : Bool) : State :=
  let s := s.countAt 0 die unit part n
  if miss then s.bump 0 die unit 3 part 1 else s

/-- R424: the memory controller of its home die takes up a request. -/
def State.countDram (s : State) (part pa n : Nat) : State := s.countAt 4 (homeDie pa) (bits pa 10 8) part n

/-- R344, R424: an access of a core, or of a stream, as the shared units count it, by what serves it (Issue.level): one that misses in the L1
passes the crossbars of its core and looks up the slice of its die, one that this does not serve goes on to its home slice, and one that this
misses to the controller; an access of a peer's memory goes out on its link (log entry 17). -/
def State.countRequest (s : State) (part seq core n : Nat) (c : Loc) (level : Nat) (found : Level) : State :=
  let die := core / 64
  let s := if level = 0 || 8 ≤ die then s else (s.countAt 1 die (core % 64 / 16) part n).countAt 2 die 0 part n
  if level = 0 then s
  else if c.peer != 0 then s.countAt 5 0 (s.peerRoute c.peer c.pa) part n
  else if !inDram c.pa then s
  else
    let u := s.homeSlice c.asid c.va
    let home := homeDie c.pa
    let s := if die = home || 8 ≤ die || found == .l1 then s else s.countSlice part die u n (found == .beyond)
    if level = 1 && die != home then s
    else
      let s := (s.countSlice part home u n (level == 3)).countLinks part seq n (if 8 ≤ die then 0 else die) home
      if level = 3 then s.countDram part c.pa n else s

/-- R421: what serves a participant's access: the L1, a slice of the requester's die, the home slice, DRAM, or a peer. -/
def Issue.level (x : Issue) (s : State) (kind n : Nat) (c : Loc) (t : Tr) : Nat :=
  if c.peer != 0 then 4
  else if kind = 0 && (s.fromL1 x.coreIx c n).isSome then 0
  else if (kind = 0 || kind = 6) && t.found == .slice then 1
  else if (x.s.sliceLine? (homeDie c.pa) c.asid c.va).isSome then 2
  else 3

/-- R421: a sampled access as it sets out. Its record names the launch by SEQ alone, as R421's table has it and R7 does not (DESIGN CHOICE, log
entry 17). -/
def Issue.sampled (x : Issue) (s : State) (kind n l : Nat) (c : Loc) (t : Tr) : Sample :=
  let level := x.level s kind n c t
  let w3 := (if kind = 6 then 0 else kind) * 2 ^ 56 + x.gi * 2 ^ 48 + x.team.idx * 2 ^ 40 + x.team.span * 2 ^ 24 +
    (if c.peer != 0 then 15 else homeDie c.pa) * 2 ^ 20 + level * 2 ^ 16 + l
  { team := x.agent, grp := x.gi, word := x.s.nextId, pend := s.nextId, lane := l,
    head := [x.pc, BitVec.ofNat 64 c.va, BitVec.ofNat 64 x.la.seq, BitVec.ofNat 64 w3], clk := s.clock, die := x.team.die,
    level := level, far := c.peer == 0 && homeDie c.pa != x.team.die }

/-- R421: the accesses of a word are counted by the core; those that make the count a multiple of the sampling interval are sampled.
Kind 6 is an lda, which no L1 serves, and kind 5 a qinit, which is not counted. -/
def Issue.sample (x : Issue) (kind n : Nat) (ps : List (Nat × Loc × Tr)) (s : State) : State :=
  match s.dbgOf x.la with
  | none => s
  | some d =>
    let p := x.la.part
    let ctl := s.dbgReg p 0x168
    let log := field ctl 4 0
    if kind = 5 || s.dbgPerm p = 0 || !ctl.getLsbD 7 || log < 4 || 20 < log then s
    else
      let k := 2 ^ 20 + x.coreIx
      let c0 := Cells.get 0 d.coreCounts k
      let hits := (ps.zipIdx.filter (fun y => (c0 + y.2 + 1) % 2 ^ log == 0)).map Prod.fst
      s.modDbg p (fun d =>
        { d with coreCounts := Cells.set 0 d.coreCounts k (c0 + ps.length),
                 samples := d.samples ++ hits.map (fun y => x.sampled s kind n y.1 y.2.1 y.2.2) })

/-- R413: whether the words of a kind of access read, and whether they write, for a watchpoint; deq tells a dequeue from an enqueue. -/
def watchKinds (kind : Nat) (deq : Bool) : Bool × Bool :=
  match kind with
  | 0 | 6 => (true, false)
  | 1 | 3 => (false, true)
  | 2 => (true, true)
  | 4 => (deq, !deq)
  | _ => (false, false)

/-! ### A word's accesses -/

/-- R168: the checks of a word that names global memory, in order, then its accesses for the participants that pass; those
that meet a replayable fault keep the word parked (a queue word waits for all of them). -/
def Issue.access (x : Issue) (a : Access) (rd queueWord : Bool) (n kind : Nat) (ps : List (Nat × Word))
    (perform : State → List (Nat × Loc × Tr) → Act) : Act :=
  let wr := a == .write
  let watch := watchKinds kind rd
  match ps.find? (fun p => !aligned p.2.toNat n) with
  | some p => .trap { code := cALIGN, tval := p.2 }
  | none =>
    match x.watchHit 0 (fun l => (0, 0, ((ps.find? (fun p => p.1 == l)).map (fun p => p.2.toNat)).getD 0)) n ps watch.1 watch.2 with
    | some (i, va) => .held (fun s => x.stopAt s 4 i cWATCH i va)
    | none =>
      let r := State.reach x.space a rd queueWord n x.s ps
      let bad := r.2.filterMap (fun e => match e.2 with | .error c => some (e.1.1, e.1.2, c) | .ok _ => none)
      let ok := r.2.filterMap (fun e => match e.2 with | .error _ => none | .ok c => some (e.1.1, c.1, c.2))
      let stream := match x.who with | .stream _ => true | _ => false
      match bad.find? (fun b => !replayable b.2.2 || stream) with
      | some (_, va, sub) => .trapIn (x.modF r.1 (fun f => { f with pc := x.pc })) { code := cMEMF, sub := sub, tval := va, tpc := some x.pc }
      | none =>
        let cold := (ok.filter (fun c => c.2.1.peer == 0 && inDram c.2.1.pa && r.1.asleep (homeDie c.2.1.pa))).map (fun c => homeDie c.2.1.pa)
        if !cold.isEmpty then .held (fun s => (cold.foldl State.wakeDie s).retry)
        else
        let dev := ok.any (fun c => c.2.1.mt == 2)
        if dev && x.busy (fun q => q.loc.mt == 2) then .wait
        else if wr && ok.any (fun c => c.2.2.rm && (r.1.replica? c.2.1.asid c.2.1.va).isSome) then
          let s := ok.foldl (fun s c => s.collapseAt c.2.1.asid c.2.1.va) r.1
          .block (if stream then x.rewind s
                  else x.modF s (fun f => { f with pc := x.pc, st := .blocked .collapse, todo := some x.lanes }))
        else
          let faults := bad.map (fun b => (⟨b.2.1, false, false, wr, b.2.2, x.gi⟩ : PageFault))
          if ok.isEmpty || (queueWord && !bad.isEmpty) then .block (x.park r.1 x.lanes faults)
          else
            let s := ok.foldl (fun s c => s.countRequest x.la.part x.la.seq x.coreIx n c.2.1 (x.level r.1 kind n c.2.1 c.2.2) c.2.2.found) r.1
            let s := x.sample kind n ok s
            match perform s ok with
            | .done s =>
              if bad.isEmpty then .done s
              else .block (x.park s (laneSet 64 (fun l => bad.any (fun b => b.1 == l))) faults)
            | r => r

/-! ### Reaching home -/

/-- The accesses of a word set out for their homes. -/
def State.sendHome (s : State) (ops : List HomeOp) : State :=
  { s with homeOps := s.homeOps ++ ops.zipIdx.map (fun y => { y.1 with id := s.nextId + y.2 }), nextId := s.nextId + ops.length }

/-- Two byte ranges overlap. -/
def overlaps (a n b m : Nat) : Bool := decide (a < b + m) && decide (b < a + n)

def HomeFn.isQueue : HomeFn → Bool
  | .enq .. => true
  | .deq .. => true
  | _ => false

/-- R167, R185, R280, R281 (log entry 29): an earlier access q of the same group holds back p: same bytes, or a fence before p, or device
order; and of an earlier word also a release's earlier accesses or a value q still has to obtain. Queue operations of
different words at one header are ordered only by the bank. -/
def HomeOp.holds (q p : HomeOp) : Bool :=
  let meet := q.lanes &&& p.lanes != 0
  (q.loc.asid == p.loc.asid && overlaps q.loc.va q.n p.loc.va p.n && !q.fn.isMark && !p.fn.isMark &&
    !(q.fn.isQueue && p.fn.isQueue && q.word != p.word)) ||
  (q.word != p.word && (q.lanes &&& p.rel != 0 || q.pend.isSome && meet)) || (q.fn.isMark && meet) ||
    (q.loc.mt == 2 && p.loc.mt == 2 && meet)

/-- An access may reach its home: the home is awake (R441), and nothing earlier of its group holds it back. A fence's mark has no
home. -/
def State.mayLand (s : State) (p : HomeOp) : Bool :=
  (p.fn.isMark || p.loc.peer != 0 || !inDram p.loc.pa || !s.asleep (homeDie p.loc.pa)) &&
    s.homeOps.all (fun q => !(q.team == p.team && q.grp == p.grp && decide (q.id < p.id) && q.holds p))

/-- R284: a store registers; its core keeps the words. -/
def State.register (s : State) (p : HomeOp) (bs : List Byte) : State := (s.writeHome p.loc bs).install1 p.core p.loc

/-! ### Bank arithmetic (R174-R176, R181) -/

/-- R176: bank arithmetic rounds to nearest even and keeps subnormals. -/
def bankRounding : Rounding := { rm := .rne, dith := 0, ftz := false }

/-- An operation on FP32 patterns, or on both BF16 halves. -/
def bankFp (f : FFmt) (op : FFmt → Rounding → List FVal → Nat × BitVec 6) (xs : List Nat) : Nat :=
  (op f bankRounding (xs.map (unpack f false))).1

def bankHalves (op : FFmt → Rounding → List FVal → Nat × BitVec 6) (xs : List Nat) : Nat :=
  bankFp .bf16 op (xs.map (fun x => x % 2 ^ 16)) + 2 ^ 16 * bankFp .bf16 op (xs.map (fun x => x / 2 ^ 16 % 2 ^ 16))

/-- The smaller or larger by signed or unsigned order at a width. -/
def pickInt (w : Nat) (signed isMin : Bool) (m x : Nat) : Nat :=
  let lt := if signed then decide (sInt w x < sInt w m) else decide (x < m)
  let gt := if signed then decide (sInt w m < sInt w x) else decide (m < x)
  if (if isMin then lt else gt) then x else m

/-- R174: a bank reduction of n bytes. -/
def bredNew (op : BredOp) (n m x : Nat) : Nat :=
  match op with
  | .add => (m + x) % 2 ^ (8 * n)
  | .smin => pickInt (8 * n) true true m x
  | .smax => pickInt (8 * n) true false m x
  | .umin => pickInt (8 * n) false true m x
  | .umax => pickInt (8 * n) false false m x
  | .fadd => bankFp .f32 addOp [m, x]
  | .bfadd => bankHalves addOp [m, x]

/-- R175: a bank scale-and-add. -/
def bupdNew (op : BupdOp) (m x a : Nat) : Nat :=
  match op with
  | .f32 => bankFp .f32 fmaOp [m, a, x]
  | .bf16x2 => bankHalves fmaOp [m, a, x]
  | .z32 => (m * a + x) % 2 ^ 32

/-- R181: an atomic's new value; for .cas, x is the compared value and x2 the new one. -/
def atomNew (op : AtomOp) (n m x x2 : Nat) : Nat :=
  match op with
  | .exch => x
  | .cas => if m = x then x2 else m
  | .add => (m + x) % 2 ^ (8 * n)
  | .and => m &&& x
  | .or => m ||| x
  | .xor => m ^^^ x
  | .smin => pickInt (8 * n) true true m x
  | .smax => pickInt (8 * n) true false m x
  | .umin => pickInt (8 * n) false true m x
  | .umax => pickInt (8 * n) false false m x
  | .fadd => bankFp .f32 addOp [m, x]

/-! ### Results -/

/-- R166: what a load writes. -/
def loadWrites (sz : Sz) (d : Opr) (l v : Nat) : List RegWrite :=
  let ext (k : Nat) : Nat := match sz with | .i8 => (sext v 8).toNat % 2 ^ k | .i16 => (sext v 16).toNat % 2 ^ k | _ => v
  match d with
  | .s n => [⟨.s n.val, BitVec.ofNat 64 (ext 64)⟩]
  | .v n => (List.range sz.regs).map (fun j => ⟨.v (n.val + j) l, zext (ext 32 / 2 ^ (32 * j)) 32⟩)

/-- A participant's value reaches the result of its word (R169). -/
def State.giveResult (s : State) (p : HomeOp) (ws : List RegWrite) : State :=
  match p.pend with
  | none => s
  | some k =>
    s.modGroup p.team p.grp (fun g =>
      { g with pend := g.pend.map (fun r => if r.id = k then { r with writes := r.writes ++ ws, left := r.left - 1 } else r) })

/-- The lanes a status predicate or a uniform word's result is written in. -/
def HomeOp.statusWrites (p : HomeOp) (pred : Nat) (ok : Bool) : List RegWrite :=
  if pred = 0 then []
  else
    (match p.lane with | some l => [l] | none => laneList 64 p.lanes).map (fun l => ⟨.p pred l, if ok then 1 else 0⟩)

/-! ### Queues (R177-R180) -/

/-- R180: the fragment waits at a .wait queue word. -/
def Frag.atQueue (f : Frag) : Bool :=
  match f.st with
  | .blocked (.queue ..) => true
  | _ => false

/-- R180: a served participant of a .wait word leaves it; once none is left the fragment goes on. -/
def State.served (s : State) (p : HomeOp) : State :=
  s.modFrag p.team p.grp p.ent (fun f =>
    if !f.atQueue || f.pc != p.pc then f
    else
      let gone : Lanes := match p.lane with | some l => laneBit l | none => p.lanes
      let left := (f.todo.getD 0) &&& ~~~gone
      if left = 0 then { f with pc := nextPc f.pc, st := .ready, wake := s.clock + 1, todo := none }
      else { f with todo := some left })

/-- R179: an enqueue that finds room, or not. -/
def State.enqueue (s : State) (q : Queue) (p : HomeOp) (x : Nat) (wait : Bool) (pred : Nat) : State :=
  let tail := s.queueWord q 0x10
  if s.queueCount q < q.cap then
    let s := (s.setQueueWord q (64 + 8 * (tail % q.cap)) x).setQueueWord q 0x10 (tail + 1)
    let s := s.giveResult p (p.statusWrites pred true)
    if wait then s.served p else s
  else s.giveResult p (p.statusWrites pred false)

/-- R179: a dequeue that finds an entry, or not; one that succeeds is an acquire. -/
def State.dequeue (s : State) (q : Queue) (p : HomeOp) (d : Opr) (wait : Bool) (pred : Nat) : State :=
  let head := s.queueWord q 8
  let sz : Sz := if p.n = 4 then .b32 else .b64
  let lane := p.lane.getD 0
  if s.queueCount q = 0 then s.giveResult p (loadWrites sz d lane 0 ++ p.statusWrites pred false)
  else
    let v := s.queueWord q (64 + 8 * (head % q.cap))
    let s := (s.setQueueWord q 8 (head + 1)).acquire p.core
    let s := s.giveResult p (loadWrites sz d lane (if p.n = 4 then v % 2 ^ 32 else v) ++ p.statusWrites pred true)
    if wait then s.served p else s

/-! ### Performing -/

/-- An access leaves the list of those on their way. -/
def State.landed (s : State) (p : HomeOp) : State := { s with homeOps := s.homeOps.filter (fun q => q.id != p.id) }

/-- R290, R405: what an operation asks of a peer's bank. -/
def HomeFn.peer : HomeFn → PeerFn
  | .store bs => .write bs
  | .red op x => .red op x
  | .bfma op x a => .bfma op x a
  | .atom op x x2 _ _ => .atom op x x2
  | .mark => .read
  | .enq .. => .read
  | .deq .. => .read

/-- R286, R290: a read, modify and write of n bytes at the home bank, which a peer's bank is asked for; the core keeps the
words. -/
def State.bankRmw (s : State) (p : HomeOp) (f : Nat → Nat) : State × Nat :=
  let c := p.loc
  if c.peer != 0 then
    let s := s.peerTouch c.peer c.pa p.n
    let m := leNat (s.homeBytes c p.n)
    (((s.setPeer c.peer c.pa (leBytes p.n (f m))).sendPeer c.peer c.pa p.n p.fn.peer).install1 p.core c, m)
  else
    let m := leNat (s.homeBytes c p.n)
    ((s.writeHome c (leBytes p.n (f m))).install1 p.core c, m)

/-- R169, R366, R436, R439: an access that cannot be performed at its home traps MEMF at its issuer, once the group's other accesses are
performed; its result lacks it no longer. -/
def State.accessFault (s : State) (p : HomeOp) (sub : Nat) : State :=
  let s := s.giveResult p []
  let va := BitVec.ofNat 64 p.loc.va
  if p.team < 2 ^ 32 then s.terminate p.team p.grp p.ent cMEMF sub p.pc va
  else s.takeTrap (.stream (p.team - 2 ^ 32)) { code := cMEMF, sub := sub, tval := va, tpc := some p.pc }

/-- R286: what an access does at its home. The freedoms of R183 and R287 are not used: no two atomics or bank operations are combined or merged,
and none is performed ahead of an earlier acquire (DESIGN CHOICE, log entry 84). -/
def State.performHome (s : State) (p : HomeOp) : State :=
  match p.fn with
  | .store bs => (s.register p bs).giveResult p []
  | .mark => s
  | .red op x => (s.bankRmw p (fun m => bredNew op p.n m x)).1
  | .bfma op x a => (s.bankRmw p (fun m => bupdNew op m x a)).1
  | .atom op x x2 ret d =>
    let r := s.bankRmw p (fun m => atomNew op p.n m x x2)
    let s := if p.acq then r.1.acquire p.core else r.1
    if ret then
      s.giveResult p ((match p.lane with | some l => [l] | none => laneList 64 p.lanes).flatMap (fun l =>
        if p.n = 8 then vPair d l r.2 else [⟨.v d l, zext r.2 32⟩]))
    else s
  | .enq x w pred =>
    match s.queueAt p.loc with
    | some q => s.enqueue q p x w pred
    | none => s.accessFault p 1
  | .deq d w pred =>
    match s.queueAt p.loc with
    | some q => s.dequeue q p d w pred
    | none => s.accessFault p 1

/-- An access on its way, by its number. -/
def State.homeOp? (s : State) (k : Nat) : Option HomeOp := s.homeOps.find? (fun p => p.id == k)

/-- R289: the entry of a read-mostly page that an access must first see collapsed. -/
def State.replicaOf (s : State) (p : HomeOp) : Option Replica :=
  if p.fn.isMark || p.loc.peer != 0 then none else s.replica? p.loc.asid p.loc.va

/-- R436: an operation whose bank has to read a poisoned line: its own bytes, or the header and the entry of its queue. -/
def State.badHome (s : State) (p : HomeOp) : Bool :=
  match p.fn with
  | .store _ | .mark => false
  | .enq .. => (s.queueAt p.loc).any (fun q => s.poisonedAt (q.place 0).1 64)
  | .deq .. =>
    (s.queueAt p.loc).any (fun q =>
      s.poisonedAt (q.place 0).1 64 || (s.queueCount q != 0 && s.poisonedAt (q.place (64 + 8 * (s.queueWord q 8 % q.cap))).1 8))
  | _ => p.loc.peer == 0 && s.poisonedAt p.loc.pa p.n

/-- R278, R284, R286: an access that nothing holds back may reach its home, or start the collapse of the page's replicas. -/
def State.landReady (s : State) (p : HomeOp) : Bool :=
  s.mayLand p && (s.badHome p || !s.mustWait p) && (match s.replicaOf p with | some r => !r.collapse | none => true)

/-- R278, R284, R286, R289: an access that nothing holds back reaches its home; replicas of its page collapse first, and one that finds no
link to its peer (R407) or a poisoned line to read (R436) traps. -/
def State.land (s : State) (p : HomeOp) : State :=
  if !s.landReady p then s
  else if (s.replicaOf p).isSome then s.collapseAt p.loc.asid p.loc.va
  else if p.loc.peer != 0 && !p.fn.isMark && !s.peerOk p.loc.peer then (s.landed p).accessFault p 0x40
  else if s.badHome p then (s.landed p).accessFault p 0x50
  else (s.landed p).performHome p

/-! ### Instruction fetch (R355) -/

/-- R355: a fetch translates as one read with the X check; a poisoned line or a die in reset faults. -/
def State.fetch (s : State) (sp : Space) (pc : Word) : State × Except Nat Word :=
  match s.reach1 sp .fetch true false 8 pc with
  | (s, .error e) => (s, .error e)
  | (s, .ok (c, _)) => (s, .ok (BitVec.ofNat 64 (leNat (s.homeBytes c 8))))

end Sys2Proof.Machine
end

