-- ==== Sys2Proof/Machine/Control.lean ====
section
/-! DEFINITION. The split table with its join records and held queue (R140-R146), and the control instructions bra, jmp,
call, ret, regang and exit (R147-R154). -/

namespace Sys2Proof.Machine

open Host (Outcome)

/-! ### Ranks, entries and records -/

/-- R142: the ages of a group's fragments and held items. -/
def Group.ages (g : Group) : List Nat := g.frags.map Frag.age ++ g.held.map Held.age

/-- R142: ranks close up and keep their order. -/
def Group.rerank (g : Group) : Group :=
  let below (a : Nat) : Nat := (g.ages.filter (fun b => decide (b < a))).length
  { g with frags := g.frags.map (fun f => { f with age := below f.age }),
           held := g.held.map (fun h => { h with age := below h.age }) }

/-- The free entries of the split table. -/
def Group.freeEnts (g : Group) : List Nat := (List.range 8).filter (fun e => !(g.frags.any (fun f => f.ent == e)))

/-- R142: the next rank after every existing one. -/
def Group.nextAge (g : Group) : Nat := g.frags.length + g.held.length

/-- R140: a ready fragment. -/
def newFrag (ent : Nat) (mask : Lanes) (pc : Word) (join : Option Nat) (age now wake : Nat) : Frag :=
  { ent := ent, mask := mask, pc := pc, join := join, age := age, st := .ready, wake := wake, last := now, todo := none,
    invIn := none }

/-- The held item of the oldest rank. -/
def oldestHeld (hs : List Held) : Option Held :=
  hs.find? (fun h => hs.all (fun k => decide (h.age ≤ k.age)))

/-- R145: held items take freed entries, the oldest rank first. -/
def Group.placeHeld (now : Nat) : Nat → Group → Group
  | 0, g => g
  | fuel + 1, g =>
    match oldestHeld g.held, g.freeEnts with
    | some h, e :: _ =>
      let g' : Group :=
        { g with frags := g.frags ++ [newFrag e h.mask h.pc h.join h.age now (max (now + 1) h.wake)],
                 held := g.held.filter (fun k => k.age != h.age) }
      g'.placeHeld now fuel
    | _, _ => g

/-- After entries have been freed: ranks close up and held items are placed. -/
def Group.tidy (now : Nat) (g : Group) : Group := g.rerank.placeHeld now 8

def Group.join? (g : Group) (j : Nat) : Option Join := g.joins.find? (fun x => x.id == j)

def Group.modJoin (g : Group) (j : Nat) (f : Join → Join) : Group :=
  { g with joins := g.joins.map (fun x => if x.id = j then f x else x) }

/-- R141: the number of a free join record. R141 says that one is always free; with none, the last number (log entry 72). -/
def Group.freeJoin (g : Group) : Nat :=
  ((List.range 16).find? (fun j => !(g.joins.any (fun x => x.id == j)))).getD 15

/-- A record is freed; what named it names its parent. -/
def Group.dropJoin (g : Group) (j : Join) : Group :=
  let up (x : Option Nat) : Option Nat := if x = some j.id then j.parent else x
  { g with joins := (g.joins.filter (fun x => x.id != j.id)).map (fun x => { x with parent := up x.parent }),
           frags := g.frags.map (fun f => { f with join := up f.join }),
           held := g.held.map (fun h => { h with join := up h.join }) }

/-- A record and its ancestors. -/
def Group.chainOf (g : Group) : Nat → Option Nat → List Nat
  | 0, _ => []
  | _, none => []
  | fuel + 1, some j => j :: g.chainOf fuel ((g.join? j).bind Join.parent)

/-- The oldest of a set of fragments. -/
def oldestOf (fs : List Frag) : Option Frag := fs.find? (fun f => fs.all (fun k => decide (f.age ≤ k.age)))

/-- R143, R147, R152: fragments fuse into the entry of the oldest of them, ready from the next cycle, or later if the STALL of
the word at which one of them arrived has not run out. -/
def Group.fuse (now : Nat) (parts : List Frag) (mask : Lanes) (pc : Word) (join : Option Nat) (g : Group) : Group :=
  match oldestOf parts with
  | none => g
  | some k =>
    let gone (f : Frag) : Bool := parts.any (fun p => p.ent == f.ent) && f.ent != k.ent
    let wake := parts.foldl (fun w f => max w f.wake) (now + 1)
    let kept := (g.frags.filter (fun f => !gone f)).map (fun f =>
      if f.ent = k.ent then { f with mask := mask, pc := pc, join := join, st := .ready, wake := wake } else f)
    ({ g with frags := kept } : Group).tidy now

/-- The set of lanes of fragments. -/
def masksOf (fs : List Frag) : Lanes := fs.foldl (fun m f => m ||| f.mask) 0

/-- The deepest record of one chain that is in every other. -/
def commonAncestor (chains : List (List Nat)) : Option Nat :=
  match chains with
  | [] => none
  | c :: rest => c.find? (fun j => rest.all (fun d => d.contains j))

/-- R143, R144, R152: a record whose EXPECT is empty is freed, and one whose expected lanes have all arrived fuses its
fragments; fused lanes of a regang leave the records they pass through, which are then tested in turn. -/
def Group.settleJoin (now : Nat) : Nat → Nat → Group → Group
  | 0, _, g => g
  | fuel + 1, jid, g =>
    match g.join? jid with
    | none => g
    | some j =>
      if j.expect = 0 then g.dropJoin j
      else if !j.regang then
        let parts := g.frags.filter (fun f => f.st == .atJoin && f.join == some jid)
        if j.arrived = j.expect && !parts.isEmpty then (g.dropJoin j).fuse now parts j.arrived j.rc j.parent else g
      else if j.expect &&& ~~~j.arrived = 0 then
        let parts := g.frags.filter (fun f => f.st == .atRegang && f.pc == j.rc)
        let chains := parts.map (fun f => g.chainOf 16 f.join)
        let anc := commonAncestor chains
        let passed (c : List Nat) : List Nat := c.takeWhile (fun k => some k != anc)
        let touched := ((chains.map passed).flatten).eraseDups
        let g := g.dropJoin j
        let g : Group :=
          { g with joins := g.joins.map (fun x =>
              let m := masksOf ((parts.zip chains).filter (fun p => (passed p.2).contains x.id) |>.map Prod.fst)
              { x with expect := x.expect &&& ~~~m, arrived := x.arrived &&& ~~~m }) }
        let g := g.fuse now parts (masksOf parts) (nextPc j.rc) anc
        touched.foldl (fun g k => Group.settleJoin now fuel k g) g
      else g

/-- R144: lanes exit. -/
def Group.exitLanes (now : Nat) (m : Lanes) (g : Group) : Group :=
  let js := g.joins.map Join.id
  let g : Group :=
    { g with exited := g.exited ||| (m &&& g.launched),
             joins := g.joins.map (fun j => { j with expect := j.expect &&& ~~~m, arrived := j.arrived &&& ~~~m }),
             frags := (g.frags.map (fun f => { f with mask := f.mask &&& ~~~m })).filter (fun f => f.mask != 0),
             held := (g.held.map (fun h => { h with mask := h.mask &&& ~~~m })).filter (fun h => h.mask != 0) }
  (js.foldl (fun g j => g.settleJoin now 16 j) g).tidy now

/-- R144: every launched lane has exited. -/
def Group.ended (g : Group) : Bool := g.launched &&& ~~~g.exited == 0

/-- R143: a ready fragment stands at its own join record's reconvergence address. -/
def Group.atRc (g : Group) (f : Frag) : Bool :=
  match f.join.bind g.join? with
  | some j => f.st == .ready && !j.regang && j.rc == f.pc
  | none => false

/-- R143: a fragment arrives at its join record. -/
def Group.arrive (now : Nat) (f : Frag) (g : Group) : Group :=
  match f.join with
  | none => g
  | some j =>
    ((g.modJoin j (fun x => { x with arrived := x.arrived ||| f.mask })).modFrag f.ent
      (fun f => { f with st := .atJoin })).settleJoin now 16 j

/-! ### Dividing a fragment (R145) -/

/-- R145: the parts a word makes beside the one that keeps the entry can be placed. -/
def Group.room (g : Group) (n : Nat) : Bool := decide (n ≤ g.freeEnts.length + (8 - g.held.length))

/-- One new part: a free entry, or the held queue. -/
def Group.addPart (now wake : Nat) (join : Option Nat) (g : Group) (part : Lanes × Word) : Group :=
  match g.freeEnts with
  | e :: _ => { g with frags := g.frags ++ [newFrag e part.1 part.2 join g.nextAge now wake] }
  | [] => { g with held := g.held ++ [⟨part.1, part.2, join, g.nextAge, wake⟩] }

/-- The issuing fragment takes a mask, a PC and a join record. -/
def Issue.keep (x : Issue) (s : State) (mask : Lanes) (pc : Word) (join : Option Nat) : State :=
  x.modF s (fun f => { f with mask := mask, pc := pc, join := join })

/-- The lanes of the fragment that a control word does not take. -/
def Issue.rest (x : Issue) : Lanes := x.frag.mask &&& ~~~x.lanes

/-- The cycle from which a part that leaves the word may issue (R147). -/
def Issue.wake (x : Issue) (h : Hdr) : Nat := x.s.clock + max h.stall.toNat 1

/-- R423: the new fragments and held items of a division are counted. -/
def Issue.countParts (x : Issue) (s : State) (n : Nat) : State :=
  let k := min n x.grp.freeEnts.length
  (s.tally x.team 10 k).tally x.team 11 (n - k)

/-- R148: the taken lanes go to the target and the rest to the next word, with rc the reconvergence address or none;
pre is done once the word issues. A stream jumps (R323). -/
def Issue.branch (x : Issue) (h : Hdr) (target : Word) (rc : Option Word) (pre : State → State) : Act :=
  match x.who with
  | .stream n => .done ((pre x.s).modStream n (fun y => { y with pc := target }))
  | _ =>
    if x.rest = 0 then .done (x.modF (pre x.s) (fun f => { f with pc := target }))
    else if !x.grp.room 1 then .wait
    else
      let cur := x.frag.join.bind x.grp.join?
      let fresh := rc.isSome && rc != cur.map Join.rc
      let id := x.grp.freeJoin
      let j := if fresh then some id else x.frag.join
      let s := x.keep (x.countParts (pre x.s) 1) x.rest (nextPc x.pc) j
      .done (x.modG s (fun g =>
        let g : Group :=
          if fresh then { g with joins := g.joins ++ [⟨id, false, rc.getD 0, x.frag.mask, 0, x.frag.join⟩] } else g
        g.addPart x.s.clock (x.wake h) j (x.lanes, target)))

/-- The lanes of each target, in ascending order of their lowest lane. -/
def byTarget : List (Nat × Word) → List (Lanes × Word)
  | [] => []
  | (l, t) :: rest =>
    let r := byTarget rest
    match r.find? (fun p => p.2 == t) with
    | some p => (p.1 ||| laneBit l, t) :: r.filter (fun p => p.2 != t)
    | none => (laneBit l, t) :: r

/-- R149, R151: the taken lanes divided by target; exits are lanes that leave the group instead. -/
def Issue.divide (x : Issue) (h : Hdr) (targets : List (Nat × Word)) (exits : Lanes) (pre : State → State) : Act :=
  match targets.find? (fun t => field t.2 2 0 != 0) with
  | some t => .trap { code := cALIGN, tval := t.2 }
  | none =>
    let parts := byTarget targets
    let fresh := if x.rest = 0 then parts.drop 1 else parts
    if !x.grp.room fresh.length then .wait
    else
      let s := x.countParts (pre x.s) fresh.length
      let s :=
        if x.rest = 0 then
          match parts with
          | p :: _ => x.keep s p.1 p.2 x.frag.join
          | [] => x.keep s exits x.pc x.frag.join
        else x.keep s x.rest (nextPc x.pc) x.frag.join
      .done (x.modG s (fun g =>
        let g := fresh.foldl (Group.addPart x.s.clock (x.wake h) x.frag.join) g
        if exits = 0 then g else g.exitLanes x.s.clock exits))

/-- R22: the address an offset of words from the next word names. -/
def relTarget (pc : Word) (off w : Nat) : Word := nextPc pc + sext off w * 8

/-- R22: the reconvergence address of an FB word. -/
def rcTarget (pc : Word) (rc : BitVec 15) : Option Word := if rc = 0 then none else some (relTarget pc rc.toNat 15)

/-! ### The instructions -/

/-- R148. -/
def execBra (h : Hdr) (off : BitVec 24) (rc : BitVec 15) (s : State) : Outcome State Fault Refusal :=
  word (.bra h off rc) s fun x => x.branch h (relTarget x.pc off.toNat 24) (rcTarget x.pc rc) id

/-- R149: with an s register the word is uniform. -/
def execJmp (h : Hdr) (a : Opr) (s : State) : Outcome State Fault Refusal :=
  word (.jmp h a) s fun x =>
    match a with
    | .s n =>
      let t := x.sreg n
      if field t 2 0 != 0 then .trap { code := cALIGN, tval := t } else x.branch h t none id
    | .v n => x.divide h (x.lanesList.map (fun l => (l, BitVec.ofNat 64 (x.opnd 64 (.v n) l)))) 0 id

/-- R150: the offset of the return slot of a depth in lane memory of L bytes. -/
def retSlot (L depth : Nat) : Nat := L - 8 * depth

/-- Bytes of one lane's lane memory. -/
def Group.lmemBytes (g : Group) (l ofs n : Nat) : List Byte :=
  (List.range n).map (fun j => Cells.get 0 g.lmem (4096 * l + ofs + j))

def Group.setLmem (l : Nat) : Nat → List Byte → Group → Group
  | _, [], g => g
  | ofs, b :: rest, g => Group.setLmem l (ofs + 1) rest { g with lmem := Cells.set 0 g.lmem (4096 * l + ofs) b }

def Group.depthOf (g : Group) (l : Nat) : Nat := Cells.get 0 g.depth l

/-- R150: a lane pushes a return address. -/
def Group.push (L : Nat) (ret : Word) (g : Group) (l : Nat) : Group :=
  let d := g.depthOf l + 1
  Group.setLmem l (retSlot L d) (leBytes 8 ret.toNat) { g with depth := Cells.set 0 g.depth l d }

/-- R150: a full stack traps before any lane pushes. -/
def execCall (h : Hdr) (off : BitVec 24) (rc : BitVec 15) (s : State) : Outcome State Fault Refusal :=
  word (.call h off rc) s fun x =>
    let L := x.la.r.lmemBytes
    match x.lanesList.find? (fun l => decide (L / 8 ≤ x.grp.depthOf l)) with
    | some l => .trap { code := cMEMF, sub := 1, tval := BitVec.ofNat 64 l }
    | none =>
      x.branch h (relTarget x.pc off.toNat 24) (rcTarget x.pc rc)
        (fun s => x.modG s (fun g => x.lanesList.foldl (Group.push L (nextPc x.pc)) g))

/-- R153: some v register is pending for one of the lanes. -/
def Group.pendsLanes (g : Group) (m : Lanes) : Bool :=
  g.pend.any (fun p => p.regs.any (fun r => match r with | .v _ ls => ls &&& m != 0 | _ => false))

/-- R151: lanes at depth 0 exit, the others return to their popped addresses. -/
def execRet (h : Hdr) (s : State) : Outcome State Fault Refusal :=
  word (.ret h) s fun x =>
    let L := x.la.r.lmemBytes
    let back := x.lanesList.filter (fun l => x.grp.depthOf l != 0)
    let exits := laneSet x.W (fun l => x.lanes.getLsbD l && x.grp.depthOf l == 0)
    if x.grp.pendsLanes exits then .wait
    else
      x.divide h
        (back.map (fun l => (l, BitVec.ofNat 64 (leNat (x.grp.lmemBytes l (retSlot L (x.grp.depthOf l)) 8))))) exits
        (fun s => x.modG s (fun g =>
          back.foldl (fun g l => { g with depth := Cells.set 0 g.depth l (g.depthOf l - 1) }) g))

/-- R152: the lanes a new regang record expects. -/
def Issue.regangLanes (x : Issue) (m : Option (Fin 64)) : Lanes :=
  let live := x.grp.launched &&& ~~~x.grp.exited
  match m with
  | some a => x.sreg a &&& live
  | none => live

/-- R152: the whole fragment arrives, whatever lanes are taken. -/
def execRegang (h : Hdr) (mask : Option (Fin 64)) (s : State) : Outcome State Fault Refusal :=
  word (.regang h mask) s fun x =>
    let s := x.modF x.s (fun f => { f with pc := x.pc, st := .atRegang })
    .done (x.modG s (fun g =>
      let found := g.joins.find? (fun j => j.regang && j.rc == x.pc)
      let id := (found.map Join.id).getD g.freeJoin
      let g : Group :=
        match found with
        | some _ => g
        | none => { g with joins := g.joins ++ [⟨id, true, x.pc, x.regangLanes mask, 0, none⟩] }
      (g.modJoin id (fun j =>
        { j with expect := j.expect ||| x.frag.mask, arrived := j.arrived ||| x.frag.mask })).settleJoin x.s.clock 16 id))

/-- R153, and R323 for a stream, which becomes idle. -/
def execExit (h : Hdr) (s : State) : Outcome State Fault Refusal :=
  word (.exit h) s fun x =>
    match x.who with
    | .stream n => .done (x.s.modStream n (fun y => { y with st := .idle, pc := x.pc }))
    | _ =>
      if x.grp.pendsLanes x.lanes then .wait
      else .done (x.modG x.s (fun g => g.exitLanes x.s.clock x.lanes))

end Sys2Proof.Machine
end

