-- ==== Sys2Proof/Machine/Memory.lean ====
section
/-! DEFINITION. The memory instructions (R164-R184): loads and stores, acquire and release forms, prefetch, lane memory,
scratchpad windows, bank operations, queues, atomics and fences. -/

namespace Sys2Proof.Machine

open Host (Outcome)

/-- R166: the datum a store sends: the low n bytes of its register, pair or quad. -/
def Issue.datum (x : Issue) (d : Opr) (n l : Nat) : Nat :=
  match d with
  | .s k => (x.sreg k).toNat % 2 ^ (8 * n)
  | .v k => ((List.range (max 1 (n / 4))).foldl (fun v j => v + x.vreg (k.val + j) l * 2 ^ (32 * j)) 0) % 2 ^ (8 * n)

/-- R165: the word acts once. -/
def actsOnce (m : Mem) (d : Opr) : Bool := m.idx.isNone && d.isS

/-- One participant's access on its way to its home. -/
def Issue.homeOp (x : Issue) (once : Bool) (l : Nat) (c : Loc) (n : Nat) (fn : HomeFn) (rel acq : Bool) (pend : Option Nat)
    (due : Nat) : HomeOp :=
  { id := 0, word := x.s.nextId, team := x.agent, grp := x.gi, ent := x.frag.ent, core := x.coreIx, pc := x.pc,
    lane := if once then none else some l, lanes := x.agentLanes once l, rel := if rel then x.frag.mask else 0, acq := acq,
    loc := c, n := n, fn := fn, pend := pend, due := due }

/-- R166: the accesses by which a participant's bytes are stored: each naturally aligned unit of 8 bytes is one, and so is a store of
fewer. -/
def Issue.storeOps (x : Issue) (once : Bool) (l : Nat) (c : Loc) (bs : List Byte) (rel : Bool) (pend : Option Nat) (due : Nat) : List HomeOp :=
  (List.range ((bs.length + 7) / 8)).map (fun j =>
    let own := (bs.drop (8 * j)).take 8
    x.homeOp once l { c with va := c.va + 8 * j, pa := c.pa + 8 * j } own.length (.store own) rel false pend due)

/-- R176, R179, R281: an operation of the fragment at its home bank still concerns bytes that the word reads: those it names,
or, for a queue operation, any of its queue's header and entries. -/
def Issue.bankPending (x : Issue) (n : Nat) (ps : List (Nat × Word)) : Bool :=
  x.busy (fun q => ps.any (fun p =>
    match q.fn with
    | .store _ | .mark => false
    | .enq .. | .deq .. =>
      (match x.s.queueAt q.loc with | some y => y.covers x.space.asid p.2.toNat n | none => false)
    | _ => overlaps q.loc.va q.n p.2.toNat n))

/-- R170: a load; acq makes it an acquire, which is never served by an unowned copy. -/
def Issue.load (x : Issue) (d : Opr) (m : Mem) (sz : Sz) (ofs : BitVec 9) (acq : Bool) : Act :=
  let once := actsOnce m d
  let n := sz.bytes
  let ps := x.parts once (x.addr m ofs.toInt n)
  if x.acquiring || x.bankPending n ps || (acq && x.busy HomeOp.syncs) then .wait
  else
    x.access .read true false n (if acq then 6 else 0) ps fun s ok =>
      let s := if acq then x.acquired s else s
      let r := ok.foldl (fun (r : State × List RegWrite × Nat) p =>
        let b := r.1.loadBytes x.agent x.gi x.coreIx (x.agentLanes once p.1) p.2.1 n (!acq)
        let s := if b.2.2 then b.1 else b.1.tally x.team 6 1
        (s, r.2.1 ++ loadWrites sz d p.1 (leNat b.2.1),
          max r.2.2 (if b.2.2 then 20 else if p.2.2.found = .slice then 90 else s.homeTime x.space.die p.2.1))) (s, [], 0)
      .done (x.variable r.1 (pendRegs (laneSet 64 (fun l => ok.any (fun p => p.1 == l))) (d.ref sz.regs)) r.2.1 0 0
        (x.s.clock + r.2.2) false)

/-- R170: a store; rel makes it a release. -/
def Issue.store (x : Issue) (d : Opr) (m : Mem) (sz : Sz) (ofs : BitVec 9) (rel : Bool) : Act :=
  let once := actsOnce m d
  let n := sz.bytes
  if x.acquiring || (rel && x.engineOps) then .wait
  else
    x.access .write false false n 1 (x.parts once (x.addr m ofs.toInt n)) fun s ok =>
      .done (s.sendHome (ok.flatMap (fun p =>
        x.storeOps once p.1 p.2.1 (leBytes n (x.datum d n p.1)) rel none (s.clock + s.homeTime x.space.die p.2.1))))

/-- R170: ld. -/
def execLd (h : Hdr) (d : Opr) (m : Mem) (sz : Sz) (ofs : BitVec 9) (s : State) : Outcome State Fault Refusal :=
  word (.ld h d m sz ofs) s fun x => x.load d m sz ofs false

/-- R170: st. -/
def execSt (h : Hdr) (d : Opr) (m : Mem) (sz : Sz) (ofs : BitVec 9) (s : State) : Outcome State Fault Refusal :=
  word (.st h d m sz ofs) s fun x => x.store d m sz ofs false

/-- R170: lda. -/
def execLda (h : Hdr) (d : Opr) (m : Mem) (sz : Sz) (ofs : BitVec 9) (s : State) : Outcome State Fault Refusal :=
  word (.lda h d m sz ofs) s fun x => x.load d m sz ofs true

/-- R170: str. -/
def execStr (h : Hdr) (d : Opr) (m : Mem) (sz : Sz) (ofs : BitVec 9) (s : State) : Outcome State Fault Refusal :=
  word (.str h d m sz ofs) s fun x => x.store d m sz ofs true

/-- R171, R281: pf requests lines and drops every participant that would fault, or whose page is a device's. -/
def execPf (h : Hdr) (m : Mem) (sz : Sz) (ofs : BitVec 9) (s : State) : Outcome State Fault Refusal :=
  word (.pf h m sz ofs) s fun x =>
    let n := sz.bytes
    let ps := (x.parts m.idx.isNone (x.addr m ofs.toInt n)).filter (fun p => aligned p.2.toNat n)
    .done (ps.foldl (fun s p =>
      match s.reach1 x.space .read true false n p.2 with
      | (s', .ok (c, _)) => if c.mt = 2 then s else if (s'.l1Line? x.coreIx c.asid c.va).isSome then s' else (s'.askHome c n).install1 x.coreIx c
      | (_, .error _) => s) x.s)

/-! ### Lane memory and scratchpad (R172, R173) -/

/-- The range fault of R168. -/
def rangeTrap (va : Word) : Act := .trap { code := cMEMF, sub := 1, tval := va }

/-- R172: ldl. -/
def execLdl (h : Hdr) (d : Opr) (m : Mem) (sz : Sz) (ofs : BitVec 9) (s : State) : Outcome State Fault Refusal :=
  word (.ldl h d m sz ofs) s fun x =>
    let n := sz.bytes
    let ps := x.parts (actsOnce m d) (x.addr m ofs.toInt n)
    match ps.find? (fun p => !aligned p.2.toNat n), ps.find? (fun p => decide (x.la.r.lmemBytes ≤ p.2.toNat)) with
    | some p, _ => .trap { code := cALIGN, tval := p.2 }
    | none, some p => rangeTrap p.2
    | none, none =>
      .done (x.variable x.s (pendRegs x.lanes (d.ref sz.regs))
        (ps.flatMap (fun p => loadWrites sz d p.1 (leNat (x.grp.lmemBytes p.1 p.2.toNat n)))) 0 0 (x.s.clock + 5) false)

/-- R172: stl. -/
def execStl (h : Hdr) (d : Opr) (m : Mem) (sz : Sz) (ofs : BitVec 9) (s : State) : Outcome State Fault Refusal :=
  word (.stl h d m sz ofs) s fun x =>
    let n := sz.bytes
    let ps := x.parts (actsOnce m d) (x.addr m ofs.toInt n)
    match ps.find? (fun p => !aligned p.2.toNat n), ps.find? (fun p => decide (x.la.r.lmemBytes ≤ p.2.toNat)) with
    | some p, _ => .trap { code := cALIGN, tval := p.2 }
    | none, some p => rangeTrap p.2
    | none, none =>
      .done (x.modG x.s (fun g => ps.foldl (fun g p => g.setLmem p.1 p.2.toNat (leBytes n (x.datum d n p.1))) g))

/-- R261, R266: a team that still holds its core's scratchpad. -/
def Team.here (t : Team) : Bool := t.res == .resident || t.res == .stopping

/-- R173: the teams of one half of a span, in ascending team index. -/
def State.halfTeams (s : State) (seq span half : Nat) : List Team :=
  (List.range 32).filterMap (fun k => s.teams.find? (fun t => t.seq == seq && t.span == span && t.half == half && t.idx == k))

/-- R173: the team a window address names, its offset and the typical cycles of the access. -/
def Issue.window (x : Issue) (w : Window) (va : Word) : Option (Team × Nat × Nat) :=
  let t := x.team
  let off := field va 18 0
  let a := va.toNat
  match w with
  | .core => if a < 2 ^ 19 then some (t, off, 6) else none
  | .clu =>
    if a < 2 ^ 20 then
      let core := t.core / 2 * 2 + field va 19 19
      (x.s.teams.find? (fun y => y.seq == t.seq && y.span == t.span && y.die == t.die && y.core == core && y.here)).map
        (fun y => (y, off, if core = t.core then 6 else 14))
    else none
  | .span =>
    if a < 2 ^ 24 then
      let half := (t.half + field va 23 23) % 2
      match (x.s.halfTeams t.seq t.span half)[field va 22 19]? with
      | some y => if y.here then some (y, off, if half = t.half then 40 else 220) else none
      | none => none
    else none

/-- R173: whether n bytes at a window address lie in an allocation. -/
def Issue.inWindow (x : Issue) (w : Window) (n : Nat) (va : Word) : Bool :=
  match x.window w va with
  | some (_, off, _) => decide (off + n ≤ 256 * x.la.r.scr)
  | none => false

/-- Bytes of a team's scratchpad. -/
def Team.scratchBytes (t : Team) (off n : Nat) : List Byte := (List.range n).map (fun j => Cells.get 0 t.scratch (off + j))

def Team.setScratch (t : Team) (off : Nat) (bs : List Byte) : Team :=
  { t with scratch := bs.zipIdx.foldl (fun m (b : Byte × Nat) => Cells.set 0 m (off + b.2) b.1) t.scratch }

/-- R168, R413: the checks of a scratchpad word before its participants access. -/
def Issue.scratchAccess (x : Issue) (w : Window) (rd : Bool) (n : Nat) (ps : List (Nat × Word)) (act : Act) : Act :=
  match ps.find? (fun p => !aligned p.2.toNat n), ps.find? (fun p => !x.inWindow w n p.2) with
  | some p, _ => .trap { code := cALIGN, tval := p.2 }
  | none, some p => rangeTrap p.2
  | none, none =>
    let place (l : Nat) : Nat × Nat × Nat :=
      match (ps.find? (fun p => p.1 == l)).bind (fun p => x.window w p.2) with
      | some (t, off, _) => (t.span, t.idx, off)
      | none => (0, 0, 0)
    match x.watchHit 1 place n ps rd (!rd) with
    | some (i, va) => .held (fun s => x.stopAt s 4 i cWATCH i va)
    | none => act

/-- R173: lds. -/
def execLds (h : Hdr) (d : Opr) (m : Mem) (sz : Sz) (win : Window) (ofs : BitVec 7) (s : State) : Outcome State Fault Refusal :=
  word (.lds h d m sz win ofs) s fun x =>
    let n := sz.bytes
    let ps := x.parts (actsOnce m d) (x.addr m ofs.toInt n)
    if x.acquiring then .wait
    else
      x.scratchAccess win true n ps
        (let got := ps.filterMap (fun p => (x.window win p.2).map (fun r => (p.1, r)))
         .done (x.variable x.s (pendRegs x.lanes (d.ref sz.regs))
           (got.flatMap (fun r => loadWrites sz d r.1 (leNat (r.2.1.scratchBytes r.2.2.1 n)))) 0 0
           (x.s.clock + got.foldl (fun m r => max m r.2.2.2) 0) false))

/-- R173: sts. -/
def execSts (h : Hdr) (d : Opr) (m : Mem) (sz : Sz) (win : Window) (ofs : BitVec 7) (s : State) : Outcome State Fault Refusal :=
  word (.sts h d m sz win ofs) s fun x =>
    let n := sz.bytes
    let ps := x.parts (actsOnce m d) (x.addr m ofs.toInt n)
    if x.acquiring || x.busy (fun q => q.pend.isSome || q.fn.isMark) then .wait
    else
      x.scratchAccess win false n ps
        (.done (ps.foldl (fun s p =>
          match x.window win p.2 with
          | some (t, off, _) => s.modTeam t.id (fun t => t.setScratch off (leBytes n (x.datum d n p.1)))
          | none => s) x.s))

/-! ### Bank operations and atomics (R174-R176, R181-R183) -/

/-- R174: bred. -/
def execBred (h : Hdr) (d : Opr) (m : Mem) (sz : Sz) (op : BredOp) (ofs : BitVec 6) (s : State) : Outcome State Fault Refusal :=
  word (.bred h d m sz op ofs) s fun x =>
    let once := actsOnce m d
    let n := sz.bytes
    if x.acquiring then .wait
    else
      x.access .write true false n 3 (x.parts once (x.addr m ofs.toInt n)) fun s ok =>
        .done (s.sendHome (ok.map (fun p =>
          x.homeOp once p.1 p.2.1 n (.red op (x.datum d n p.1)) false false none (s.clock + s.homeTime x.space.die p.2.1 + 10))))

/-- R175: bupd. -/
def execBupd (h : Hdr) (d : Fin 192) (m : Mem) (sz : Sz) (op : BupdOp) (ofs : BitVec 6) (s : State) :
    Outcome State Fault Refusal :=
  word (.bupd h d m sz op ofs) s fun x =>
    if x.acquiring then .wait
    else
      x.access .write true false 4 3 (x.parts false (x.addr m ofs.toInt 4)) fun s ok =>
        .done (s.sendHome (ok.map (fun p =>
          x.homeOp false p.1 p.2.1 4 (.bfma op (x.vreg d.val p.1) (x.vreg (d.val + 1) p.1)) false false none
            (s.clock + s.homeTime x.space.die p.2.1 + 10))))

/-- R183: what the declared use of an atomic orders. -/
def ordAcq : AtomOrd → Bool
  | .acq | .acqrel => true
  | _ => false

def ordRel : AtomOrd → Bool
  | .rel | .acqrel => true
  | _ => false

/-- The cycle by which every participant's operation is typically done. -/
def Issue.bankDue (x : Issue) (s : State) (ok : List (Nat × Loc × Tr)) : Nat :=
  s.clock + ok.foldl (fun m p => max m (s.homeTime x.space.die p.2.1)) 0 + 10

/-- R182: atom. Every use but .com returns the old value; a .spec one waits for earlier acquires as any other (DESIGN CHOICE, log entry 84). -/
def execAtom (h : Hdr) (d : Fin 192) (m : Mem) (sz : Sz) (op : AtomOp) (ord : AtomOrd) (s : State) :
    Outcome State Fault Refusal :=
  word (.atom h d m sz op ord) s fun x =>
    let n := sz.bytes
    if x.acquiring || (ordAcq ord && x.busy HomeOp.syncs) || (ordRel ord && x.engineOps) then .wait
    else
      x.access .write true false n 2 (x.parts false (x.addr m 0 n)) fun s ok =>
        let ret := ord != .com
        let a (l : Nat) : Nat := x.datum (.v d) n l
        let b (l : Nat) : Nat := if op = .cas then x.datum (.v d) (2 * n) l / 2 ^ (8 * n) else 0
        let due := x.bankDue s ok
        let op1 (p : Nat × Loc × Tr) (pend : Option Nat) : HomeOp :=
          x.homeOp false p.1 p.2.1 n (.atom op (a p.1) (b p.1) ret d.val) (ordRel ord) (ordAcq ord) pend due
        if ret then
          let k := s.nextId
          let s := x.variable s (pendRegs (laneSet 64 (fun l => ok.any (fun p => p.1 == l))) (.v d.val sz.regs)) [] 0 ok.length due
            (ordAcq ord)
          .done (s.sendHome (ok.map (fun p => op1 p (some k))))
        else .done (s.sendHome (ok.map (fun p => op1 p none)))

/-! ### Queues (R177-R180) -/

/-- A queue word: its operations go to the home bank; a .wait word blocks its fragment until all are served. -/
def Issue.queueOp (x : Issue) (d : Opr) (m : Mem) (sz : Sz) (wait : Bool) (p : BitVec 3) (ofs : BitVec 5) (deq : Bool) : Act :=
  let once := actsOnce m d
  let n := sz.bytes
  if x.acquiring || (deq && x.busy HomeOp.syncs) || (!deq && x.engineOps) then .wait
  else
    let r := x.access .write deq true 64 4 (x.parts once (x.addr m ofs.toInt 64)) fun s ok =>
      let due := x.bankDue s ok
      let fn (l : Nat) : HomeFn := if deq then .deq d wait p.toNat else .enq (x.datum d n l) wait p.toNat
      let lanes := laneSet 64 (fun l => ok.any (fun q => q.1 == l))
      let regs := (if deq then pendRegs lanes (d.ref sz.regs) else []) ++ (if p = 0 then [] else pendRegs lanes (.p p.toNat))
      let k := s.nextId
      let s := if regs.isEmpty then s else x.variable s regs [] 0 ok.length due deq
      .done (s.sendHome (ok.map (fun q =>
        x.homeOp once q.1 q.2.1 n (fn q.1) (!deq) deq (if regs.isEmpty then none else some k) due)))
    match r, wait with
    | .done s, true =>
      let hs := (x.parts once (x.addr m ofs.toInt 64)).map (fun p => (p.1, x.space.asid, p.2.toNat))
      .block (x.modF s (fun f => { f with pc := x.pc, st := .blocked (.queue deq hs), todo := some x.lanes }))
    | r, _ => r

/-- R179: qenq. -/
def execQenq (h : Hdr) (d : Opr) (m : Mem) (sz : Sz) (wait : Bool) (p : BitVec 3) (ofs : BitVec 5) (s : State) :
    Outcome State Fault Refusal :=
  word (.qenq h d m sz wait p ofs) s fun x => x.queueOp d m sz wait p ofs false

/-- R179: qdeq. -/
def execQdeq (h : Hdr) (d : Opr) (m : Mem) (sz : Sz) (wait : Bool) (p : BitVec 3) (ofs : BitVec 5) (s : State) :
    Outcome State Fault Refusal :=
  word (.qdeq h d m sz wait p ofs) s fun x => x.queueOp d m sz wait p ofs true

/-- R178: the addresses through which the pages of a queue's lines are reached. -/
def queuePages (hd cap : Nat) : List (Nat × Word) :=
  (List.range ((hd % 4096 + 64 + 8 * cap + 4095) / 4096)).map (fun j =>
    (j, BitVec.ofNat 64 (if j = 0 then hd else (hd / 4096 + j) * 4096)))

/-- R177, R178: a queue is dissolved: its header no longer says that it exists. -/
def State.dissolve (s : State) (q : Queue) : State :=
  let s := s.setQueueWord q 0 (s.queueWord q 0 % 2 ^ 63)
  { s with queues := s.queues.filter (fun y => y != q) }

/-- R178: qinit. Of a queue that lies in another live queue's lines the spec says nothing: it traps as a store to them does (log entry 81). -/
def execQinit (h : Hdr) (a b : Fin 64) (s : State) : Outcome State Fault Refusal :=
  word (.qinit h a b) s fun x =>
    let hd := (x.sreg a).toNat
    let k := min 12 (field (x.sreg b) 4 0)
    let bad : Act := .trap { code := cMEMF, sub := 1, tval := x.sreg a }
    if x.acquiring || x.releaseBusy then .wait
    else if !aligned hd 64 then .trap { code := cALIGN, tval := x.sreg a }
    else if k = 0 then
      match x.s.queues.find? (fun q => q.asid == x.space.asid && q.va == hd) with
      | some q => x.access .write false true 64 5 [(0, x.sreg a)] fun s _ => .done (s.dissolve q)
      | none => .done x.s
    else
      x.access .write false true 64 5 (queuePages hd (2 ^ k)) fun s ok =>
        let home := ok.map (fun p => homeDie p.2.1.pa)
        let q : Queue := ⟨x.la.seq, x.space.asid, hd, 2 ^ k, ok.map (fun p => (p.2.1.pa / 4096 * 4096, p.2.1.key))⟩
        let others := s.queues.filter (fun y => !(y.asid == q.asid && y.va == hd))
        let same := others.filter (fun y => homeDie (y.place 0).1 == home.headD 0 && sliceOf y.va == sliceOf hd)
        if ok.any (fun p => p.2.1.mt == 2 || p.2.1.peer != 0 || homeDie p.2.1.pa != home.headD 0) then bad
        else if others.any (fun y => y.covers q.asid hd (64 + 8 * q.cap)) || decide (8 ≤ same.length) then bad
        else
          let s : State := { s with queues := others ++ [q], l1 := s.l1.filter (fun y => !q.covers y.asid y.va 64) }
          let s := s.setQueueWord q 0 (2 ^ 63 + k)
          .done ([8, 0x10, 0x18, 0x20, 0x28, 0x30, 0x38].foldl (fun s o => s.setQueueWord q o 0) s)

/-! ### Fences (R184) -/

/-- R184: fence. A full fence waits until every earlier access of the fragment is performed; an acquire fence until every
earlier value is obtained; a release fence marks its place for the writes that follow it. -/
def execFence (h : Hdr) (kind : FenceKind) (s : State) : Outcome State Fault Refusal :=
  word (.fence h kind) s fun x =>
    if x.acquiring then .wait
    else
      match kind with
      | .full => if x.releaseBusy then .wait else .done (x.acquired x.s)
      | .acq => if x.busy (fun q => q.pend.isSome || q.syncs) then .wait else .done (x.acquired x.s)
      | .rel =>
        if x.engineOps then .wait
        else if x.busy (fun _ => true) then
          .done (x.s.sendHome [x.homeOp true 0 ⟨x.space.asid, 0, 0, 0, 0, 0, 0⟩ 0 .mark true false none (x.s.clock + 1)])
        else .done x.s

end Sys2Proof.Machine
end

