-- ==== Sys2Proof/Machine/Sync.lean ====
section
/-! DEFINITION. Named barriers, the combiners above them, timeline waits and yield (R187-R200, R267-R269). -/

namespace Sys2Proof.Machine

open Host (Outcome)

/-! ### Barrier state (R187) -/

/-- R86: a barrier at team start. -/
def Bar.zero : Bar :=
  { phase := 0, ring := false, level := .team, bind := .team, expg0 := 0, expg1 := 0, expt0 := 0, expt1 := 0, xadd := 0, arrg := 0,
    arrt := 0, drops := 0, lastAt := none, told := false, fwd := none, inited := false }

def Team.bar (t : Team) (nb : Nat) : Bar := t.bars.getD nb Bar.zero

def State.modBar (s : State) (tid nb : Nat) (f : Bar → Bar) : State :=
  s.modTeam tid (fun t => { t with bars := modNth t.bars nb f })

/-- R187: EXPG and EXPT of the current phase's parity. -/
def Bar.expg (b : Bar) : Nat := if b.phase.getLsbD 0 then b.expg1 else b.expg0
def Bar.expt (b : Bar) : Nat := if b.phase.getLsbD 0 then b.expt1 else b.expt0

/-- R191: the arrivals the current phase expects in all. -/
def Bar.expected (b : Bar) : Nat := b.expg + b.expt + b.xadd

/-- R191: the team-level condition of completion. -/
def Bar.full (b : Bar) : Bool := b.arrg == b.expg && b.arrt == b.expt + b.xadd && decide (0 < b.expected)

/-- R191: the effects of completion. -/
def Bar.complete (b : Bar) : Bar :=
  let odd := b.phase.getLsbD 0
  { b with expg0 := if b.ring && odd then b.expg0 else b.expg0 - b.drops,
           expg1 := if b.ring && !odd then b.expg1 else b.expg1 - b.drops,
           phase := b.phase + 1, arrg := 0, arrt := 0, xadd := 0, drops := 0, fwd := none }

/-- R192: a wait for a phase may end: the phase has completed, or the current phase expects no arrivals. -/
def Bar.passed (b : Bar) (phase : BitVec 32) : Bool :=
  (let d := (b.phase - phase).toNat
   decide (1 ≤ d) && decide (d < 2 ^ 31)) || b.expected == 0

/-- R194: the highest level a launch allows. -/
def Launch.topLevel (l : Launch) : BarLevel := if l.r.resid then .pkg else if l.r.teams = 1 then .team else .die

def levelNo : BarLevel → Nat
  | .team => 0
  | .die => 1
  | .pkg => 2

/-- R194: the level a binding gives. -/
def clampLevel (b top : BarLevel) : BarLevel := if levelNo b ≤ levelNo top then b else top

/-! ### Completion (R191) -/

/-- R192, R197: a wait ends as an acquire of the core, and its fragment goes on at an address. -/
def State.goOn (s : State) (t : Team) (gi ent : Nat) (pc : Word) : State :=
  (s.acquire (64 * t.die + t.core)).modFrag t.id gi ent (fun f =>
    { f with pc := pc, st := .ready, wake := max f.wake (s.clock + 1), todo := none })

/-- R191, R192, R411: a fragment that waits for a completed phase of the barrier is released, unless a debugger holds it. -/
def State.releaseFrag (s : State) (t : Team) (nb gi : Nat) (f : Frag) : State :=
  if s.debugHolds t gi f.ent then s
  else
    match f.st with
    | .blocked (.bar n p) | .blocked (.sync n p) => if n = nb && (t.bar nb).passed p then s.goOn t gi f.ent (nextPc f.pc) else s
    | .blocked (.yieldBar n p) => if n = nb && (t.bar nb).passed p then s.goOn t gi f.ent f.pc else s
    | _ => s

/-- R191, R200: a phase of a team's barrier completes, and the fragments that wait for it are released; those of a team that is
not resident re-test their condition when it is restored. -/
def State.completePhase (s : State) (tid nb : Nat) : State :=
  let s := s.modBar tid nb Bar.complete
  match s.team? tid with
  | none => s
  | some t =>
    if t.res != .resident then s
    else t.groups.zipIdx.foldl (fun s g => g.1.frags.foldl (fun s f => s.releaseFrag t nb g.2 f) s) s

/-! ### Combiners (R267, R268) -/

/-- R268: typical times: a team's arrival and a release on one die take 60 cycles each, the way to the other half 450 more,
the way to the package entry and back 1,350 more each. -/
def State.sendComb (s : State) (seq idx : Nat) (to_ : CombTo) (time : Nat) : State :=
  { s with combMsgs := s.combMsgs ++ [⟨s.nextId, seq, idx, to_, s.clock + time⟩], nextId := s.nextId + 1 }

def emptyComb (seq span half idx : Nat) (pkg : Bool) : Combiner := ⟨seq, span, half, pkg, idx, [], false, false, false⟩

def Combiner.is (c : Combiner) (seq span half idx : Nat) (pkg : Bool) : Bool :=
  c.seq == seq && c.span == span && c.half == half && c.idx == idx && c.pkg == pkg

def State.comb (s : State) (seq span half idx : Nat) (pkg : Bool) : Combiner :=
  (s.combiners.find? (fun c => c.is seq span half idx pkg)).getD (emptyComb seq span half idx pkg)

def State.setComb (s : State) (c : Combiner) : State :=
  { s with combiners := s.combiners.filter (fun d => !d.is c.seq c.span c.half c.idx c.pkg) ++ [c] }

/-- R268: a team has bound the index at an upper level. -/
def Team.boundAt (t : Team) (idx : Nat) (lv : BarLevel) : Bool := (t.bar idx).inited && (t.bar idx).level == lv

/-- R268: a team that a combiner entry expects: it has bound the index at an upper level and has not retired. -/
def Team.bound (t : Team) (idx : Nat) (lv : BarLevel) : Bool :=
  t.boundAt idx lv && t.res != .retired && t.res != .terminated

/-- The teams of an entry's half. -/
def State.entryTeams (s : State) (c : Combiner) : List Team :=
  s.teams.filter (fun t => t.seq == c.seq && t.span == c.span && t.half == c.half)

/-- R268: the teams that a die entry expects at a level. -/
def State.expects (s : State) (c : Combiner) (lv : BarLevel) : List Team :=
  (s.entryTeams c).filter (fun t => t.bound c.idx lv)

/-- The number of a team's arrival at an entry. -/
def Combiner.arrival? (c : Combiner) (k : Nat) : Option Nat := (c.arrived.find? (fun a => a.1 == k)).map Prod.snd

/-- R268: every team that an entry expected at a level has left it by a drop (log entry 74). -/
def State.halfLeft (s : State) (c : Combiner) (lv : BarLevel) : Bool :=
  (s.expects c lv).isEmpty && (s.entryTeams c).any (fun t => t.boundAt c.idx lv)

/-- R268: the entry holds the arrival of every team that it expects at a level, or the drop of the last. -/
def State.halfDone (s : State) (c : Combiner) (lv : BarLevel) : Bool :=
  s.halfLeft c lv || (!(s.expects c lv).isEmpty && (s.expects c lv).all (fun t => (c.arrival? t.idx).isSome))

/-- R268: a die entry releases its half at a level: the arrivals it answers leave it. -/
def State.releaseHalf (s : State) (c : Combiner) (lv : BarLevel) (time : Nat) : State :=
  let ts := s.expects c lv
  let rest := c.arrived.filter (fun a => !ts.any (fun t => t.idx == a.1))
  (s.setComb (if lv = .die then { c with arrived := rest, other := false, fwd := false } else { c with arrived := rest, pfwd := false })).sendComb
    c.seq c.idx (.release c.span c.half (ts.filterMap (fun t => c.arrival? t.idx))) time

/-- R268: the launch's spans straddle two dies. -/
def State.straddles (s : State) (seq : Nat) : Bool := ((s.launch? seq).map (fun l => l.r.half != 0)).getD false

/-- R334, R362: a half's arrival leaves its die over the die link, for the die of the other half. -/
def State.crossFlits (s : State) (seq span half : Nat) : State :=
  let dieOf (h : Nat) : Option Nat := (s.teams.find? (fun t => t.seq == seq && t.span == span && t.half == h)).map Team.die
  match dieOf half, dieOf (1 - half) with
  | some a, some b => s.countLinks (((s.launch? seq).map Launch.part).getD 0) seq 0 a b
  | _, _ => s

/-- R268: a die entry whose teams at die level have all arrived releases its half, or, where the span straddles, forwards one
arrival to the other half's entry and releases once that half has arrived too. -/
def State.testHalf (s : State) (seq span half idx : Nat) : State :=
  let c := s.comb seq span half idx false
  if !s.halfDone c .die then s
  else if !s.straddles seq then s.releaseHalf c .die 60
  else
    let s := if c.fwd then s else ((s.setComb { c with fwd := true }).sendComb seq idx (.cross span (1 - half)) 450).crossFlits seq span half
    let c := s.comb seq span half idx false
    if c.other || s.halfLeft (s.comb seq span (1 - half) idx false) .die then s.releaseHalf c .die 60 else s

/-- R268: a die entry whose teams at package level have all arrived forwards one arrival to the package entry. -/
def State.testUp (s : State) (seq span half idx : Nat) : State :=
  let c := s.comb seq span half idx false
  if (s.expects c .pkg).isEmpty || !s.halfDone c .pkg || c.pfwd then s
  else (s.setComb { c with pfwd := true }).sendComb seq idx (.pkg span half) 1350

/-- R268: the tests of a die entry at either level. -/
def State.testDie (s : State) (seq span half idx : Nat) : State := (s.testHalf seq span half idx).testUp seq span half idx

/-- R268: the package entry releases every die entry once each that holds bound teams has arrived. -/
def State.testPkg (s : State) (seq idx : Nat) : State :=
  let c := s.comb seq 0 0 idx true
  let want := ((s.teams.filter (fun t => t.seq == seq && t.bound idx .pkg)).map (fun t => 2 * t.span + t.half)).eraseDups
  if want.isEmpty || !want.all (fun k => (c.arrival? k).isSome) then s
  else
    want.foldl (fun s k => s.releaseHalf (s.comb seq (k / 2) (k % 2) idx false) .pkg 1350) (s.setComb (emptyComb seq 0 0 idx true))

/-- R268: a forwarded arrival, or a drop, reaches its entry. -/
def State.combArrive (s : State) (m : CombMsg) : State :=
  match m.to_ with
  | .die span half team drop =>
    if drop then (s.testDie m.seq span half m.idx).testPkg m.seq m.idx
    else
      let c := s.comb m.seq span half m.idx false
      (s.setComb { c with arrived := c.arrived ++ [(team, m.id)] }).testDie m.seq span half m.idx
  | .cross span half => (s.setComb { s.comb m.seq span half m.idx false with other := true }).testDie m.seq span half m.idx
  | .pkg span half =>
    let c := s.comb m.seq 0 0 m.idx true
    (s.setComb { c with arrived := c.arrived ++ [(2 * span + half, m.id)] }).testPkg m.seq m.idx
  | .release .. => s

/-- R268: a release completes the phase of each team of its half whose arrival it answers. -/
def State.combRelease (s : State) (m : CombMsg) : State :=
  match m.to_ with
  | .release span half served =>
    (s.teams.filter (fun t => t.seq == m.seq && t.span == span && t.half == half &&
        (match (t.bar m.idx).fwd with | some k => served.contains k | none => false))).foldl
      (fun s t => (s.completePhase t.id m.idx).modTeam t.id (fun t => { t with noFlush := true })) s
  | _ => s

/-- R189: the arrival that a team has forwarded for the current phase is discarded, wherever it is counted, with what its
entry has forwarded for it. -/
def State.discardArrival (s : State) (t : Team) (nb : Nat) : State :=
  match (t.bar nb).fwd with
  | none => s
  | some k =>
    let c := s.comb t.seq t.span t.half nb false
    let s : State := { s with combMsgs := s.combMsgs.filter (fun m => m.id != k) }
    if !c.arrived.any (fun a => a.2 == k) then s
    else
      let up := (t.bar nb).level == .pkg
      let far := if up then s.comb t.seq 0 0 nb true else s.comb t.seq t.span (1 - t.half) nb false
      let undone (m : CombMsg) : Bool := m.seq == t.seq && m.idx == nb &&
        (if up then m.to_ == .pkg t.span t.half else m.to_ == .cross t.span (1 - t.half))
      let had := if up then c.pfwd else c.fwd
      let s := s.setComb { c with arrived := c.arrived.filter (fun a => a.2 != k), fwd := c.fwd && up, pfwd := c.pfwd && !up }
      if !had then s
      else
        ({ s with combMsgs := s.combMsgs.filter (fun m => !undone m) } : State).setComb
          (if up then { far with arrived := far.arrived.filter (fun a => a.1 != 2 * t.span + t.half) } else { far with other := false })

/-- R268, R338: what the entries hold of a flushed span goes with its teams' state: its die entries, its halves' arrivals at the package
entry, and all that is on its way for them. -/
def State.dropArrivals (s : State) (seq span : Nat) : State :=
  let mine (m : CombMsg) : Bool := m.seq == seq && (match m.to_ with
    | .die n .. => n == span
    | .cross n _ => n == span
    | .pkg n _ => n == span
    | .release n .. => n == span)
  { s with
    combiners := (s.combiners.filter (fun c => !(c.seq == seq && c.span == span && !c.pkg))).map (fun c =>
      if c.seq = seq && c.pkg then { c with arrived := c.arrived.filter (fun a => a.1 / 2 != span) } else c)
    combMsgs := s.combMsgs.filter (fun m => !mine m) }

/-- R268: a team that retires forwards a drop to every entry that expects it. -/
def State.combDrop (s : State) (t : Team) : State :=
  (List.range 16).foldl (fun s nb =>
    if (t.bar nb).inited && (t.bar nb).level != .team then s.sendComb t.seq nb (.die t.span t.half t.idx true) 60 else s) s

/-! ### Arrivals (R190, R191) -/

/-- R191, R194: a phase whose condition holds completes, or is forwarded once. -/
def State.testBar (s : State) (tid nb : Nat) : State :=
  match s.team? tid with
  | none => s
  | some t =>
    let b := t.bar nb
    if !b.full || b.fwd.isSome then s
    else if b.level == .team then s.completePhase tid nb
    else (s.modBar tid nb (fun b => { b with fwd := some s.nextId })).sendComb t.seq nb (.die t.span t.half t.idx false) 60

/-- R190: a transfer arrival; one too many is posted and not counted. -/
def State.transferArrive (s : State) (tid nb : Nat) (num : Word) : State :=
  match s.team? tid with
  | none => s
  | some t =>
    let b := t.bar nb
    if b.arrt = b.expt + b.xadd then
      match s.launch? t.seq with
      | some l => s.postFault l 0xFF t.idx t.span 0 cBAROVF nb 0 num
      | none => s
    else
      (s.modBar tid nb (fun b => { b with arrt := b.arrt + 1, lastAt := some s.clock, told := false })).testBar tid nb

/-- R190, R226: the group's matrix operations and scans are not complete. -/
def Issue.enginesBusy (x : Issue) : Bool :=
  x.team.mats.any (fun m => m.has x.gi) || x.team.latch.any (fun a => a.grp == x.gi) ||
    x.team.scanq.any (fun o => o.grp == x.gi)

/-- R185: an access of the group is on its way. -/
def Issue.groupBusy (x : Issue) : Bool := x.s.homeOps.any (fun q => q.team == x.agent && q.grp == x.gi)

/-- R190: one group arrival: it waits for the group's engine operations and accesses, then is counted; k gives what follows,
with the phase arrived in. -/
def Issue.arrive (x : Issue) (d : Option (Fin 64)) (nb : BitVec 4) (drop : Bool) (k : State → BitVec 32 → Act) : Act :=
  let b := x.team.bar nb.toNat
  if x.enginesBusy || x.groupBusy || x.grp.acquiring x.grp.launched then .wait
  else if b.arrg = b.expg then .trap { code := cBAROVF, tval := nb.setWidth 64 }
  else
    let s := match d with | some r => x.fixed 4 [⟨.s r.val, b.phase.setWidth 64⟩] 0 | none => x.s
    let s := s.modBar x.team.id nb.toNat (fun b =>
      { b with arrg := b.arrg + 1, drops := if drop then b.drops + 1 else b.drops, lastAt := some s.clock, told := false })
    k (s.testBar x.team.id nb.toNat) b.phase

/-- A fragment of the team waits on a barrier (R189, R196). -/
def Team.waiters (t : Team) (nb : Nat) : List Frag :=
  t.groups.flatMap (fun g => g.frags.filter (fun f =>
    match f.st with
    | .blocked (.bar n p) | .blocked (.sync n p) | .blocked (.yieldBar n p) => n == nb && !(t.bar nb).passed p
    | _ => false))

/-! ### The instructions -/

/-- R189: bar.init. -/
def execBarInit (h : Hdr) (a : Fin 64) (nb : BitVec 4) (ring : Bool) (s : State) : Outcome State Fault Refusal :=
  word (.barInit h a nb ring) s fun x =>
    if !(x.team.waiters nb.toNat).isEmpty then .trap { code := cBAROVF, tval := nb.setWidth 64 }
    else
      let v := x.sreg a
      .done ((x.s.discardArrival x.team nb.toNat).modBar x.team.id nb.toNat (fun b =>
        { Bar.zero with
          ring := ring, bind := b.bind, level := clampLevel b.bind x.la.topLevel, inited := true,
          expg0 := field v 5 0, expt0 := field v 13 8,
          expg1 := if ring then field v 21 16 else field v 5 0, expt1 := if ring then field v 29 24 else field v 13 8 }))

/-- R190: bar.arrive. -/
def execBarArrive (h : Hdr) (d : Option (Fin 64)) (nb : BitVec 4) (s : State) : Outcome State Fault Refusal :=
  word (.barArrive h d nb) s fun x => x.arrive d nb false (fun s _ => .done s)

/-- R190: bar.drop. -/
def execBarDrop (h : Hdr) (d : Option (Fin 64)) (nb : BitVec 4) (s : State) : Outcome State Fault Refusal :=
  word (.barDrop h d nb) s fun x => x.arrive d nb true (fun s _ => .done s)

/-- The barrier of the issuing team as it stands in a state. -/
def Issue.barIn (x : Issue) (s : State) (nb : Nat) : Bar := ((s.team? x.team.id).map (fun t => t.bar nb)).getD Bar.zero

/-- R190, R192: bar.sync. -/
def execBarSync (h : Hdr) (d : Option (Fin 64)) (nb : BitVec 4) (s : State) : Outcome State Fault Refusal :=
  word (.barSync h d nb) s fun x => x.arrive d nb false (fun s phase =>
    if (x.barIn s nb.toNat).passed phase then .done (x.acquired s)
    else .block (x.blockAt s (.sync nb.toNat phase)))

/-- R192: bar.wait. -/
def execBarWait (h : Hdr) (a : Fin 64) (nb : BitVec 4) (s : State) : Outcome State Fault Refusal :=
  word (.barWait h a nb) s fun x =>
    let phase := (x.sreg a).setWidth 32
    if x.acquiring || x.busy HomeOp.syncs then .wait
    else if (x.team.bar nb.toNat).passed phase then .done (x.acquired x.s)
    else .block (x.blockAt x.s (.bar nb.toNat phase))

/-- R193: bar.expect. -/
def execBarExpect (h : Hdr) (a : Fin 64) (nb : BitVec 4) (s : State) : Outcome State Fault Refusal :=
  word (.barExpect h a nb) s fun x =>
    let b := x.team.bar nb.toNat
    let n := b.xadd + field (x.sreg a) 5 0
    if x.releaseBusy then .wait
    else if 63 < n then .trap { code := cBAROVF, tval := nb.setWidth 64 }
    else .done (x.s.modBar x.team.id nb.toNat (fun b => { b with xadd := n }))

/-- R194: bar.bind. -/
def execBarBind (h : Hdr) (nb : BitVec 4) (lvl : BarLevel) (s : State) : Outcome State Fault Refusal :=
  word (.barBind h nb lvl) s fun x => .done (x.s.modBar x.team.id nb.toNat (fun b => { b with bind := lvl }))

/-- R197: a timeline of the launch's context holds at least a value. -/
def State.reached (s : State) (l : Launch) (t : Nat) (v : Word) : Bool := decide (v.toNat ≤ (s.timeline l.r.ctx t).toNat)

/-- R197: tlwait. -/
def execTlwait (h : Hdr) (a : Fin 64) (tl : BitVec 3) (s : State) : Outcome State Fault Refusal :=
  word (.tlwait h a tl) s fun x =>
    if x.acquiring || x.busy HomeOp.syncs then .wait
    else if x.s.reached x.la tl.toNat (x.sreg a) then .done (x.acquired x.s)
    else .block (x.blockAt x.s (.tl tl.toNat (x.sreg a)))

/-- R198: tlread. -/
def execTlread (h : Hdr) (d : Fin 64) (tl : BitVec 3) (s : State) : Outcome State Fault Refusal :=
  word (.tlread h d tl) s fun x => .done (x.sResult x.s d (x.s.timeline x.la.r.ctx tl.toNat) 60)

/-- R199: yield: the whole fragment goes to the continuation, at once or when its condition holds. -/
def execYield (h : Hdr) (cont : BitVec 16) (b : Fin 64) (on : YieldOn) (s : State) : Outcome State Fault Refusal :=
  word (.yield h cont b on) s fun x =>
    let to_ := nextPc x.pc + sext cont.toNat 16 * 8
    let go (s : State) (st : FragSt) : State := x.modF s (fun f => { f with pc := to_, st := st })
    if x.acquiring || x.busy HomeOp.syncs then .wait
    else
      match on with
      | .bar nb =>
        let phase := (x.sreg b).setWidth 32
        if (x.team.bar nb.toNat).passed phase then .done (go (x.acquired x.s) .ready)
        else .block (go x.s (.blocked (.yieldBar nb.toNat phase)))
      | .tl t =>
        if x.s.reached x.la t.toNat (x.sreg b) then .done (go (x.acquired x.s) .ready)
        else .block (go x.s (.blocked (.yieldTl t.toNat (x.sreg b))))

end Sys2Proof.Machine
end

