-- ==== Sys2Proof/Machine/Engines.lean ====
section
/-! DEFINITION. What the engines of a core share: operand descriptors (R202), the numbers, trace records and breakpoints of
accepted commands (R214, R414, R419), and what a release or an acquire waits for (R185, R212, R226). -/

namespace Sys2Proof.Machine

/-! ### Accepted commands -/

/-- R414: the first armed engine-command breakpoint that names a command of a context of the attached launch's stream, whichever launch
gave it; kind 0 names the attached launch. -/
def State.ecb (s : State) (p ctx kind : Nat) (num : Word) : Option Nat :=
  match s.attachedTo p with
  | none => none
  | some l =>
    if !(s.dbgReg p 0x10).getLsbD 0 || s.dbgPerm p != 2 || (kind != 0 && !(s.ctx? ctx).any (fun c => c.stream == l.stream)) then none
    else
      (List.range 4).find? (fun i =>
        let c := s.dbgReg p (0x120 + 8 * i)
        c.getLsbD 0 && field c 6 4 == kind && s.dbgReg p (0x100 + 8 * i) == num && (kind == 0 || field c 31 16 == ctx))

/-- R414: a command whose breakpoint fires is held, and the attached launch is to stop. -/
def State.holdCommand (s : State) (p ctx kind : Nat) (num : Word) : State :=
  match s.ecb p ctx kind num with
  | none => s
  | some i => (s.askStop p { reason := 5, idx := i, at_ := s.clock, frag := none }).modDbg p (fun d => { d with held := d.held ++ [(kind, ctx, num)] })

/-- R214, R414, R419: an accepted command takes the next number of its engine's timeline, whose number is its kind. -/
def State.accept (s : State) (l : Launch) (t : Team) (gi tl : Nat) : State × Word :=
  let n := s.nextNumber l.r.ctx tl
  (((s.takeNumber l.r.ctx tl).trace l t.die 8 gi t.idx t.span tl 0 n).holdCommand l.part l.r.ctx tl n, n)

/-- R414: a command of a context waits while a breakpoint of the partition holds it or one with a lower number of its timeline. -/
def State.heldBy (s : State) (p ctx tl : Nat) (num : Word) : Bool :=
  match s.dbg[p]? with
  | none => false
  | some d => d.att && d.held.any (fun h => h.1 == tl && h.2.1 == ctx && decide (h.2.2.toNat ≤ num.toNat))

def State.cmdHeld (s : State) (l : Launch) (tl : Nat) (num : Word) : Bool := s.heldBy l.part l.r.ctx tl num

/-! ### Operand descriptors (R202, R208) -/

def descOfs (d : Word) : Nat := field d 18 0
def descScale (d : Word) : Nat := field d 38 20

/-- R202: the team whose scratchpad a descriptor names. -/
def State.descTeam (s : State) (t : Team) (d : Word) : Option Team :=
  if d.getLsbD 19 then
    s.teams.find? (fun y => y.seq == t.seq && y.span == t.span && y.die == t.die && y.core == t.core ^^^ 1 && y.here)
  else s.team? t.id

/-- R208: the checks of a word's descriptors: n bytes at OFS, and 64 bytes of scales at SOFS where they are used; alignment
comes before range. -/
def Issue.descTrap (x : Issue) (ds : List (Word × Nat × Bool)) : Option Trap :=
  let size := 256 * x.la.r.scr
  match ds.find? (fun d => !aligned (descOfs d.1) 64 || (d.2.2 && !aligned (descScale d.1) 64)) with
  | some d => some { code := cALIGN, tval := d.1 }
  | none =>
    (ds.find? (fun d => (x.s.descTeam x.team d.1).isNone || decide (size < descOfs d.1 + d.2.1) ||
      (d.2.2 && decide (size < descScale d.1 + 64)))).map (fun d => { code := cMEMF, sub := 1, tval := d.1 })

/-- n bytes of the scratchpad a descriptor names. -/
def State.descBytes (s : State) (t : Team) (d : Word) (ofs n : Nat) : List Byte :=
  match s.descTeam t d with
  | some y => Cells.slice 0 y.scratch ofs n
  | none => List.replicate n 0

/-- Bytes written to the scratchpad a descriptor names. -/
def State.setDescBytes (s : State) (t : Team) (d : Word) (ofs : Nat) (bs : List Byte) : State :=
  match s.descTeam t d with
  | some y => s.modTeam y.id (fun y => { y with scratch := Cells.splice 0 y.scratch ofs bs })
  | none => s

/-! ### Byte ranges in global memory -/

/-- A byte range cut at the 4 KiB pages: addresses and lengths. -/
def pagePieces : Nat → Word → Nat → List (Word × Nat)
  | 0, _, _ => []
  | fuel + 1, va, n =>
    if n = 0 then []
    else
      let k := min n (4096 - va.toNat % 4096)
      (va, k) :: pagePieces fuel (va + BitVec.ofNat 64 k) (n - k)

def rangePieces (va : Word) (n : Nat) : List (Word × Nat) := pagePieces (n / 4096 + 2) va n

/-- R293: the size of the naturally aligned unit of at most 8 bytes at the start of n bytes at an address. -/
def unitSize (a n : Nat) : Nat :=
  if aligned a 8 && decide (8 ≤ n) then 8 else if aligned a 4 && decide (4 ≤ n) then 4 else if aligned a 2 && decide (2 ≤ n) then 2 else 1

/-- R293: n bytes at an address cut into such units: the offset and size of each. -/
def unitsOf (a : Nat) : Nat → Nat → Nat → List (Nat × Nat)
  | 0, _, _ => []
  | fuel + 1, ofs, n =>
    if n = 0 then []
    else
      let k := unitSize (a + ofs) n
      (ofs, k) :: unitsOf a fuel (ofs + k) (n - k)

/-- R293: the units that move now, of those that transfer k has still to move. -/
def State.movesNow {α : Type} (s : State) (k : Nat) (us : List α) : List α :=
  (us.zipIdx.filter (fun u => Config.moves s.nonce (k * 2 ^ 20 + u.2))).map Prod.fst

/-- A piece that is translated: its place, its length and its translation. -/
abbrev Piece := Loc × Nat × Tr

/-- Pieces translated in order: the places of those that pass, and address and subcode of those that do not. -/
def State.reachPieces (sp : Space) (a : Access) (rd : Bool) : State → List (Word × Nat) → State × List Piece × List (Word × Nat)
  | s, [] => (s, [], [])
  | s, p :: ps =>
    match s.reach1 sp a rd false p.2 p.1 with
    | (s, .ok c) =>
      let r := State.reachPieces sp a rd s ps
      (r.1, (c.1, p.2, c.2) :: r.2.1, r.2.2)
    | (s, .error e) =>
      let r := State.reachPieces sp a rd s ps
      (r.1, r.2.1, (p.1, e) :: r.2.2)

/-- The bytes at the homes of translated pieces. -/
def State.pieceBytes (s : State) (ps : List Piece) : List Byte := ps.flatMap (fun p => s.homeBytes p.1 p.2.1)

/-- Bytes written at the homes of translated pieces. -/
def State.writePieces : State → List Piece → List Byte → State
  | s, [], _ => s
  | s, p :: ps, bs => (s.writeHome p.1 (bs.take p.2.1)).writePieces ps (bs.drop p.2.1)

/-- R168: a uniform word that meets translation faults: the first that no retry can cure traps, else the word parks. -/
def Issue.faulted (x : Issue) (s : State) (bad : List (Word × Nat)) (wr : Bool) : Act :=
  match bad.find? (fun b => !replayable b.2) with
  | some b => .trapIn (x.modF s (fun f => { f with pc := x.pc })) { code := cMEMF, sub := b.2, tval := b.1, tpc := some x.pc }
  | none => .block (x.park s x.lanes (bad.map (fun b => ⟨b.1, false, false, wr, b.2, x.gi⟩)))

/-- A list of bytes cut into numbers of n bytes. -/
def chunksLe (n : Nat) : Nat → List Byte → List Nat
  | 0, _ => []
  | k + 1, bs => leNat (bs.take n) :: chunksLe n k (bs.drop n)

/-- R75: flags of a scout, which takes no number, for its group. -/
def State.groupFlags (s : State) (tid gi : Nat) (f : BitVec 6) : State := s.modGroup tid gi (fun g => g.orFlags f)

end Sys2Proof.Machine
end

