-- ==== Sys2Proof/Machine/Matrix.lean ====
section
/-! DEFINITION. The matrix engine: gang, mma and its latch, the accumulator instructions, and what an operation does when it
completes (R201-R215, with the sums of R78 and R79 and the conversions of R76). -/

namespace Sys2Proof.Machine

open Host (Outcome)

/-! ### Operands (R203) -/

/-- R205: mode and widths, which the members of a gang must share. -/
def modeCode : MmaMode → Nat × Nat × Nat
  | .bfp wa wb _ => (0, wa.toNat, wb.toNat)
  | .bf16 _ => (1, 0, 0)
  | .z16 => (2, 0, 0)
  | .z32 => (3, 0, 0)

/-- R203: the bytes of operand A or B, without scales. -/
def operandBytes (m : MmaMode) (isB : Bool) : Nat :=
  match m with
  | .bfp wa wb _ => 2048 * ((if isB then wb else wa).toNat + 1)
  | .bf16 _ | .z16 => 32768
  | .z32 => 65536

def hasScales : MmaMode → Bool
  | .bfp .. => true
  | _ => false

/-- R209: the cycles of one member. -/
def mmaCycles : MmaMode → Nat
  | .bfp wa wb _ => 16 * (max wa.toNat wb.toNat + 1)
  | .bf16 _ => 512
  | .z16 => 256
  | .z32 => 512

/-- 64 rows of 256 elements of n bytes. -/
def rowsOf (n : Nat) (bs : List Byte) : List (Nat × List Nat) :=
  (List.range 64).map (fun i => (0, chunksLe n 256 (bs.drop (256 * n * i))))

/-- R203, R68: the rows of A or columns of B: the scale of each and its 256 patterns. -/
def State.operand (s : State) (t : Team) (m : MmaMode) (isB : Bool) (d : Word) : List (Nat × List Nat) :=
  let bs := s.descBytes t d (descOfs d) (operandBytes m isB)
  match m with
  | .bfp wa wb _ =>
    let w := (if isB then wb else wa).toNat + 1
    ((s.descBytes t d (descScale d) 64).zip (chunksLe (32 * w) 64 bs)).map (fun p =>
      (p.1.toNat, (List.range 256).map (fun i => p.2 / 2 ^ (w * i) % 2 ^ w)))
  | .bf16 _ | .z16 => rowsOf 2 bs
  | .z32 => rowsOf 4 bs

/-! ### Accumulation (R78, R79) -/

/-- R78: how a member's sums round: SR as RNE, and overflow by MODE.SAT. -/
def MmaArr.rounding (m : MmaArr) : Rounding :=
  { rm := if m.rnd = .sr then .rne else m.rnd, dith := 0, ftz := m.ftz, ovf := if m.sat then .toTop else .toInf }

/-- R78, R79: one element in the block mode, at widths wa and wb. -/
def accBfp (r : Rounding) (wa wb acc : Nat) (a b : Nat × List Nat) : Nat × BitVec 6 :=
  if a.1 = 0xFF || b.1 = 0xFF then (FFmt.f32.nan, fNV)
  else
    let sum : Int := (List.zipWith (fun x y => sInt wa x * sInt wb y) a.2 b.2).foldl (· + ·) 0
    if sum = 0 then (acc, 0)
    else
      let v := unpack .f32 r.ftz acc
      let e : Int := (a.1 : Int) + b.1 - 254 - ((wa : Int) - 1) - ((wb : Int) - 1)
      roundOpt .f32 r (snanFlag [v]) (sumVal r.rm [v, FVal.scaled (decide (sum < 0)) sum.natAbs e])

/-- R78, R79: the exact sum of one group of sixteen products, rounded to FP32. -/
def groupSum (r : Rounding) (xs ys : List Nat) : Nat × BitVec 6 :=
  let a := xs.map (unpack .bf16 r.ftz)
  let b := ys.map (unpack .bf16 r.ftz)
  let ps := List.zipWith FVal.mul a b
  let fl := snanFlag (a ++ b)
  if ps.any Option.isNone then (FFmt.f32.nan, fl ||| fNV) else roundOpt .f32 r fl (sumVal r.rm (ps.filterMap id))

/-- R78, R79: one element in the BF16 mode, sixteen groups in turn. -/
def accBf16 (r : Rounding) (acc : Nat) (a b : List Nat) : Nat × BitVec 6 :=
  (List.range 16).foldl (fun (v : Nat × BitVec 6) g =>
    let sum := groupSum r ((a.drop (16 * g)).take 16) ((b.drop (16 * g)).take 16)
    let y := fpAdd .f32 r (unpack .f32 r.ftz v.1) (unpack .f32 r.ftz sum.1)
    (y.1, v.2 ||| sum.2 ||| y.2)) (acc, 0)

/-- R78: one element in a ring mode. -/
def accRing (k acc : Nat) (a b : List Nat) : Nat × BitVec 6 :=
  ((acc + (List.zipWith (fun x y => x * y) a b).foldl (· + ·) 0) % 2 ^ k, 0)

/-- R207: Accumulate for a member. -/
def MmaArr.accumulate (m : MmaArr) (acc : Nat) (a b : Nat × List Nat) : Nat × BitVec 6 :=
  match m.mode with
  | .bfp wa wb _ => accBfp m.rounding (wa.toNat + 1) (wb.toNat + 1) acc a b
  | .bf16 _ => accBf16 m.rounding acc a.2 b.2
  | .z16 => accRing 16 acc a.2 b.2
  | .z32 => accRing 32 acc a.2 b.2

/-! ### Tiles -/

/-- The elements of a tile, row by row. -/
def Team.tile (t : Team) (k : Nat) : List Nat := (Cells.slice 0 t.acc (accKey k 0 0) 4096).map BitVec.toNat

def Team.setTile (t : Team) (k : Nat) (xs : List Nat) : Team :=
  { t with acc := Cells.splice 0 t.acc (accKey k 0 0) (xs.map (BitVec.ofNat 32)) }

/-- R207: a member's addition to its tile. -/
def State.addMember (s : State) (tid : Nat) (num : Word) (m : MmaArr) : State :=
  match s.team? tid with
  | none => s
  | some t =>
    let a := s.operand t m.mode false m.aDesc
    let b := s.operand t m.mode true m.bDesc
    let pairs := a.flatMap (fun r => b.map (fun c => (r, c)))
    let rs := List.zipWith (fun e p => m.accumulate e p.1 p.2) (t.tile m.tile) pairs
    (s.modTeam tid (fun t => t.setTile m.tile (rs.map Prod.fst))).engineFlags tid m.grp 2 num (orAll (rs.map Prod.snd))

/-! ### Tile conversions (R211) -/

/-- R211: the block of 256 elements that a form takes as row or column j of four tiles. -/
def blockOf (t : Team) (tile : Nat) (byColumn : Bool) (ftz : Bool) (j : Nat) : List (Option FVal) :=
  (List.range 256).map (fun p =>
    let k := if byColumn then accKey (tile + p / 64) (p % 64) j else accKey (tile + p / 64) j (p % 64)
    some (unpack .f32 ftz (Cells.get 0 t.acc k).toNat))

/-- R211: what acccvt writes: the bytes at OFS, the scale bytes at SOFS, and the flags. -/
def convertTile (t : Team) (tile : Nat) (fmt : AccFmt) (rm : Rnd) (ftz : Bool) (phase : Nat) :
    List Byte × List Byte × BitVec 6 :=
  let blocks (w : BitVec 3) (byColumn : Bool) : List Byte × List Byte × BitVec 6 :=
    let wd := w.toNat + 1
    let rs := (List.range 64).map (fun j => packBlock wd rm phase (blockOf t tile byColumn ftz j))
    (rs.flatMap (fun r => leBytes (32 * wd) (packCodes wd r.2.1)), rs.map (fun r => BitVec.ofNat 8 r.1),
      orAll (rs.map (fun r => r.2.2)))
  match fmt with
  | .bf16 =>
    let rs := (t.tile tile).zipIdx.map (fun e =>
      fpToFp .bf16 { rm := rm, dith := dither (e.2 % 256) phase, ftz := ftz } (unpack .f32 ftz e.1))
    (rs.flatMap (fun r => leBytes 2 r.1), [], orAll (rs.map Prod.snd))
  | .bfp w => blocks w false
  | .bfpc w => blocks w true

/-! ### Completion (R212-R215) -/

/-- What a matrix operation does to tiles, scratchpad and flags. -/
def State.performMat (s : State) (tid : Nat) (op : MatOp) : State :=
  match s.team? tid, op.kind with
  | none, _ => s
  | some _, .mma members => members.foldl (fun s m => s.addMember tid op.num m) s
  | some _, .zero k => s.modTeam tid (fun t => t.setTile k (List.replicate 4096 0))
  | some t, .load k d => s.modTeam tid (fun y => y.setTile k (chunksLe 4 4096 (s.descBytes t d (descOfs d) 16384)))
  | some t, .store k d => s.setDescBytes t d (descOfs d) ((t.tile k).flatMap (leBytes 4))
  | some t, .convert k d fmt rm ftz phase =>
    let r := convertTile t k fmt rm ftz phase
    let s := (s.setDescBytes t d (descOfs d) r.1).engineFlags tid ((op.grps.map Prod.fst).headD 0) 2 op.num r.2.2
    if r.2.1.isEmpty then s else s.setDescBytes t d (descScale d) r.2.1

/-- R212: an operation is the next of each of its groups, in the order in which their words issued: no earlier one is accepted or at the
latch. -/
def Team.matFirst (t : Team) (op : MatOp) : Bool :=
  let early (g k : Nat) : Bool := op.grps.any (fun y => y.1 == g && decide (k < y.2))
  t.mats.all (fun q => !q.grps.any (fun y => early y.1 y.2)) && t.latch.all (fun a => !early a.grp a.ord)

/-- R213: the operation would be seen by a word that waits for a tile and did not count it. -/
def State.afKeeps (s : State) (t : Team) (op : MatOp) : Bool :=
  t.res == .resident && t.groups.zipIdx.any (fun g => g.1.frags.any (fun f =>
    f.st == .ready && g.1.free f && !s.debugHolds t g.2 f.ent &&
      g.1.afWait.any (fun w => w.ent == f.ent && w.pc == f.pc && (op.ords w.tile).any (fun k => !w.ords.contains k))))

/-- R209, R210: the cycles an operation typically occupies the engine. -/
def MatKind.cycles : MatKind → Nat
  | .mma ms => ms.foldl (fun n m => n + mmaCycles m.mode) 0
  | .zero _ => 16
  | .load .. | .store .. => 256
  | .convert _ _ fmt _ _ _ => match fmt with | .bf16 => 192 | .bfp _ | .bfpc _ => 512

/-- R212, R214: a matrix operation completes. -/
def State.matComplete (s : State) (tid k : Nat) : State :=
  match s.team? tid with
  | none => s
  | some t =>
    match s.launch? t.seq, t.mats.find? (fun m => m.num.toNat == k) with
    | some l, some op =>
      if t.matFirst op && !s.afKeeps t op && !s.cmdHeld l 2 op.num then
        (((s.performMat tid op).modTeam tid (fun t =>
          { t with mats := t.mats.filter (fun m => m.num != op.num) })).completeNumber l.r.ctx 2 op.num).tally t 7 op.kind.cycles
      else s
    | _, _ => s

/-! ### Issue -/

/-- The cycle at which an operation of the given length, accepted now, typically completes. -/
def Issue.matDue (x : Issue) (cycles : Nat) (ds : List Word) : Nat :=
  x.team.mats.foldl (fun m o => max m o.due) x.s.clock + cycles + (if ds.any (fun d => d.getLsbD 19) then 60 else 0)

/-- R210, R214: an accepted operation of the team. -/
def Issue.acceptMat (x : Issue) (s : State) (grps : List (Nat × Nat)) (kind : MatKind) (due : Nat) : State :=
  let r := s.accept x.la x.team x.gi 2
  x.modT r.1 (fun t => { t with mats := t.mats ++ [⟨r.2, grps, kind, due⟩] })

/-- R206: a fragment at a latch continues with its next word. -/
def State.unlatch (s : State) (tid grp ent : Nat) : State :=
  s.modFrag tid grp ent (fun f => { f with pc := nextPc f.pc, st := .ready, wake := max f.wake (s.clock + 1) })

/-- The mask of the groups of a list. -/
def groupMask (gs : List Nat) : Word := gs.foldl (fun m g => m ||| BitVec.ofNat 64 (2 ^ g)) 0

/-- R206, R235: every arrived member of a latch traps ROLE; the issuing group's trap comes first. -/
def Issue.latchMismatch (x : Issue) (s : State) (sub : Nat) (arrived : List (Nat × Nat)) : Act :=
  let c : Trap := { code := cROLE, sub := sub, tval := groupMask (arrived.map Prod.fst) }
  let s := (x.modF s (fun f => { f with pc := x.pc })).takeTrap x.who c
  .block ((arrived.filter (fun a => a.1 != x.gi)).foldl (fun s a => s.takeTrap (.frag x.team.id a.1 a.2) c) s)

/-- R206: a member arrives at the latch. -/
def Issue.arriveMma (x : Issue) (m : MmaArr) : Act :=
  let all := x.team.latch ++ [m]
  let members := all.filter (fun y => m.gang.getLsbD y.grp)
  let s := x.modT { x.s with nextId := x.s.nextId + 1 } (fun t => { t with latch := all, latchAt := x.s.clock, latchTold := false })
  if !(List.range 32).all (fun g => !m.gang.getLsbD g || members.any (fun y => y.grp == g)) then .block (x.blockAt s .mmaLatch)
  else
    let s := x.modT s (fun t => { t with latch := all.filter (fun y => !m.gang.getLsbD y.grp) })
    if members.all (fun y => y.gang == m.gang && modeCode y.mode == modeCode m.mode && y.bDesc == m.bDesc) then
      let sorted := (List.range 32).filterMap (fun g => members.find? (fun y => y.grp == g))
      let s := x.acceptMat s (sorted.map (fun y => (y.grp, y.ord))) (.mma sorted)
        (x.matDue (sorted.length * mmaCycles m.mode) (m.bDesc :: sorted.map MmaArr.aDesc))
      .done ((members.filter (fun y => y.grp != x.gi)).foldl (fun s y => s.unlatch x.team.id y.grp y.ent) s)
    else x.latchMismatch s 2 (members.map (fun y => (y.grp, y.ent)))

/-- R204: gang. -/
def execGang (h : Hdr) (a : Fin 64) (s : State) : Outcome State Fault Refusal :=
  word (.gang h a) s fun x =>
    if x.team.latch.any (fun m => m.grp == x.gi) then .wait
    else
      let mask : BitVec 32 := (x.sreg a).setWidth 32
      let bits := (List.range 32).filter (fun g => mask.getLsbD g)
      let ok (g : Nat) : Bool :=
        match x.team.groups[g]? with
        | some y => y.role == .m && y.launched != 0
        | none => false
      if 2 ≤ bits.length && bits.length ≤ 6 && mask.getLsbD x.gi && bits.all ok then
        .done (x.modG x.s (fun g => { g with gang := mask }))
      else .trap { code := cROLE, sub := 1, tval := mask.setWidth 64 }

/-- The rounding field of an mma. -/
def mmaRnd : MmaMode → Rnd
  | .bfp _ _ r => r
  | .bf16 r => r
  | .z16 | .z32 => .rne

/-- R205-R208: mma. -/
def execMma (h : Hdr) (t : BitVec 6) (a b : Fin 64) (mode : MmaMode) (s : State) : Outcome State Fault Refusal :=
  word (.mma h t a b mode) s fun x =>
    let da := x.sreg a
    let db := x.sreg b
    let sc := hasScales mode
    if x.acquiring || x.team.latch.any (fun m => m.grp == x.gi) then .wait
    else
      match x.descTrap [(da, operandBytes mode false, sc), (db, operandBytes mode true, sc)] with
      | some c => .trap c
      | none =>
        x.arriveMma
          { grp := x.gi, ent := x.frag.ent, tile := t.toNat, aDesc := da, bDesc := db, mode := mode,
            rnd := effRnd (mmaRnd mode) x.grp.mode, ftz := modeFtz x.grp.mode, sat := modeSat x.grp.mode, gang := x.grp.gang,
            at_ := x.s.clock, ord := x.s.nextId }

/-- R210: an accumulator instruction with its descriptor checks. -/
def Issue.accOp (x : Issue) (ds : List (Word × Nat × Bool)) (kind : MatKind) (cycles : Nat) (after : Group → Group) : Act :=
  if x.acquiring then .wait
  else
    match x.descTrap ds with
    | some c => .trap c
    | none =>
      .done (x.modG (x.acceptMat { x.s with nextId := x.s.nextId + 1 } [(x.gi, x.s.nextId)] kind (x.matDue cycles (ds.map Prod.fst))) after)

/-- R210: acczero. -/
def execAcczero (h : Hdr) (t : BitVec 6) (s : State) : Outcome State Fault Refusal :=
  word (.acczero h t) s fun x => x.accOp [] (.zero t.toNat) 16 id

/-- R210: accld. -/
def execAccld (h : Hdr) (t : BitVec 6) (a : Fin 64) (s : State) : Outcome State Fault Refusal :=
  word (.accld h t a) s fun x => x.accOp [(x.sreg a, 16384, false)] (.load t.toNat (x.sreg a)) 256 id

/-- R210: accst. -/
def execAccst (h : Hdr) (t : BitVec 6) (a : Fin 64) (s : State) : Outcome State Fault Refusal :=
  word (.accst h t a) s fun x => x.accOp [(x.sreg a, 16384, false)] (.store t.toNat (x.sreg a)) 256 id

/-- R211, R73: acccvt; the phase it uses and whether it advances it are fixed at issue. -/
def execAcccvt (h : Hdr) (t : BitVec 6) (a : Fin 64) (fmt : AccFmt) (rnd : Rnd) (s : State) : Outcome State Fault Refusal :=
  word (.acccvt h t a fmt rnd) s fun x =>
    let d := x.sreg a
    let kind : MatKind := .convert t.toNat d fmt (effRnd rnd x.grp.mode) (modeFtz x.grp.mode) (modeDph x.grp.mode)
    match fmt with
    | .bf16 => x.accOp [(d, 8192, false)] kind 192 (Group.stepPhase rnd)
    | .bfp w => x.accOp [(d, 2048 * (w.toNat + 1), true)] kind 512 (Group.stepPhase rnd)
    | .bfpc w => x.accOp [(d, 2048 * (w.toNat + 1), true)] kind 512 (Group.stepPhase rnd)

end Sys2Proof.Machine
end

