-- ==== Sys2Proof/Machine/Copy.lean ====
section
/-! DEFINITION. Layout records and bulk copies: lrmk, cpy, the copy latch and the transfers of the copy engine (R228-R237),
with the counts of metered regions (R428). -/

namespace Sys2Proof.Machine

open Host (Outcome)

/-! ### Layout records (R228, R229) -/

/-- R228: the bytes of a row, with the widths of the blocks. -/
def Layout.rowSize (y : Layout) : Nat := if y.fmt = 4 then y.cols / 256 * (32 * (y.w + 1)) else y.cols * 2 ^ y.fmt

/-- R228: the scale bytes of a row. -/
def Layout.scaleSize (y : Layout) : Nat := if y.fmt = 4 then y.cols / 256 else 0

/-- The 64-bit words of a string of bytes. -/
def wordsOf (n : Nat) (bs : List Byte) : List Word := (chunksLe 8 n bs).map (BitVec.ofNat 64)

/-- R228: the fields of a record. -/
def layoutOf (bs : List Byte) : Layout :=
  let w (k : Nat) : Word := (wordsOf 7 bs).getD k 0
  { fmt := field (w 0) 7 0, w := field (w 0) 10 8, rows := field (w 1) 63 32, cols := field (w 1) 31 0, gstride := (w 2).toNat,
    sstride := field (w 3) 31 0, gscale := (w 4).toNat, sscale := field (w 5) 31 0 }

/-- R230: the first failing test of a descriptor, or 0. -/
def checkLayout (bs : List Byte) : Nat :=
  let w (k : Nat) : Word := (wordsOf 7 bs).getD k 0
  let y := layoutOf bs
  if field (w 0) 31 16 != 1 || field (w 0) 15 11 != 0 || field (w 3) 63 32 != 0 || field (w 5) 63 32 != 0 || w 6 != 0 ||
      (y.fmt != 4 && (y.gscale != 0 || y.sscale != 0)) then 1
  else if 4 < y.fmt || (y.fmt == 4 && y.w == 0) || (y.fmt != 4 && y.w != 0) then 2
  else if y.rows == 0 || 2 ^ 20 < y.rows || y.cols == 0 || decide (2 ^ 20 < y.cols) || (y.fmt == 4 && y.cols % 256 != 0) then 3
  else if y.gstride < y.rowSize || !aligned y.gstride 8 || y.sstride < y.rowSize || !aligned y.sstride 64 then 4
  else if !aligned y.sscale 64 then 5
  else 0

/-- R229: the seal of a record's first 56 bytes under a key handle. -/
def State.sealOf (s : State) (keyh : Word) (bs : List Byte) : List Byte :=
  let k := if keyh = 0 then drawnKey (s.sec.epoch + 1) 32 else s.slotKey (field keyh 29 20)
  let key := kdf k (asciiOf "KY9-SEAL") (natsOf (beBytes 8 keyh.toNat))
  bytesOf ((cmac key (natsOf (bs ++ leBytes 8 keyh.toNat))).take 8)

/-- R230: lrmk. -/
def execLrmk (h : Hdr) (d a b : Fin 64) (s : State) : Outcome State Fault Refusal :=
  word (.lrmk h d a b) s fun x =>
    let va := x.sreg a
    let vb := x.sreg b
    if x.acquiring || x.bankPending 56 [(0, va)] then .wait
    else if !aligned va.toNat 8 then .trap { code := cALIGN, tval := va }
    else if !aligned vb.toNat 64 then .trap { code := cALIGN, tval := vb }
    else
      let r := State.reachPieces x.space .read true x.s (rangePieces va 56)
      if !r.2.2.isEmpty then x.faulted r.1 r.2.2 false
      else if r.2.1.any (fun p => p.1.mt == 2) && x.busy (fun q => q.loc.mt == 2) then .wait
      else
        let desc := r.2.1.flatMap (fun p => r.1.ownBytes x.agent x.gi x.frag.mask p.1 (r.1.homeBytes p.1 p.2.1))
        let r := (r.2.1.foldl (fun s p => (s.askHome p.1 p.2.1).refresh1 x.coreIx p.1) r.1, r.2)
        let st := checkLayout desc
        if st != 0 then .done (x.sResult r.1 d (BitVec.ofNat 64 st) 380)
        else
          match State.reachPieces x.space .write false r.1 (rangePieces vb 64) with
          | (s, _, b :: bad) => x.faulted s (b :: bad) true
          | (s, [], []) => .done s
          | (s, p :: _, []) =>
            if p.1.mt == 2 && x.busy (fun q => q.loc.mt == 2) then .wait
            else if p.2.2.rm && (s.replica? p.1.asid p.1.va).isSome then
              .block (x.modF (s.collapseAt p.1.asid p.1.va) (fun f =>
                { f with pc := x.pc, st := .blocked .collapse, todo := some x.lanes }))
            else
              let due := s.clock + s.homeTime x.space.die p.1
              let k := s.nextId
              let s := x.variable s [.s d.val] [⟨.s d.val, 0⟩] 0 8 due false
              .done (s.sendHome (x.storeOps true 0 p.1 (desc ++ s.sealOf x.la.r.keyh desc) false (some k) due))

/-! ### Slices (R233) -/

/-- R233: the launched C-role groups of a team, in ascending order. -/
def Team.copyGroups (t : Team) : List Nat :=
  (List.range 32).filter (fun g => match t.groups[g]? with | some y => y.role == .c && y.launched != 0 | none => false)

/-- R233: the rows of a group's slice, as first row and count. -/
def sliceRows (rows n i : Nat) : Nat × Nat := (i * rows / n, (i + 1) * rows / n - i * rows / n)

/-- R233: the number of rows of a slice of a team. -/
def Team.rowsOf (t : Team) (x : Slice) : Nat :=
  let gs := t.copyGroups
  (sliceRows x.lay.rows gs.length ((gs.filter (fun g => decide (g < x.grp))).length)).2

/-- R233: the byte ranges of a slice: global address, scratchpad offset and length of each row and of its scales. -/
def Slice.ranges (x : Slice) (rows : Nat) : List (Word × Nat × Nat) :=
  (List.range rows).flatMap (fun r =>
    let g := x.g + BitVec.ofNat 64 (r * x.lay.gstride)
    let o := x.s.toNat + r * x.lay.sstride
    let k := x.lay.scaleSize
    (g, o, x.lay.rowSize) ::
      (if k = 0 then []
       else [(x.g + BitVec.ofNat 64 (x.lay.gscale + r * k), x.s.toNat + x.lay.sscale + r * k, k)]))

/-- R293: the units of a byte range, cut by the alignment of its destination. -/
def rangeUnits (s2g : Bool) (z : Word × Nat × Nat) : List (Word × Nat × Nat) :=
  (unitsOf (if s2g then z.1.toNat else z.2.1) z.2.2 0 z.2.2).map (fun u => (z.1 + BitVec.ofNat 64 u.1, z.2.1 + u.1, u.2))

/-- R234: the scratchpad bytes a slice reaches up to. -/
def Slice.top (x : Slice) (rows : Nat) : Nat :=
  if rows = 0 then 0
  else
    max (x.s.toNat + (rows - 1) * x.lay.sstride + x.lay.rowSize)
      (if x.lay.fmt = 4 then x.s.toNat + x.lay.sscale + rows * x.lay.scaleSize else 0)

/-! ### The copy latch (R235) -/

/-- R235: the accepted transfers of a core that have not completed. -/
def State.coreXfers (s : State) (t : Team) : Nat :=
  (s.teams.filter (fun y => y.die == t.die && y.core == t.core)).foldl (fun n y => n + y.xfers.length) 0

/-- The bytes a slice moves. -/
def Slice.bytes (x : Slice) (rows : Nat) : Nat := rows * (x.lay.rowSize + x.lay.scaleSize)

/-- R235: a latch at which every C-role group has arrived completes, unless eight transfers of the core are outstanding. -/
def State.tryCopyLatch (s : State) (tid : Nat) : State :=
  match s.team? tid with
  | none => s
  | some t =>
    match s.launch? t.seq, t.copyLatch.getLast? with
    | some l, some m =>
      if t.copyLatch.length < t.copyGroups.length then s
      else if !t.copyLatch.all (fun y => y.recAd == m.recAd && y.s2g == m.s2g && y.bar == m.bar) then
        let c : Trap := { code := cROLE, sub := 3, tval := groupMask (t.copyLatch.map Slice.grp) }
        let s := s.modTeam tid (fun t => { t with copyLatch := [] })
        t.copyLatch.reverse.foldl (fun s y => s.takeTrap (.frag tid y.grp y.ent) c) s
      else if 8 ≤ s.coreXfers t then s
      else
        let r := s.accept l t m.grp 1
        let size := t.copyLatch.foldl (fun n y => n + y.bytes (t.rowsOf y)) 0
        let parts := t.copyLatch.flatMap (fun y => (y.ranges (t.rowsOf y)).flatMap (rangeUnits y.s2g))
        let s := r.1.modTeam tid (fun t =>
          { t with copyLatch := [], xfers := t.xfers ++ [⟨r.2, t.copyLatch, parts, s.clock + 380 + size / 64, [], []⟩] })
        t.copyLatch.foldl (fun s y => s.unlatch tid y.grp y.ent) s
    | _, _ => s

/-- R232-R235: cpy. -/
def execCpy (h : Hdr) (d a b : Fin 64) (s2g : Bool) (bar : Option (BitVec 4)) (s : State) : Outcome State Fault Refusal :=
  word (.cpy h d a b s2g bar) s fun x =>
    let rc := x.sreg d
    let g := x.sreg a
    let o := x.sreg b
    if x.grp.acquiring x.grp.launched || x.groupBusy || x.engineOps || x.team.copyLatch.any (fun y => y.grp == x.gi) then .wait
    else if !aligned rc.toNat 64 then .trap { code := cALIGN, tval := rc }
    else if !aligned g.toNat 8 then .trap { code := cALIGN, tval := g }
    else if !aligned o.toNat 64 then .trap { code := cALIGN, tval := o }
    else
      let r := State.reachPieces x.space .read true x.s (rangePieces rc 64)
      if !r.2.2.isEmpty then x.faulted r.1 r.2.2 false
      else
        let bs := r.1.pieceBytes r.2.1
        let r := (r.2.1.foldl (fun s p => (s.askHome p.1 p.2.1).refresh1 x.coreIx p.1) r.1, r.2)
        if r.1.sealOf x.la.r.keyh (bs.take 56) != bs.drop 56 then .trap { code := cSEAL, tval := rc }
        else
          let y : Slice := ⟨x.gi, x.frag.ent, rc, layoutOf bs, g, o, s2g, bar.map BitVec.toNat⟩
          if 256 * x.la.r.scr < y.top (x.team.rowsOf y) then .trap { code := cMEMF, sub := 1, tval := o }
          else
            let s := x.modT (x.blockAt r.1 .copyLatch) (fun t =>
              { t with copyLatch := t.copyLatch ++ [y], copyAt := x.s.clock, copyTold := false })
            .block (s.tryCopyLatch x.team.id)

/-! ### Transfers (R236, R237) -/

/-- R428: the bytes a transfer reads from a metered region are counted. -/
def State.meter (s : State) (ps : List Piece) : State :=
  ps.foldl (fun s p =>
    match s.metered p.1.asid p.1.va with
    | none => s
    | some r => s.modSec (fun x =>
        { x with regions := x.regions.map (fun y => if y.id = r.id then { y with count := y.count + p.2.1 } else y) })) s

/-- R427: the metered regions that pieces lie in. -/
def State.regionsOf (s : State) (ps : List Piece) : List Nat := ps.filterMap (fun p => (s.metered p.1.asid p.1.va).map Region.id)

/-- The changes of one transfer of a team. -/
def State.modXfer (s : State) (tid : Nat) (num : Word) (f : Xfer → Xfer) : State :=
  s.modTeam tid (fun t => { t with xfers := t.xfers.map (fun y => if y.num = num then f y else y) })

/-- A completed or abandoned transfer leaves; a latch of the core that waited for it may complete. -/
def State.endXfer (s : State) (t : Team) (num : Word) : State :=
  let s := s.modTeam t.id (fun t => { t with xfers := t.xfers.filter (fun y => y.num != num) })
  (s.teams.filter (fun y => y.die == t.die && y.core == t.core)).foldl (fun s y => s.tryCopyLatch y.id) s

def Xfer.s2g (y : Xfer) : Bool := (y.slices.head?.map Slice.s2g).getD false

/-- R242: the bytes of a gxch's output area. -/
def Exch.areaSize (x : Exch) : Nat := match x.k with | .z32 => 278528 | _ => 147456

/-- R242, R281, R292: an earlier gxch of the team still has to write some of a range of scratchpad. -/
def Team.areaHeld (t : Team) (num : Word) (o n : Nat) : Bool :=
  t.exchs.any (fun e => e.kind == .mat && e.fail.isNone && decide (e.num1.toNat < num.toNat) && overlaps e.ofs.1 e.areaSize o n)

/-- R274, R292: the transfers of the launch's other teams that come before one on the copy engine's timeline. -/
def State.earlierXfers (s : State) (t : Team) (y : Xfer) : List Xfer :=
  (s.teams.filter (fun k => k.seq == t.seq && k.id != t.id)).flatMap (fun k => k.xfers.filter (fun z => decide (z.num.toNat < y.num.toNat)))

/-- R278, R280, R281, R292: the copy context is one agent: a unit waits while an earlier operation of it still has to move bytes of the same
place, one of the two writing them (log entry 80). -/
def State.unitHeld (s : State) (t : Team) (y : Xfer) (u : Word × Nat × Nat) : Bool :=
  t.areaHeld y.num u.2.1 u.2.2 ||
    (s.earlierXfers t y).any (fun z => (y.s2g || z.s2g) && z.parts.any (fun v => overlaps u.1.toNat u.2.2 v.1.toNat v.2.2))

/-- R236: one unit of a transfer is moved between its translated places; missed names the lines that their home slices did not hold
(R424). -/
def State.copyUnit (s : State) (tid : Nat) (y : Xfer) (u : Word × Nat × Nat) (ps : List Piece) (missed : List Nat) : State :=
  let s := s.modXfer tid y.num (fun z => { z with parts := z.parts.erase u })
  match s.team? tid with
  | none => s
  | some t =>
    let part := ((s.launch? t.seq).map Launch.part).getD 0
    let s := ps.foldl (fun s p => s.countRequest part t.seq (64 * t.die + t.core) p.2.1 p.1 (if missed.contains (p.1.va / 64) then 3 else 2) .l1) (s.tally t 9 u.2.2)
    if y.s2g then s.writePieces ps (Cells.slice 0 t.scratch u.2.1 u.2.2)
    else
      let bs := s.pieceBytes ps
      let s := s.modXfer tid y.num (fun z => { z with seen := z.seen ++ (s.regionsOf ps).filter (fun k => !z.seen.contains k) })
      (s.meter ps).modTeam tid (fun t => { t with scratch := Cells.splice 0 t.scratch u.2.1 bs })

/-- R236, R237, R281, R289: a transfer that waits for nothing moves one of its units. A unit on a device page waits for every earlier
transfer of the context. A replayable fault suspends it; another one abandons
it and terminates the team; replicas of the page it writes collapse first, and a die that sleeps wakes. -/
def State.moveUnit (s : State) (tid : Nat) (num : Word) (u : Word × Nat × Nat) : State :=
  match s.team? tid with
  | none => s
  | some t =>
    match s.launch? t.seq, t.xfers.find? (fun y => y.num == num) with
    | some l, some y =>
      if !y.waiting.isEmpty || !y.parts.contains u || s.unitHeld t y u then s
      else
        let r := State.reachPieces (l.space t.die) (if y.s2g then .write else .copyRead) (!y.s2g) s (rangePieces u.1 u.2.2)
        match r.2.2 with
        | b :: _ =>
          if replayable b.2 then
            (r.1.missPage tid l ⟨b.1, true, false, y.s2g, b.2, 0xFF⟩).modXfer tid num (fun z => { z with waiting := [pageOf b.1.toNat] })
          else (r.1.endXfer t num).terminate tid 0xFF 0 cMEMF b.2 0 b.1
        | [] =>
          let cold := r.2.1.filter (fun p => p.1.peer == 0 && inDram p.1.pa && r.1.asleep (homeDie p.1.pa))
          if !cold.isEmpty then cold.foldl (fun s p => s.wakeDie (homeDie p.1.pa)) r.1
          else if r.2.1.any (fun p => p.1.mt == 2) && !(s.earlierXfers t y).isEmpty then r.1
          else if y.s2g && r.2.1.any (fun p => (r.1.replica? p.1.asid p.1.va).isSome) then
            r.2.1.foldl (fun s p => s.collapseAt p.1.asid p.1.va) r.1
          else
            r.1.copyUnit tid y u r.2.1 (((r.2.1.filter (fun p => (s.sliceLine? (homeDie p.1.pa) p.1.asid p.1.va).isNone)).map (fun p => p.1.va / 64)))
    | _, _ => s

/-- R236: a transfer that is whole is complete: its transfer arrival, then its timeline. -/
def State.xferDone (s : State) (t : Team) (l : Launch) (y : Xfer) : State :=
  let s := match (y.slices.head?).bind Slice.bar with
    | some nb => s.transferArrive t.id nb y.num
    | none => s
  (s.completeNumber l.r.ctx 1 y.num).endXfer t y.num

/-- R236, R237: a transfer moves every unit that is left and completes; one that some unit held up goes on later. It follows every earlier
transfer of its team, an access of the same groups. -/
def State.copyComplete (s : State) (tid k : Nat) : State :=
  match s.team? tid with
  | none => s
  | some t =>
    match s.launch? t.seq, t.xfers.head?.filter (fun y => y.num.toNat == k) with
    | some l, some y =>
      if !y.waiting.isEmpty || s.cmdHeld l 1 y.num then s
      else
        let s := y.parts.foldl (fun s u => s.moveUnit tid y.num u) s
        match (s.team? tid).bind (fun t => t.xfers.find? (fun z => z.num == y.num)) with
        | some z => if z.parts.isEmpty then s.xferDone t l y else s.modXfer tid y.num (fun z => { z with due := s.clock + 1 })
        | none => s
    | _, _ => s

/-- R236, R293: before it completes, the first transfer of a team moves any of its units, in any order. -/
def State.copySome (s : State) (t : Team) : State :=
  (t.xfers.take 1).foldl (fun s y =>
    match s.launch? t.seq with
    | some l => if s.cmdHeld l 1 y.num then s else (s.movesNow (t.id * 2 ^ 40 + y.num.toNat) y.parts).foldl (fun s u => s.moveUnit t.id y.num u) s
    | none => s) s

end Sys2Proof.Machine
end

