-- ==== Sys2Proof/Machine/Meter.lean ====
section
/-! DEFINITION. Metered regions (R426-R434): the report of a region, its signature and chain, and commits to the store and
the report ring. -/

namespace Sys2Proof.Machine

/-- R429: SIG of a report: 64 bytes. -/
def signatureOf (digest : List Nat) : List Byte := (List.range 64).map (fun j => BitVec.ofNat 8 (Config.signature digest j))

/-- R429: the bytes of a report of a region. -/
def Region.report (r : Region) (kind : Nat) : List Byte :=
  let head := leBytes 8 (0x4B59394D * 2 ^ 32 + 2 ^ 16 + kind * 2 ^ 8)
  let body := leBytes 8 Config.deviceId ++ leBytes 8 r.id ++ leBytes 8 r.count ++ leBytes 8 r.rnum ++ beBytes 32 r.prev.toNat
  head ++ body ++ signatureOf (sha256 (natsOf body)) ++ List.replicate 24 0

/-- R429: the hash of a report. -/
def reportHash (report : List Byte) : BitVec 256 := BitVec.ofNat 256 (beNat (sha256 (natsOf (report.take 0x88))))

/-- The offset of a partition's metering registers in the security unit's block. -/
def mreg (p : Nat) : Nat := 0x1000 + 0x40 * p

/-- R430 step 6: a report is posted to the partition's ring, while the ring is a valid one. -/
def State.postReport (s : State) (p : Nat) (report : List Byte) : State :=
  let rq := s.hreg .sec (mreg p + 0x20)
  let tail := s.hreg .sec (mreg p + 0x28)
  let n := field rq 3 0
  let base := field rq 63 12 * 2 ^ 12
  if n < 4 || 12 < n || !s.inPartDram p base (256 * 2 ^ n) then s
  else (s.writePhys 0 (base + 256 * (tail.toNat % 2 ^ n)) (report ++ List.replicate 96 0)).setHreg .sec (mreg p + 0x28) (tail + 1)

/-! ### The secure storage (R434) -/

/-- R434: the store key of the present OTP generation. -/
def State.storeKey (s : State) : List Nat :=
  kdf ((List.range 32).map (fun j => (Config.deviceScalar j).toNat)) (asciiOf "KY9-STORE") [s.fuses.otpGen]

/-- R434: the authentication of a write of a region's record, which carries the write counter; what it covers besides is the model's
(log entry 75). -/
def State.storeTag (s : State) (ctr : Nat) (r : Region) : BitVec 256 :=
  BitVec.ofNat 256 (beNat (hmac s.storeKey (natsOf (beBytes 8 ctr ++ leBytes 2 r.id ++ r.latest))))

/-- R434: the store takes a write whose counter is greater than its own, which it then holds, and refuses every other. -/
def Sec.storeWrite (x : Sec) (ctr : Nat) (f : Sec → Sec) : Sec := if x.storeCtr < ctr then { f x with storeCtr := ctr } else x

/-- R434: the latest report of a region goes to the store, with the next counter. -/
def State.storeRecord (s : State) (r : Region) : State :=
  let ctr := s.sec.storeCtr + 1
  s.modSec (fun x => x.storeWrite ctr (fun x =>
    { x with store := x.store.filter (fun y => y.id != r.id) ++ [r],
             storeTags := x.storeTags.filter (fun y => y.1 != r.id) ++ [(r.id, ctr, s.storeTag ctr r)] }))

/-- R434: the record of a region leaves the store. -/
def State.storeErase (s : State) (id : Nat) : State :=
  s.modSec (fun x => x.storeWrite (x.storeCtr + 1) (fun x =>
    { x with store := x.store.filter (fun y => y.id != id), storeTags := x.storeTags.filter (fun y => y.1 != id) }))

/-- R434: the hash of an imported report joins the list that the store holds. -/
def State.storeImport (s : State) (h : BitVec 256) : State :=
  s.modSec (fun x => x.storeWrite (x.storeCtr + 1) (fun x => { x with imports := x.imports ++ [h] }))

/-- R434: a record fails its check: its tag is not that of the present generation's key, or the store's answer to the read, made with a fresh
nonce, does not verify. -/
def State.storeBad (s : State) (r : Region) : Bool :=
  (match s.sec.storeTags.find? (fun y => y.1 == r.id) with
   | some y => s.storeTag y.2.1 r != y.2.2
   | none => true) || Config.storeFails s.nonce r.id

/-- R430: a commit of one region. -/
def State.commitRegion (s : State) (id kind : Nat) : State :=
  match s.sec.regions.find? (fun r => r.id == id) with
  | none => s
  | some r =>
    if s.sec.erased then s
    else
      let r := { r with rnum := if kind = 0 then r.rnum else r.rnum + 1 }
      let report := r.report kind
      let r := { r with prev := reportHash report, lastCount := r.count, latest := report }
      let s := (s.modSec (fun x => { x with regions := x.regions.map (fun y => if y.id = id then r else y) })).storeRecord r
      s.postReport r.part report

/-- R431: a commit of the regions that p selects, in ascending id. -/
def State.commitRegions (s : State) (kind : Nat) (p : Region → Bool) : State :=
  ((s.sec.regions.filter p).map Region.id).foldl (fun s id => s.commitRegion id kind) s

/-- R431: the regions whose count has changed since their last report. -/
def Region.changed (r : Region) : Bool := r.count != r.lastCount

end Sys2Proof.Machine
end

