-- ==== Sys2Proof/Machine/Streams.lean ====
section
/-! DEFINITION. Control-core streams: lnch, ldep, lwait and lsig (R252, R253), the launch record and its validation
(R327, R328, R373), the key slots and handles a launch names (R370, R371), and the retirement of a launch (R332, R377). -/

namespace Sys2Proof.Machine

open Host (Outcome)

/-! ### Launch records (R327) -/

/-- R327: the fields of the sixteen words of a record. -/
def parseRec (ws : List Word) : Rec :=
  let w (k : Nat) : Word := ws.getD k 0
  { entry := w 0, lanes := field (w 1) 44 32, groups := field (w 1) 21 16, wc := field (w 1) 9 8, vregs := field (w 1) 7 0,
    scr := field (w 2) 27 16, lmem := field (w 2) 3 0, roles := w 3, spans := field (w 4) 31 16, half := field (w 4) 9 5,
    teams := field (w 4) 4 0, dbg := (w 5).getLsbD 13, chain := (w 5).getLsbD 12, chk := (w 5).getLsbD 11,
    rst := (w 5).getLsbD 10, resid := (w 5).getLsbD 9, eclass := field (w 5) 6 4, prio := field (w 5) 3 0,
    mode := (w 6).setWidth 24, dur := field (w 7) 63 32, plat := field (w 7) 31 0, park := field (w 8) 31 16,
    wdog := field (w 8) 15 0, keyh := w 9, sigtl := field (w 10) 18 16, ctx := field (w 10) 15 0, sigval := w 11,
    args := w 12, traph := w 13 }

/-- R327: the bits of each record word that may be set. -/
def recMask : List Word :=
  [0xFFFFFFFFFFFFFFFF, 0x00001FFF003F03FF, 0x000000000FFF000F, 0xFFFFFFFFFFFFFFFF, 0x00000000FFFF03FF, 0x0000000000003E7F,
   0x0000000000FF01FF, 0xFFFFFFFFFFFFFFFF, 0x00000000FFFFFFFF, 0xFFFFFFFFFFFFFFFF, 0x000000000007FFFF, 0xFFFFFFFFFFFFFFFF,
   0xFFFFFFFFFFFFFFFF, 0xFFFFFFFFFFFFFFFF, 0, 0]

/-- R327: the role code of a group. -/
def Rec.roleCode (r : Rec) (g : Nat) : Nat := field r.roles (2 * g + 1) (2 * g)

/-- R328 check 2: a reserved bit, a field outside its range or a misaligned address. A LANES outside its range is refused by check 4, as R258
says (log entry 49). -/
def fieldBad (ws : List Word) (r : Rec) : Bool :=
  (List.range 16).any (fun k => ws.getD k 0 &&& ~~~(recMask.getD k 0) != 0) || r.wc == 3 || r.groups == 0 || 32 < r.groups ||
    (List.range r.groups).any (fun g => r.roleCode g == 3) || r.roles.toNat / 2 ^ (2 * r.groups) != 0 || r.vregs == 0 ||
    decide (192 < r.vregs) || decide (2048 < r.scr) || r.spans == 0 || r.teams == 0 ||
    decide (16 < r.teams) || (r.half != 0 && decide (r.teams ≤ r.half)) || !aligned r.entry.toNat 8 || !aligned r.args.toNat 8 ||
    !aligned r.traph.toNat 8

/-! ### Key slots and handles (R370, R371, R373) -/

def freeSlot : KeySlot := ⟨.free, 0, 0, 0, []⟩

def State.keySlot (s : State) (n : Nat) : KeySlot := Cells.get freeSlot s.sec.slots n

def State.setSlot (s : State) (n : Nat) (k : KeySlot) : State :=
  s.modSec (fun x => { x with slots := Cells.set freeSlot x.slots n k })

/-- R371: the tag of a handle's low 32 bits. -/
def State.handleTag (s : State) (low : Nat) : Nat :=
  leNat ((bytesOf ((cmac (drawnKey (s.sec.epoch + 3) 32) (natsOf (beBytes 4 low))).take 4)).reverse)

/-- R371: the handle of a key slot. -/
def State.handleOf (s : State) (n : Nat) : Word :=
  let k := s.keySlot n
  let low := k.part * 2 ^ 30 + n * 2 ^ 20 + k.gen % 2 ^ 20
  BitVec.ofNat 64 (s.handleTag low * 2 ^ 32 + low)

/-- R373: the first three tests of a handle. -/
def State.handleNames (s : State) (p : Nat) (h : Word) : Bool :=
  let n := field h 29 20
  field h 63 32 == s.handleTag (field h 31 0) && field h 31 30 == p && n != 0 && (s.keySlot n).st == .live

/-- R373: all four tests. -/
def State.handleOk (s : State) (p : Nat) (h : Word) : Bool :=
  s.handleNames p h && (s.keySlot (field h 29 20)).gen == field h 19 0

/-- R370: a live launch names the slot. -/
def State.slotUsed (s : State) (n : Nat) : Bool := s.launches.any (fun l => l.st != .retired && l.slot == n)

/-- R376: what the ciphertext of a slot's lines holds is from now on read under another key, so it stands in mem as slot 0 reads it. -/
def State.leaveSlot (s : State) (n : Nat) : State :=
  ((s.slotOf.filter (fun e => e.2 == n)).map Prod.fst).foldl (fun (s : State) line => s.rekeyLine 0 line) s

/-- R370, R376, R404: a slot's key is erased; what a copy-in under way still writes under the slot is written under a key that no one holds. -/
def State.eraseSlot (s : State) (n : Nat) : State :=
  let k := s.keySlot n
  ((s.leaveSlot n).setSlot n ⟨.free, 0, k.gen + 1, s.sec.drawn, []⟩).modSec (fun x => { x with drawn := x.drawn + 1 })

/-- R370, R397: RETIRE of a live slot; the copy-in streams bound to it close. -/
def State.retireSlot (s : State) (n : Nat) : State :=
  let s := s.modSec (fun x => { x with cins := x.cins.filter (fun c => c.slot != n) })
  if s.slotUsed n then s.setSlot n { s.keySlot n with st := .retiring } else s.eraseSlot n

/-! ### What a launch needs (R87, R258, R263, R264) -/

/-- R310: cores reserved for the Dealer world on each die of a partition: the highest-numbered ones. -/
def State.dcores (s : State) (p : Nat) : Nat :=
  ((s.pairs.find? (fun y => y.p0 == p || y.p1 == p)).map PairCfg.dcores).getD 0

def State.usableCores (s : State) (p : Nat) : Nat := 64 - s.dcores p

/-- R264: the energy weight of a class. -/
def classWeight (c : Nat) : Nat := [1, 2, 3, 4, 6, 8, 12, 16].getD c 16

/-- R261, R264: what one team takes of a core: groups, register file, lane memory, scratchpad, store and weight. -/
structure Need where
  groups : Nat
  regs   : Nat
  lmem   : Nat
  scr    : Nat
  store  : Nat
  weight : Nat
  deriving DecidableEq, Repr

def Rec.need (r : Rec) : Need :=
  { groups := r.groups, regs := r.groups * (r.width * r.vregs * 4), lmem := r.groups * r.width * r.lmemBytes, scr := 256 * r.scr,
    store := if (List.range r.groups).any (fun g => r.roleCode g == 1) then 1 else 0, weight := classWeight r.eclass * r.groups }

def Need.add (a b : Need) : Need :=
  ⟨a.groups + b.groups, a.regs + b.regs, a.lmem + b.lmem, a.scr + b.scr, a.store + b.store, a.weight + b.weight⟩

def Need.zero : Need := ⟨0, 0, 0, 0, 0, 0⟩

/-- R263: the sums a core admits under a budget. -/
def Need.fits (n : Need) (budget : Nat) : Bool :=
  decide (n.groups ≤ 32) && decide (n.regs ≤ 524288) && decide (n.lmem ≤ 524288) && decide (n.scr ≤ 524288) && decide (n.store ≤ 1) &&
    decide (n.weight ≤ budget)

/-- n teams of one kind. -/
def Need.times (a : Need) (n : Nat) : Need :=
  ⟨n * a.groups, n * a.regs, n * a.lmem, n * a.scr, n * a.store, n * a.weight⟩

/-- R263, R265: how many teams of a launch, each of another span, one empty core holds. -/
def Need.perCore (a : Need) (budget : Nat) : Nat := ((List.range 8).filter (fun n => (a.times (n + 1)).fits budget)).length

/-- R258: launched lanes of group g. -/
def Rec.launchedOf (r : Rec) (g : Nat) : Nat := if g + 1 < r.groups then r.width else r.lanes - r.width * (r.groups - 1)

/-- R442: the budget at the highest power state. -/
def State.topBudget (s : State) : Nat := field (s.hreg .power 0x10) 7 0

/-- R328 check 4; the cores that a resident launch needs are those on which its teams find room, as many to a core as R263 lets share it. -/
def State.shapeBad (s : State) (p : Nat) (r : Rec) : Bool :=
  let dies := s.diesOf p
  let cores := s.usableCores p
  decide (r.width * r.groups < r.lanes) || decide (r.lanes ≤ r.width * (r.groups - 1)) || !r.need.fits s.topBudget || dies.isEmpty ||
    (if r.half = 0 then decide (cores < r.teams)
     else decide (cores < r.half) || decide (cores < r.teams - r.half) ||
       !dies.any (fun a => dies.any (fun b => decide (a < b) && s.fuses.neighbours a b))) ||
    (r.chain && decide (4096 < r.spans * r.teams)) || (r.resid && decide (cores * dies.length * r.need.perCore s.topBudget < r.spans * r.teams))

/-- R324, R328 check 1: CTX names a launch context of the stream. -/
def State.launchCtx (s : State) (n h : Nat) : Bool :=
  match s.ctx? h with
  | some c => !c.signal && c.stream == n
  | none => false

/-- R328, R449: the status a record is refused with, or 0. -/
def State.validate (s : State) (n p : Nat) (ws : List Word) (r : Rec) : Nat :=
  if s.sec.refused then 7
  else if !s.launchCtx n r.ctx || !(r.sigtl == 0 || r.sigtl == 6 || r.sigtl == 7) then 4
  else if fieldBad ws r then 1
  else if r.keyh != 0 && !s.handleOk p r.keyh then 3
  else if s.shapeBad p r then 2
  else 0

/-! ### Retirement (R332, R377) -/

/-- R178, R332: the end of a launch: its queues dissolved, its status record where its status is not OK, the write-back of its tag, the raise of
SIGTL with mirror and message, and the end of what it held. -/
def State.retireLaunch (s : State) (seq : Nat) : State :=
  match s.launch? seq with
  | none => s
  | some l =>
    let s := if l.status = 0 then s else s.postFault l 0xFF 0xFF 0xFFFF l.status 0 0 0 0
    let s := s.trace l 0 5 0xFF 0xFF 0xFFFF 0 0 (BitVec.ofNat 64 l.status)
    let s := (s.queues.filter (fun q => q.seq == seq)).foldl State.dissolve s
    let dies := s.diesOf l.part
    let s := s.dropSlices (fun x => Word.key x.leaf == l.slot && dies.contains x.die)
    let s : State := { s with
      l1 := s.l1.filter (fun x => !(Word.key x.leaf == l.slot && dies.contains (x.core / 64)))
      teams := s.teams.filter (fun t => t.seq != seq)
      combiners := s.combiners.filter (fun c => c.seq != seq)
      combMsgs := s.combMsgs.filter (fun m => m.seq != seq)
      chain := s.chain.filter (fun c => c.seq != seq)
      broken := s.broken.filter (fun b => b.seq != seq)
      overflow := s.overflow.filter (fun m => m.seq != seq) }
    let s := s.modSec (fun x => { x with saves := x.saves.filter (fun e => e.seq != seq) })
    let s := s.modLaunch seq (fun l => { l with st := .retired, spans := [] })
    let s := if s.launchCtx l.stream l.r.ctx && (l.r.sigtl == 0 || l.r.sigtl == 6 || l.r.sigtl == 7) then s.raise l.r.ctx l.r.sigtl l.r.sigval else s
    let s := if l.slot != 0 && (s.keySlot l.slot).st == .retiring && !s.slotUsed l.slot then s.eraseSlot l.slot else s
    s.modDbg l.part (fun d => if d.att && d.seq = seq then { d with att := false, stopped := false, seq := 0, pending := none, pass := none, step := none, stepEnd := none, leave := none, held := [], susp := [], counts := List.replicate 8 0, coreCounts := [], samples := [] } else d)

/-- R332, R333, R341, R394, R449: a launch is ended from outside with a status and a subcode: its teams terminate, with a record each, and its
spans are done; a termination that a debugger holds is overtaken (R411, R417); it retires once its accesses have been performed. -/
def State.endLaunchAs (s : State) (seq status sub : Nat) : State :=
  match s.launch? seq with
  | none => s
  | some l =>
    if l.st = .retired then s
    else
      let s := (s.teams.filter (fun t => t.seq == seq && t.res != .retired && t.res != .terminated)).foldl
        (fun s t => (s.postFault l 0xFF t.idx t.span status 0 sub 0 0).dropTeam t .terminated true) s
      let s := s.modSec (fun x => { x with saves := x.saves.filter (fun e => e.seq != seq) })
      let s := s.modDbg l.part (fun d => if d.att && d.seq = seq then { d with susp := [] } else d)
      s.modLaunch seq (fun l =>
        { l.fail status with st := .ready, spans := l.spans.map (fun p => { p with st := .done, action := none }) })

/-- R341, R394, R449: a launch is ended from outside with a status. -/
def State.endLaunch (s : State) (seq status : Nat) : State := s.endLaunchAs seq status 0

/-! ### The four words -/

/-- R252: a context of the stream's control program, by its handle. -/
def Issue.handle (x : Issue) (h : Word) : Option Ctx :=
  match x.s.ctx? h.toNat with
  | some c => if c.stream = x.la.stream then some c else none
  | none => none

/-- The 64-bit words a stream loads from an address, or the first address that faults with its subcode. -/
def Issue.loadWords (x : Issue) : State → Word → Nat → State × Except (Word × Nat) (List Word)
  | s, _, 0 => (s, .ok [])
  | s, va, n + 1 =>
    match s.reach1 x.space .read true false 8 va with
    | (s, .error e) => (s, .error (va, e))
    | (s, .ok (c, _)) =>
      let r := s.loadBytes x.agent x.gi x.coreIx x.frag.mask c 8 true
      match x.loadWords r.1 (va + 8) n with
      | (s, .ok ws) => (s, .ok (BitVec.ofNat 64 (leNat r.2.1) :: ws))
      | (s, .error e) => (s, .error e)

/-- R410: a debugger that has named the launch's number is attached at validation. -/
def State.attachAt (s : State) (l : Launch) : State :=
  s.modDbg l.part (fun d =>
    if d.seq = l.seq && l.r.dbg && !d.att then
      { d with att := match d.path with
          | .owner _ => true
          | _ => l.r.keyh == 0 && s.sec.tdi.getD l.part .unlocked == .unlocked }
    else d)

/-- R253, R328, R329: a record that has been read becomes a launch, refused at once or waiting for its dependences. -/
def State.submit (s : State) (n part asid : Nat) (lpc : Word) (ws argv : List Word) (deps : List (Nat × Nat × Word)) : State :=
  let r := parseRec ws
  let seq := s.nextSeq
  let st := s.validate n part ws r
  let l : Launch :=
    { Launch.blank with
      seq := seq, lpc := lpc, stream := n, part := part, asid := asid, r := r, argv := argv, status := st, st := .waiting,
      deps := deps,
      spans := if st = 0 then (List.range r.spans).map (fun k => ⟨k, .unplaced, none, 0, .asked, none, none⟩) else [] }
  let s : State := { s with nextSeq := seq + 1, launches := s.launches ++ [l] }
  let s := if st = 3 then s.logAlarm 1 part 1 (some part) else s
  if st = 0 then s.attachAt l else s.retireLaunch seq

/-- R253: lnch reads the record and the first eight argument words at issue. -/
def execLnch (h : Hdr) (d a : Fin 64) (s : State) : Outcome State Fault Refusal :=
  word (.lnch h d a) s fun x =>
    match x.who with
    | .stream n =>
      let va := x.sreg a
      if x.acquiring || x.bankPending 128 [(0, va)] || x.busy (fun q => q.loc.mt == 2) then .wait
      else if !aligned va.toNat 64 then .trap { code := cALIGN, tval := va }
      else
        match x.loadWords x.s va 16 with
        | (s, .error e) => .trapIn (s.modStream n (fun y => { y with pc := x.pc })) { code := cMEMF, sub := e.2, tval := e.1, tpc := some x.pc }
        | (s, .ok ws) =>
          let args := ws.getD 12 0
          match (if aligned args.toNat 8 then x.loadWords s args 8 else (s, .ok (List.replicate 8 0))) with
          | (s, .error e) => .trapIn (s.modStream n (fun y => { y with pc := x.pc })) { code := cMEMF, sub := e.2, tval := e.1, tpc := some x.pc }
          | (s, .ok argv) =>
            let deps := ((s.streams[n]?).map Stream.deps).getD []
            let s := s.modStream n (fun y => { y with deps := [] })
            let seq := s.nextSeq
            let s := s.submit n x.la.part x.la.asid x.pc ws argv deps
            .done (x.sResult s d (BitVec.ofNat 64 seq) 380)
    | _ => .trap { code := cPRIV, tval := x.word }

/-- R252, R253: ldep. -/
def execLdep (h : Hdr) (a b : Fin 64) (tl : BitVec 3) (s : State) : Outcome State Fault Refusal :=
  word (.ldep h a b tl) s fun x =>
    match x.who with
    | .stream n =>
      match x.handle (x.sreg a) with
      | none => .trap { code := cPRIV, tval := x.sreg a }
      | some c =>
        if 8 ≤ (((x.s.streams[n]?).map Stream.deps).getD []).length then .trap { code := cQOVF, sub := 1, tval := x.sreg a }
        else .done (x.s.modStream n (fun y => { y with deps := y.deps ++ [(c.handle, tl.toNat, x.sreg b)] }))
    | _ => .trap { code := cPRIV, tval := x.word }

/-- R252: lwait. -/
def execLwait (h : Hdr) (a b : Fin 64) (tl : BitVec 3) (s : State) : Outcome State Fault Refusal :=
  word (.lwait h a b tl) s fun x =>
    match x.who with
    | .stream n =>
      match x.handle (x.sreg a) with
      | none => .trap { code := cPRIV, tval := x.sreg a }
      | some c =>
        if x.acquiring || x.busy HomeOp.syncs then .wait
        else if (x.sreg b).toNat ≤ (x.s.timeline c.handle tl.toNat).toNat then .done (x.acquired x.s)
        else .block (x.s.modStream n (fun y => { y with pc := x.pc, st := .waiting c.handle tl.toNat (x.sreg b) }))
    | _ => .trap { code := cPRIV, tval := x.word }

/-- R252: lsig. -/
def execLsig (h : Hdr) (a b : Fin 64) (tl : BitVec 3) (s : State) : Outcome State Fault Refusal :=
  word (.lsig h a b tl) s fun x =>
    match x.who with
    | .stream _ =>
      match x.handle (x.sreg a) with
      | none => .trap { code := cPRIV, tval := x.sreg a }
      | some c =>
        if !c.signal then .trap { code := cPRIV, tval := x.sreg a }
        else if x.releaseBusy then .wait
        else .done (x.s.raise c.handle tl.toNat (x.sreg b))
    | _ => .trap { code := cPRIV, tval := x.word }

end Sys2Proof.Machine
end

