-- ==== Sys2Proof/Machine/Images.lean ====
section
/-! DEFINITION. Save images (R380-R385): the body, header and seal of a team's image, the places images take in the save
area, and the tests a restore makes. -/

namespace Sys2Proof.Machine

/-! ### The body (R383) -/

/-- Fields of given widths packed from bit 0 upwards. -/
def packBits : List (Nat × Nat) → Nat
  | [] => 0
  | (w, x) :: rest => x % 2 ^ w + 2 ^ w * packBits rest

/-- Bytes filled with zeros up to a length. -/
def padTo (n : Nat) (bs : List Byte) : List Byte := bs.take n ++ List.replicate (n - bs.length) 0

def w64 (x : Nat) : List Byte := leBytes 8 x

def barLevelBits : BarLevel → Nat
  | .team => 0
  | .die => 1
  | .pkg => 2

/-- R187: a barrier, its fields in the order of the rule. -/
def Bar.image (b : Bar) : List Byte :=
  leBytes 64 (packBits [(32, b.phase.toNat), (1, if b.ring then 1 else 0), (2, barLevelBits b.level), (2, barLevelBits b.bind),
    (6, b.expg0), (6, b.expg1), (6, b.expt0), (6, b.expt1), (6, b.xadd), (6, b.arrg), (7, b.arrt), (6, b.drops)])

/-- R217: a scan configuration as s(A) and s(B) gave it, with the kind and channel count beside the offsets. -/
def ScanCfg.image (c : ScanCfg) : List Byte :=
  let kind : Nat :=
    match c.kind with
    | .aff .none => 0
    | .aff .exp2 => 4
    | .aff .sig => 8
    | .trp => 1
    | .rng false => 2
    | .rng true => 18
  leBytes 16 (packBits [(19, c.aOfs), (13, 2 ^ 12 + kind), (19, c.bOfs), (13, c.d), (19, c.hOfs), (13, 0), (19, c.pOfs)])

def FragSt.code : FragSt → Nat
  | .ready => 0
  | .atJoin => 1
  | .atRegang => 2
  | .blocked _ => 3

/-- R140: an entry of the split table. -/
def Frag.image (f : Frag) : List Byte :=
  leBytes 32 (packBits [(64, f.mask.toNat), (64, f.pc.toNat), (5, f.join.getD 31), (4, f.age), (2, f.st.code)])

def Join.image (j : Join) : List Byte :=
  leBytes 32 (packBits [(64, j.rc.toNat), (64, j.expect.toNat), (64, j.arrived.toNat), (1, if j.regang then 1 else 0),
    (5, j.parent.getD 31), (1, 1)])

def Held.image (h : Held) : List Byte :=
  leBytes 32 (packBits [(64, h.mask.toNat), (64, h.pc.toNat), (5, h.join.getD 31), (4, h.age)])

def laneWords (m : Cells Lane) (lo n : Nat) : List Byte := (Cells.slice 0 m lo n).flatMap (fun x => leBytes 4 x.toNat)

/-- R383: the team record of 4,096 bytes. -/
def Team.recordImage (t : Team) : List Byte :=
  let cfgs := (List.range 32).flatMap (fun g =>
    match (t.groups[g]?).bind Group.scfg with
    | some c => c.image
    | none => List.replicate 16 0)
  let pages := t.pages.flatMap (fun p => w64 (p.2 * 4096 + p.1))
  padTo 4096 (
    padTo 0xA00 (
      padTo 0x900 (
        padTo 0x400 ((List.range 16).flatMap (fun k => (t.bars.getD k ⟨0, false, .team, .team, 0, 0, 0, 0, 0, 0, 0, 0, none, false, none, false⟩).image)) ++
          cfgs ++ laneWords t.aggH 0 64 ++ laneWords t.aggP 0 64 ++ laneWords t.cin 0 64) ++
        w64 ((if t.cv then 1 else 0) + (if t.cs then 2 else 0) + (if t.cb then 4 else 0))) ++
      w64 t.pages.length ++ pages)

/-- R383: the parked word and unfinished participants of a split-table entry. -/
def Group.parkedImage (g : Group) (e : Nat) : List Byte :=
  match g.frag? e with
  | some f =>
    match f.st, f.todo with
    | .blocked (.parked ..), some m => w64 f.pc.toNat ++ w64 m.toNat
    | _, _ => List.replicate 16 0
  | none => List.replicate 16 0

def byIndex {α : Type} (n size : Nat) (f : Nat → Option α) (img : α → List Byte) : List Byte :=
  (List.range n).flatMap (fun k => match f k with | some x => img x | none => List.replicate size 0)

def roleBits : Role → Nat
  | .c => 0
  | .m => 1
  | .v => 2

/-- R91: GSTAT as an image keeps it. -/
def Group.statusImage (g : Group) (W : Nat) : Nat :=
  roleBits g.role * 2 ^ 8 + (if g.rst then 8 else 0) + (if g.launched != lanesBelow W then 4 else 0) + (if g.abt then 2 else 0) +
    (if g.pz then 1 else 0)

/-- R383: a group's control record of 2,048 bytes. -/
def Group.controlImage (g : Group) (W : Nat) : List Byte :=
  let head := w64 g.mode.toNat ++ w64 g.flags.toNat ++ w64 (g.statusImage W) ++ w64 g.tcause.toNat ++ w64 g.tpc.toNat ++ w64 g.tval.toNat
  let regs := padTo 0x40 (head ++ w64 g.gang.toNat) ++ (Cells.slice 0 g.s 0 64).flatMap (fun x => w64 x.toNat) ++
    (Cells.slice 0 g.p 1 7).flatMap (fun x => w64 x.toNat)
  let tables := byIndex 8 32 g.frag? Frag.image ++ byIndex 16 32 (fun j => g.joins.find? (fun x => x.id == j)) Join.image ++
    byIndex 8 32 (fun k => g.held[k]?) Held.image
  let depth := (Cells.slice 0 g.depth 0 64).flatMap (leBytes 2)
  let br := (Cells.slice (0, 0) g.bcfg 0 8).flatMap (fun (x : BitVec 6 × BitVec 6) => [x.1.setWidth 8, x.2.setWidth 8])
  padTo 2048 (padTo 0x280 regs ++ tables ++ depth ++ br ++ (List.range 8).flatMap g.parkedImage)

def Bracket.image (b : Bracket) : List Byte :=
  leBytes 4 b.lo.toNat ++ leBytes 4 b.hi.toNat ++ leBytes 4 b.ylo.toNat ++ leBytes 4 b.yhi.toNat ++
    leBytes 4 (b.status.toNat * 2 ^ 6 + b.iter.toNat)

/-- R383: a group's part of the body. -/
def Group.image (g : Group) (W N : Nat) : List Byte :=
  g.controlImage W ++
    (List.range 8).flatMap (fun b => (Cells.slice ⟨0, 0, 0, 0, 0, 0⟩ g.b (64 * b) W).flatMap Bracket.image) ++
    (List.range N).flatMap (fun n => laneWords g.v (64 * n) W)

/-- R383: the body of a team's image. -/
def Team.image (t : Team) (r : Rec) : List Byte :=
  t.recordImage ++ t.groups.flatMap (fun g => g.image r.width r.vregs) ++ Cells.slice 0 t.scratch 0 (256 * r.scr) ++
    t.groups.flatMap (fun g => (List.range r.width).flatMap (fun l => Cells.slice 0 g.lmem (4096 * l) r.lmemBytes)) ++
    (if t.groups.any (fun g => g.role == .m) then laneWords t.acc 0 196608 else [])

/-- R383: BLEN. -/
def Rec.bodyBytes (r : Rec) : Nat :=
  4096 + r.groups * (2048 + 160 * r.width + 4 * r.width * r.vregs) + 256 * r.scr + r.groups * r.width * r.lmemBytes +
    786432 * r.need.store

/-- R382: header, body and tag. -/
def Rec.imageBytes (r : Rec) : Nat := 64 + r.bodyBytes + 16

/-! ### Header and seal (R382, R384) -/

/-- R382: the header words of a team's image. -/
def Launch.header (l : Launch) (t : Team) (cnt : Nat) : List Byte :=
  w64 (0x4B593953 * 2 ^ 32 + 2 ^ 16 + (if l.slot = 0 then 0 else 2 ^ 8)) ++ w64 l.lpc.toNat ++ w64 l.seq ++
    w64 (t.span * 2 ^ 32 + t.idx * 2 ^ 16 + l.r.groups * 2 ^ 8) ++ w64 cnt ++ w64 l.r.bodyBytes ++
    w64 (if l.slot = 0 then 0 else field l.r.keyh 29 0) ++ w64 0

/-- R384: the image key of a launch. -/
def State.imageKey (s : State) (l : Launch) : List Nat :=
  kdf (if l.slot = 0 then drawnKey (s.sec.epoch + 2) 32 else s.slotKey l.slot) (asciiOf "KY9-SAVE")
    (natsOf (beBytes 8 l.lpc.toNat ++ beBytes 8 l.seq))

def imageIv (span team cnt : Nat) : List Nat := natsOf (beBytes 4 (span * 16 + team) ++ beBytes 8 cnt)

/-- R384: the sealed image of a team. -/
def State.sealImage (s : State) (l : Launch) (t : Team) (cnt : Nat) : List Byte :=
  let hd := l.header t cnt
  let key := s.imageKey l
  let iv := imageIv t.span t.idx cnt
  let ct := gcmCrypt key iv (natsOf (t.image l.r))
  hd ++ bytesOf ct ++ bytesOf (gcmTag key iv (natsOf hd) ct)

/-- R385: the first test that an image read from the save area fails, or 0. -/
def State.testImage (s : State) (l : Launch) (t : Team) (cnt : Nat) (img : List Byte) : Nat :=
  let hd := img.take 64
  let want := l.header t cnt
  let same (lo n : Nat) : Bool := (hd.drop lo).take n == (want.drop lo).take n
  if !(same 0 32 && same 40 8 && same 56 8 && (hd.drop 52).take 4 == (want.drop 52).take 4 &&
      bits (leNat ((hd.drop 48).take 4)) 31 30 == 0) then 1
  else if !same 48 8 then 2
  else if !same 32 8 then 3
  else
    let ct := natsOf ((img.drop 64).take l.r.bodyBytes)
    if bytesOf (gcmTag (s.imageKey l) (imageIv t.span t.idx cnt) (natsOf hd) ct) != (img.drop (64 + l.r.bodyBytes)).take 16 then 4
    else 0

/-! ### The save area (R380, R381) -/

/-- Bytes of a number of bytes in whole 4 KiB units. -/
def inUnits (n : Nat) : Nat := (n + 4095) / 4096 * 4096

/-- R380: first fit: the lowest place at which n bytes meet none of the taken ranges. -/
def firstFit (base size n : Nat) (taken : List (Nat × Nat)) : Option Nat :=
  let free (a : Nat) : Bool := taken.all (fun x => decide (a + n ≤ x.1) || decide (x.1 + x.2 ≤ a))
  (((base :: taken.map (fun x => x.1 + x.2)).filter (fun a => decide (base ≤ a) && decide (a + n ≤ base + size) && free a)).foldl
    (fun m a => match m with | some b => some (min a b) | none => some a) none)

/-- R380: places for k images of n bytes. -/
def placeImages (base size n : Nat) : Nat → List (Nat × Nat) → Option (List (Nat × Nat))
  | 0, _ => some []
  | k + 1, taken =>
    match firstFit base size n taken with
    | none => none
    | some a => (placeImages base size n k (taken ++ [(a, n)])).map (fun r => (a, n) :: r)

/-- R380: the places the images of a span take, if the area and the table have room. -/
def State.imagePlaces (s : State) (l : Launch) (teams : Nat) : Option (List (Nat × Nat)) :=
  match s.saveArea l.part with
  | none => none
  | some (base, size) =>
    let mine := s.sec.saves.filter (fun e => e.part == l.part)
    if 1024 ≤ mine.length then none
    else placeImages base size (inUnits l.r.imageBytes) teams (mine.flatMap SaveEntry.imgs)

end Sys2Proof.Machine
end

