-- ==== Sys2Proof/Machine/Message.lean ====
section
/-! DEFINITION. Tag-matched messages between clusters: send, recv and mprobe (R245-R248). -/

namespace Sys2Proof.Machine

open Host (Outcome)

/-- R245: the bytes of a length code. -/
def msgBytes : MsgLen → Nat
  | .l8 => 8
  | .l16 => 16
  | .l32 => 32
  | .l64 => 64
  | .l128 => 128
  | .l256 => 256

/-- R245: die, cluster and tag of an address word. -/
def adDie (a : Word) : Nat := field a 23 21
def adCluster (a : Word) : Nat := field a 20 16
def adTag (a : Word) : Nat := field a 15 0

/-- The cluster of a team's core. -/
def Team.cluster (t : Team) : Nat := t.core / 2

/-- R246, R247: a message meets the match word of a receive. -/
def matches_ (m : Msg) (w : Word) (anyt anys : Bool) : Bool :=
  (anys || (adDie w == m.srcDie && adCluster w == m.srcClu)) && (anyt || adTag w == adTag m.dst)

/-- R247: the completion word. -/
def completionWord (m : Msg) (len : Nat) : Word :=
  BitVec.ofNat 64 (2 ^ 63 + (if len < m.payload.length then 2 ^ 62 else 0) + m.payload.length * 2 ^ 32 + m.srcDie * 2 ^ 21 +
    m.srcClu * 2 ^ 16 + adTag m.dst)

/-- The cluster a posted receive belongs to. -/
def State.recvAt (s : State) (r : Recv) (die clu seq : Nat) : Bool :=
  match s.team? r.team with
  | some t => t.die == die && t.cluster == clu && t.seq == seq
  | none => false

/-- R247: a matched receive writes its buffer and its completion word; its completion is an acquire. -/
def State.receive (s : State) (m : Msg) (team grp pend buf len : Nat) : State :=
  match s.team? team with
  | none => s
  | some t =>
    let s := s.modTeam team (fun t => { t with scratch := Cells.splice 0 t.scratch buf (m.payload.take len) })
    let s := s.modGroup team grp (fun g =>
      { g with pend := g.pend.map (fun p =>
          if p.id = pend then
            { p with writes := (p.regs.filterMap (fun r => match r with | .s n => some n | _ => none)).map (fun n =>
                       ⟨.s n, completionWord m len⟩),
                     left := 0, due := s.clock }
          else p) })
    s.acquire (64 * t.die + t.core)

/-- R246: the sender of an accepted message goes on. -/
def State.sent (s : State) (m : Msg) : State :=
  ({ s with msgs := s.msgs.filter (fun y => y.id != m.id) } : State).modTeam m.team (fun t => { t with noFlush := true })
    |>.modFrag m.team m.grp m.ent (fun f =>
      if f.st = .blocked .send then { f with pc := nextPc f.pc, st := .ready, wake := max f.wake (s.clock + 1) } else f)

/-- R246: a message is the first of its team to its cluster. -/
def State.msgFirst (s : State) (m : Msg) : Bool :=
  s.msgs.all (fun y => !(y.team == m.team && adDie y.dst == adDie m.dst && adCluster y.dst == adCluster m.dst && decide (y.id < m.id)))

/-- R246: a message reaches its destination: the oldest matching receive takes it, or the overflow queue, or it is refused. -/
def State.msgArrives (s : State) (m : Msg) : State :=
  if !s.msgFirst m then s
  else
    let die := adDie m.dst
    let clu := adCluster m.dst
    match s.recvs.find? (fun r => s.recvAt r die clu m.seq && matches_ m r.match_ r.anyt r.anys) with
    | some r =>
      (({ s with recvs := s.recvs.filter (fun y => y != r) } : State).receive m r.team r.grp r.pend r.buf r.len).sent m
    | none =>
      if (s.overflow.filter (fun y => adDie y.dst == die && adCluster y.dst == clu)).length < 64 then
        ({ s with overflow := s.overflow ++ [m] } : State).sent m
      else
        let s : State := { s with msgs := s.msgs.filter (fun y => y.id != m.id) }
        s.takeTrap (.frag m.team m.grp m.ent) { code := cQOVF, tval := m.dst }

/-- R245: the check of a buffer in the issuing team's scratchpad. -/
def Issue.bufferTrap (x : Issue) (o : Word) (n : Nat) : Option Trap :=
  if !aligned o.toNat 8 then some { code := cALIGN, tval := o }
  else if 256 * x.la.r.scr < o.toNat + n then some { code := cMEMF, sub := 1, tval := o }
  else none

/-- R246: send. -/
def execSend (h : Hdr) (a b : Fin 64) (len : MsgLen) (s : State) : Outcome State Fault Refusal :=
  word (.send h a b len) s fun x =>
    let w := x.sreg a
    let o := x.sreg b
    if x.acquiring || x.releaseBusy then .wait
    else
      match x.bufferTrap o (msgBytes len) with
      | some c => .trap c
      | none =>
        let there := x.s.teams.any (fun t => t.seq == x.team.seq && t.here && t.die == adDie w && t.cluster == adCluster w)
        if !there then .trap { code := cMEMF, sub := 1, tval := w }
        else
          let far := if adDie w = x.team.die then 40 else 250 * x.s.fuses.hops x.team.die (adDie w)
          let m : Msg :=
            { id := x.s.nextId, seq := x.team.seq, team := x.team.id, grp := x.gi, ent := x.frag.ent, srcDie := x.team.die,
              srcClu := x.team.cluster, dst := w, payload := x.team.scratchBytes o.toNat (msgBytes len), due := x.s.clock + far }
          .block ({ x.blockAt x.s .send with msgs := x.s.msgs ++ [m], nextId := x.s.nextId + 1 }.countLinks
            x.la.part x.la.seq (msgBytes len) x.team.die (adDie w))

/-- R247, R248: the oldest overflow entry of the team's cluster and launch that matches. -/
def Issue.waitingMsg (x : Issue) (w : Word) (anyt anys : Bool) : Option Msg :=
  x.s.overflow.find? (fun m => m.seq == x.team.seq && adDie m.dst == x.team.die && adCluster m.dst == x.team.cluster &&
    matches_ m w anyt anys)

/-- R247: recv. -/
def execRecv (h : Hdr) (d a b : Fin 64) (len : MsgLen) (anyt anys : Bool) (s : State) : Outcome State Fault Refusal :=
  word (.recv h d a b len anyt anys) s fun x =>
    let w := x.sreg a
    let o := x.sreg b
    if x.acquiring then .wait
    else
    match x.bufferTrap o (msgBytes len) with
    | some c => .trap c
    | none =>
      let k := x.s.nextId
      let s := x.variable x.s [.s d.val] [] 0 1 x.s.clock false
      match x.waitingMsg w anyt anys with
      | some m =>
        .done (({ s with overflow := s.overflow.filter (fun y => y.id != m.id) } : State).receive m x.team.id x.gi k o.toNat (msgBytes len))
      | none =>
        let posted := x.s.recvs.filter (fun r =>
          match x.s.team? r.team with
          | some t => t.die == x.team.die && t.cluster == x.team.cluster
          | none => false)
        if 16 ≤ posted.length then .wait
        else .done { s with recvs := s.recvs ++ [⟨x.team.id, x.gi, k, w, (msgBytes len), o.toNat, anyt, anys⟩] }

/-- R248: mprobe. -/
def execMprobe (h : Hdr) (d a : Fin 64) (len : MsgLen) (anyt anys : Bool) (s : State) : Outcome State Fault Refusal :=
  word (.mprobe h d a len anyt anys) s fun x =>
    if x.acquiring then .wait
    else
      let v := match x.waitingMsg (x.sreg a) anyt anys with
        | some m => completionWord m (msgBytes len)
        | none => 0
      .done (x.sResult x.s d v 40)

end Sys2Proof.Machine
end

