-- ==== Sys2Proof/Machine/Shares.lean ====
section
/-! DEFINITION. Exchanges through the Strait: the Dealer's items (R314-R316, R450), the exchange instructions and gxch
(R238-R242), the words of both parties and how an exchange ends (R243, R244, R318-R321). -/

namespace Sys2Proof.Machine

open Host (Outcome)

/-! ### Streams of a pair (R310-R316) -/

def zBits : ZWidth → Nat
  | .z16 => 16
  | .z32 => 32
  | .z64 => 64

/-- R311: the code K of a stream descriptor. -/
def zCode : ZWidth → Nat
  | .z16 => 0
  | .z32 => 1
  | .z64 => 2

/-- R311: the kind of stream an instruction needs. -/
def ExchKind.needs : ExchKind → Nat
  | .open_ => 0
  | .mul => 1
  | .trunc _ => 2
  | .sign => 3
  | .inp _ => 4
  | .mat => 5

/-- R313: the pair and party of a partition. -/
def State.partyOf (s : State) (part : Nat) : Option (Nat × Nat) :=
  s.pairs.zipIdx.findSome? (fun p => if p.1.p0 = part then some (p.2, 0) else if p.1.p1 = part then some (p.2, 1) else none)

def StreamCfg.disabled : StreamCfg := ⟨6, 0, 0, 0, 0⟩

def State.streamCfg (s : State) (pair st : Nat) : StreamCfg :=
  ((s.pairs[pair]?).bind (fun p => p.streams[st]?)).getD StreamCfg.disabled

/-- R310: the Strait timeout of a pair in cycles. -/
def State.straitTimeout (s : State) (pair : Nat) : Nat := 2 ^ (((s.pairs[pair]?).map PairCfg.tout).getD 0) * us

def State.hand (s : State) (pair st : Nat) : HandStream :=
  (s.hands.find? (fun h => h.pair == pair && h.stream == st)).getD ⟨pair, st, 0, 0, 0, [], false⟩

def State.setHand (s : State) (h : HandStream) : State :=
  { s with hands := s.hands.filter (fun y => !(y.pair == h.pair && y.stream == h.stream)) ++ [h] }

/-- R315: NEXT of a party. -/
def HandStream.next (h : HandStream) (party : Nat) : Nat := if party = 0 then h.next0 else h.next1

def HandStream.setNext (h : HandStream) (party n : Nat) : HandStream := if party = 0 then { h with next0 := n } else { h with next1 := n }

/-- R315: NEXT passes over burned serials. -/
def skipBurned (burned : List Nat) : Nat → Nat → Nat
  | 0, n => n
  | fuel + 1, n => if burned.contains n then skipBurned burned fuel (n + 1) else n

def HandStream.settle (h : HandStream) : HandStream :=
  { h with next0 := skipBurned h.burned h.burned.length h.next0, next1 := skipBurned h.burned h.burned.length h.next1 }

/-- R315: the next n serials of a party, with burned ones passed over. -/
def takeSerials (burned : List Nat) : Nat → Nat → List Nat
  | 0, _ => []
  | n + 1, from_ =>
    let k := skipBurned burned burned.length from_
    k :: takeSerials burned n (k + 1)

/-- R316: the items a party still holds. -/
def HandStream.fill (h : HandStream) (party : Nat) : Nat :=
  let n := h.next party
  4096 * h.hands - n - (h.burned.filter (fun b => decide (n ≤ b))).length

/-- R316: the fill of a stream's buffer in the partition that has less. -/
def State.lowFill (s : State) (p : Nat × Nat) : Nat := min ((s.hand p.1 p.2).fill 0) ((s.hand p.1 p.2).fill 1)

/-- R315, R316: the Dealer tops up a stream: it deals, the stream has a kind and serials left for a hand, and a party's fill is at or
below the mark. -/
def State.wantsHand (s : State) (pair st : Nat) : Bool :=
  let c := s.streamCfg pair st
  let h := s.hand pair st
  s.dealing && !h.off && c.kind != 0 && decide (c.kind < 6) && decide (pair < s.pairs.length) &&
    decide (4096 * (h.hands + 1) ≤ 2 ^ 64) && decide (s.lowFill (pair, st) ≤ (c.high - 1) * 4096)

/-- R316: the streams of all pairs that the Dealer tops up. -/
def State.wanting (s : State) : List (Nat × Nat) :=
  ((List.range s.pairs.length).flatMap (fun p => (List.range 8).map (fun st => (p, st)))).filter (fun p => s.wantsHand p.1 p.2)

/-- R316: the stream that the Dealer fills next: one of the lowest fill. -/
def State.nextHand (s : State) : Option (Nat × Nat) := s.wanting.find? (fun p => s.wanting.all (fun q => decide (s.lowFill p ≤ s.lowFill q)))

/-- R314, R316: one more hand is dealt to both partitions, of a stream that none with a lower fill comes before. -/
def State.dealHand (s : State) (pair st : Nat) : State :=
  let h := s.hand pair st
  if !s.wantsHand pair st || s.wanting.any (fun q => decide (s.lowFill q < s.lowFill (pair, st))) then s
  else s.setHand { h with hands := h.hands + 1 }

/-- R239: the buffer of a partition holds fewer than n items of a stream. -/
def State.handShort (s : State) (pair st party n : Nat) : Bool :=
  let h := (s.hand pair st).settle
  (s.streamCfg pair st).kind != 0 && (takeSerials h.burned n (h.next party)).any (fun q => decide (4096 * h.hands ≤ q))

/-! ### Items (R314, R450) -/

/-- A number drawn for an item of width k. -/
def draw (k pair st serial i : Nat) : Nat := (Config.dealt pair st serial i).toNat % 2 ^ k

/-- A bit drawn for an item. -/
def drawBit (pair st serial i : Nat) : Bool := (Config.dealt pair st serial i).getLsbD 0

/-- A party's share of a value whose party 0 share is drawn. -/
def shareOf (k party v share0 : Nat) : Nat := if party = 0 then share0 else (v + 2 ^ k - share0) % 2 ^ k

/-- A party's share of a bit whose party 0 share is drawn. -/
def bitShare (party : Nat) (v share0 : Bool) : Bool := if party = 0 then share0 else v != share0

/-- R314: a party's half of a MUL item: a, b and c. -/
def mulHalf (k pair st serial party : Nat) : Nat × Nat × Nat :=
  let q (i : Nat) : Nat := draw k pair st serial i
  (shareOf k party (q 0) (q 2), shareOf k party (q 1) (q 3), shareOf k party (q 0 * q 1 % 2 ^ k) (q 4))

/-- R314: a party's half of a TRN item: r and r'. -/
def trnHalf (k f pair st serial party : Nat) : Nat × Nat :=
  let q (i : Nat) : Nat := draw k pair st serial i
  (shareOf k party (q 0) (q 1), shareOf k party (q 0 / 2 ^ f) (q 2))

/-- R450: an AND triple's shares of a, b and their product. -/
def sgnTriple (pair st serial party i : Nat) : Bool × Bool × Bool :=
  let q (j : Nat) : Bool := drawBit pair st serial (1000 + 8 * i + j)
  (bitShare party (q 0) (q 2), bitShare party (q 1) (q 3), bitShare party (q 0 && q 1) (q 4))

/-- R450: the number of group j of the bits 0 to k - 2 of a value. -/
def sgnGroup (k v j : Nat) : Nat := if j + 1 < k / 2 then v / 2 ^ (2 * j) % 4 else v / 2 ^ (2 * j) % 2

/-- R450: a party's bit shares of GEN and PRO of group j at value v. -/
def sgnTable (k pair st serial party j v : Nat) : Bool × Bool :=
  let r := sgnGroup k (draw k pair st serial 0) j
  let q (i : Nat) : Bool := drawBit pair st serial (100 + 8 * j + i)
  (bitShare party (decide (v < r)) (q v), bitShare party (r == v) (q (4 + v)))

/-- R450: a party's arithmetic share of S at the opened bits. -/
def sgnS (k lam pair st serial party : Nat) (dl ep : Bool) : Nat :=
  let q (j : Nat) : Bool := drawBit pair st serial (1000 + 8 * (64 * lam) + j)
  let v := drawBit pair st serial 2 != ((q 0 && q 1) != ((dl && q 1) != (ep && q 0)))
  shareOf k party (if v then 1 else 0) (draw k pair st serial (5000 + (if dl then 2 else 0) + (if ep then 1 else 0)))

/-! ### shsign, round by round (R450) -/

def andShare (party : Nat) (t : Bool × Bool × Bool) (d e : Bool) : Bool :=
  t.2.2 != ((d && t.2.1) != ((e && t.1) != (party == 0 && d && e)))

/-- A word of bits, lowest first. -/
def wordOfBits (bs : List Bool) : Nat := bs.foldr (fun b a => 2 * a + (if b then 1 else 0)) 0

/-- The four bits a node of a level sends: d and e of both products. -/
def nodeBits (t1 t2 : Bool × Bool × Bool) (hi lo : Bool × Bool) : List Bool :=
  [hi.2 != t1.1, lo.1 != t1.2.1, hi.2 != t2.1, lo.2 != t2.2.1]

/-- What a party knows after some rounds: c, and its shares of the nodes of the latest level. -/
structure SgnState where
  c     : Nat
  nodes : List (Bool × Bool)
  deriving DecidableEq, Repr

/-- The parameters of one lane's protocol run. -/
structure SgnRun where
  k      : Nat
  pair   : Nat
  st     : Nat
  serial : Nat
  party  : Nat
  x      : Nat
  deriving DecidableEq, Repr

def SgnRun.lam (y : SgnRun) : Nat := Nat.log2 (y.k / 2)

def SgnRun.tri (y : SgnRun) (level i : Nat) : Bool × Bool × Bool := sgnTriple y.pair y.st y.serial y.party (64 * level + i)

/-- The word of the first round. -/
def SgnRun.first (y : SgnRun) : Nat :=
  (y.x + shareOf y.k y.party (draw y.k y.pair y.st y.serial 0) (draw y.k y.pair y.st y.serial 1)) % 2 ^ y.k

/-- After the first round: c opened, level 0 looked up. -/
def SgnRun.open0 (y : SgnRun) (peer : Nat) : SgnState :=
  let c := (y.first + peer) % 2 ^ y.k
  ⟨c, (List.range (y.k / 2)).map (fun j => sgnTable y.k y.pair y.st y.serial y.party j (sgnGroup y.k c j))⟩

/-- Nodes 2j + 1 and 2j of a level. -/
def SgnState.hi (z : SgnState) (j : Nat) : Bool × Bool := z.nodes.getD (2 * j + 1) (false, false)
def SgnState.lo (z : SgnState) (j : Nat) : Bool × Bool := z.nodes.getD (2 * j) (false, false)

/-- The word of the round that combines into a level. -/
def SgnRun.levelWord (y : SgnRun) (z : SgnState) (level : Nat) : Nat :=
  wordOfBits ((List.range (z.nodes.length / 2)).flatMap (fun j =>
    nodeBits (y.tri level (2 * j)) (y.tri level (2 * j + 1)) (z.hi j) (z.lo j)))

/-- A level after its words are opened. -/
def SgnRun.combine (y : SgnRun) (z : SgnState) (level peer : Nat) : SgnState :=
  let w := y.levelWord z level ^^^ peer
  { z with nodes := (List.range (z.nodes.length / 2)).map (fun j =>
      let g := andShare y.party (y.tri level (2 * j)) (bit w (4 * j)) (bit w (4 * j + 1))
      let p := andShare y.party (y.tri level (2 * j + 1)) (bit w (4 * j + 2)) (bit w (4 * j + 3))
      ((z.hi j).1 != g, p)) }

/-- The bits of the last round: d, e and f. -/
def SgnRun.lastBits (y : SgnRun) (z : SgnState) : List Bool :=
  let t := y.tri y.lam 0
  let top := bitShare y.party (bit (draw y.k y.pair y.st y.serial 0) (y.k - 1)) (drawBit y.pair y.st y.serial 4)
  let u := (top != (z.hi 0).1) != (y.party == 0 && bit z.c (y.k - 1))
  let m := bitShare y.party (drawBit y.pair y.st y.serial 2) (drawBit y.pair y.st y.serial 3)
  [(z.hi 0).2 != t.1, (z.lo 0).1 != t.2.1, u != m]

/-- What a party knows after the peer's words of some rounds. -/
def SgnRun.after (y : SgnRun) (peers : List Nat) : SgnState :=
  match peers with
  | [] => ⟨0, []⟩
  | p :: rest => (rest.take (y.lam - 1)).zipIdx.foldl (fun z w => y.combine z (w.2 + 1) w.1) (y.open0 p)

/-- The word a party sends once it has the peer's words of the rounds so far. -/
def SgnRun.word (y : SgnRun) (peers : List Nat) : Nat :=
  if peers.isEmpty then y.first
  else if peers.length < y.lam then y.levelWord (y.after peers) peers.length
  else wordOfBits (y.lastBits (y.after peers))

/-- The share a party writes after the last round. -/
def SgnRun.result (y : SgnRun) (peers : List Nat) : Nat :=
  let z := y.after peers
  let own := wordOfBits (y.lastBits z)
  let w := own ^^^ (peers.getD y.lam 0)
  let d := bit w 0
  let e := bit w 1
  let phi := bit w 2 != (d && e)
  let v := sgnS y.k y.lam y.pair y.st y.serial y.party d e
  if !phi then v else if y.party = 0 then (1 + 2 ^ y.k - v) % 2 ^ y.k else (2 ^ y.k - v) % 2 ^ y.k

/-! ### gxch (R242) -/

/-- R314: the full matrices A and B of a MAT item, and party 0's shares of A, B and C. -/
def matA (k pair st serial i : Nat) : Nat := draw k pair st serial i
def matB (k pair st serial i : Nat) : Nat := draw k pair st serial (20000 + i)

/-- A party's share of element i (64·256) of A, in the A layout of R203. -/
def matShareA (k pair st serial party i : Nat) : Nat := shareOf k party (matA k pair st serial i) (draw k pair st serial (40000 + i))

/-- A party's share of B(k, j) at index 256·j + k, the B layout. -/
def matShareB (k pair st serial party i : Nat) : Nat := shareOf k party (matB k pair st serial i) (draw k pair st serial (60000 + i))

/-- A party's share of element 64·i + j of C := A·B. -/
def matShareC (k pair st serial party i : Nat) : Nat :=
  let sum := (List.range 256).foldl (fun a m => a + matA k pair st serial (256 * (i / 64) + m) * matB k pair st serial (256 * (i % 64) + m)) 0
  shareOf k party (sum % 2 ^ k) (draw k pair st serial (80000 + i))

/-! ### Words and results (R240) -/

def zNat (k : ZWidth) (x : Nat) : Nat := x % 2 ^ zBits k

def subZ (k : ZWidth) (a b : Nat) : Nat := (a + 2 ^ zBits k - b) % 2 ^ zBits k

/-- R314, R315: the number of a serial's item among all ever dealt on the stream: serials restart at a package reset, the Dealer's
draws do not. -/
def Exch.item (x : Exch) (serial : Nat) : Nat := serial + 2 ^ 64 * x.epoch

def Exch.sgn (x : Exch) (it : Nat × Nat × Nat × Nat) : SgnRun := ⟨zBits x.k, x.pair, x.stream, x.item it.1, x.party, it.2.2.1⟩

/-- The peer's words of a serial, round by round. -/
def Exch.peer (x : Exch) (serial : Nat) : List (List Word) := (x.got.filter (fun g => g.1 == serial && g.2.1 != 0)).map (fun g => g.2.2)

def Exch.peerNats (x : Exch) (serial : Nat) : List Nat := (x.peer serial).map (fun p => (p.headD 0).toNat)

/-- R240, R242: the payload a party sends next for one serial. -/
def Exch.payload (x : Exch) (t : Team) (it : Nat × Nat × Nat × Nat) : List Word :=
  let k := zBits x.k
  let w (n : Nat) : Word := BitVec.ofNat 64 n
  let vx := it.2.2.1
  let vy := it.2.2.2
  match x.kind with
  | .mul =>
    let h := mulHalf k x.pair x.stream (x.item it.1) x.party
    [w (subZ x.k vx h.1), w (subZ x.k vy h.2.1)]
  | .open_ => [w vx]
  | .inp own => if own then [w (subZ x.k vx (draw k x.pair x.stream (x.item it.1) 0))] else []
  | .trunc f => [w ((vx + (trnHalf k f x.pair x.stream (x.item it.1) x.party).1) % 2 ^ k)]
  | .sign => [w ((x.sgn it).word (x.peerNats it.1))]
  | .mat =>
    let xs := chunksLe (k / 8) 16384 (Cells.slice 0 t.scratch x.ofs.2.1 (16384 * (k / 8)))
    let ys := chunksLe (k / 8) 16384 (Cells.slice 0 t.scratch x.ofs.2.2 (16384 * (k / 8)))
    xs.zipIdx.map (fun e => w (subZ x.k e.1 (matShareA k x.pair x.stream (x.item it.1) x.party e.2))) ++
      ys.zipIdx.map (fun e => w (subZ x.k e.1 (matShareB k x.pair x.stream (x.item it.1) x.party e.2)))

/-- R240: the result a party writes for one serial. -/
def Exch.result (x : Exch) (it : Nat × Nat × Nat × Nat) : Nat :=
  let k := zBits x.k
  let p := (x.peer it.1).headD []
  let q (i : Nat) : Nat := (p.getD i 0).toNat
  let vx := it.2.2.1
  let vy := it.2.2.2
  match x.kind with
  | .mul =>
    let h := mulHalf k x.pair x.stream (x.item it.1) x.party
    let d := (subZ x.k vx h.1 + q 0) % 2 ^ k
    let e := (subZ x.k vy h.2.1 + q 1) % 2 ^ k
    (h.2.2 + d * h.2.1 + e * h.1 + (if x.party = 0 then d * e else 0)) % 2 ^ k
  | .open_ => (vx + q 0) % 2 ^ k
  | .inp own =>
    let r := draw k x.pair x.stream (x.item it.1) 0
    let rown := draw k x.pair x.stream (x.item it.1) 1
    if own then (rown + subZ x.k vx r) % 2 ^ k else subZ x.k r rown
  | .trunc f =>
    let h := trnHalf k f x.pair x.stream (x.item it.1) x.party
    let c := (vx + h.1 + q 0) % 2 ^ k
    if x.party = 0 then subZ x.k (c / 2 ^ f) h.2 else subZ x.k 0 h.2
  | .sign => (x.sgn it).result (x.peerNats it.1)
  | .mat => 0

/-- R242: the five tiles of gxch's output area. -/
def Exch.area (x : Exch) (serial : Nat) : List Byte :=
  let k := zBits x.k
  let p := ((x.peer serial).headD []).map BitVec.toNat
  let own := (((x.got.filter (fun g => g.1 == serial && g.2.1 == 0)).map (fun g => g.2.2)).headD []).map BitVec.toNat
  let opened := List.zipWith (fun a b => (a + b) % 2 ^ k) own p
  let put (n : Nat) (xs : List Nat) : List Byte := xs.flatMap (leBytes n)
  let n := k / 8
  put n opened ++ put n ((List.range 16384).map (matShareA k x.pair x.stream (x.item serial) x.party)) ++
    put n ((List.range 16384).map (matShareB k x.pair x.stream (x.item serial) x.party)) ++
    put 4 ((List.range 4096).map (matShareC k x.pair x.stream (x.item serial) x.party))

/-- R318: the tag of an exchange's words. -/
def Exch.tag (x : Exch) : Nat × Nat × Bool := (x.kind.needs, zCode x.k, match x.kind with | .inp own => own | _ => false)

/-- R318: the tags of both parties agree; OWN is set by the configured owner alone. -/
def State.tagsAgree (s : State) (x : Exch) (peer : Nat × Nat × Bool) : Bool :=
  let c := s.streamCfg x.pair x.stream
  x.tag.1 == peer.1 && x.tag.2.1 == peer.2.1 &&
    (x.kind.needs != 4 || (x.tag.2.2 == (c.owner == x.party) && peer.2.2 == (c.owner != x.party)))

/-! ### How an exchange goes on (R239 steps 4 and 5, R243, R244) -/

def State.modExch (s : State) (tid id : Nat) (f : Exch → Exch) : State :=
  s.modTeam tid (fun t => { t with exchs := t.exchs.map (fun x => if x.id = id then f x else x) })

/-- The exchange of a party that consumed a serial, with its team. -/
def State.exchOf (s : State) (pair st party serial : Nat) : Option (Nat × Exch) :=
  s.teams.findSome? (fun t =>
    (t.exchs.find? (fun x => x.pair == pair && x.stream == st && x.party == party && x.fail.isNone &&
      x.items.any (fun it => it.1 == serial))).map (fun x => (t.id, x)))

/-- R243, R315: serials are burned for both partitions; a word that waits for one of them is refused, and its sender fails
with MISMATCH. An exchange that fails has every item burned and its number counted as completed, and sends ABORT for the serials
whose words it has not all sent (R244). -/
def State.failExch : Nat → State → Nat → Exch → Nat → Nat → State
  | 0, s, _, _, _, _ => s
  | fuel + 1, s, tid, x, sub, serial =>
    let serials := x.items.map Prod.fst
    let h := s.hand x.pair x.stream
    let s := s.setHand { h with burned := h.burned ++ serials.filter (fun n => !h.burned.contains n) }.settle
    let s := (s.modExch tid x.id (fun y => { y with fail := some (sub, serial) })).postWords (x.aborts s.clock)
    let s := match (s.team? tid).bind (fun t => s.launch? t.seq) with
      | some l => s.passNumbers l.r.ctx x
      | none => s
    let refused := s.words.filter (fun w => w.arrived && !w.abort && w.pair == x.pair && w.stream == x.stream &&
      serials.contains w.serial && (s.exchOf w.pair w.stream (1 - w.party) w.serial).isNone)
    let s := { s with words := s.words.filter (fun w => !refused.contains w) }
    refused.foldl (fun s w =>
      match s.exchOf w.pair w.stream w.party w.serial with
      | some (t, y) => State.failExch fuel s t y 1 w.serial
      | none => s) s

/-- R239, R244: an exchange ends: its values or, ABORTED, zeros; its timelines, and for a gxch whose area is written its transfer
arrival; its acquire. -/
def State.endExch (s : State) (tid : Nat) (x : Exch) (aborted : Bool) : State :=
  match s.team? tid with
  | none => s
  | some t =>
    let s := s.modTeam tid (fun t => { t with exchs := t.exchs.filter (fun y => y.id != x.id) })
    let ws := if x.kind = .mat then [] else x.items.flatMap (fun it => putInt (zBits x.k) false (.v (Fin.ofNat 192 x.d)) it.2.1 (if aborted then 0 else x.result it))
    let s := s.modGroup tid x.grp (fun g =>
      { g with
        abt := g.abt || aborted
        pend := g.pend.map (fun p => if x.pend = some p.id then { p with writes := ws, left := 0, due := s.clock } else p) })
    let s := s.acquire (64 * t.die + t.core)
    match (s.launch? t.seq) with
    | none => s
    | some l =>
      let s := s.completeNumber l.r.ctx 4 x.num
      if x.kind != .mat then s
      else
        let s := match (if aborted then none else x.bar) with | some nb => s.transferArrive tid nb x.num1 | none => s
        s.completeNumber l.r.ctx 1 x.num1

/-- R242, R293: once the peer's words are there, the output area of a gxch is written unit by unit. -/
def State.openArea (s : State) (tid : Nat) (x : Exch) : State :=
  let bs := x.area ((x.items.head?.map Prod.fst).getD 0)
  let us := (unitsOf x.ofs.1 bs.length 0 bs.length).map (fun u => (x.ofs.1 + u.1, (bs.drop u.1).take u.2))
  s.modExch tid x.id (fun y => { y with parts := us, whole := some (s.clock + 1080) })

/-- R293, R423: one unit of a gxch's output area is written, by the copy engine. -/
def State.areaUnit (s : State) (tid id : Nat) (u : Nat × List Byte) : State :=
  match s.team? tid with
  | none => s
  | some t =>
    ((s.tally t 9 u.2.length).modTeam tid (fun t => { t with scratch := Cells.splice 0 t.scratch u.1 u.2 })).modExch tid id (fun y =>
      { y with parts := y.parts.erase u })

/-- R242, R281, R292: the units of its area that a gxch may write: those where no earlier gxch of the team has yet to write. -/
def Team.areaFree (t : Team) (x : Exch) : List (Nat × List Byte) := x.parts.filter (fun u => !t.areaHeld x.num1 u.1 u.2.length)

/-- R293: before it completes, a gxch of a team writes any of its units, in any order. -/
def State.areaSome (s : State) (t : Team) : State :=
  t.exchs.foldl (fun s x => (s.movesNow (t.id * 2 ^ 40 + x.num.toNat + 2 ^ 100) (t.areaFree x)).foldl (fun s u => s.areaUnit t.id x.id u) s) s

/-- R242: the output area of a gxch is complete. -/
def State.closeArea (s : State) (tid : Nat) (x : Exch) : State :=
  (x.parts.foldl (fun s u => s.areaUnit tid x.id u) s).endExch tid x false

/-- R239 step 4, R423: the words of the next round set out; what a gxch sends, the copy engine moves. -/
def State.sendRound (s : State) (tid : Nat) (x : Exch) : State :=
  match s.team? tid with
  | none => s
  | some t =>
    let time := if x.rounds = 0 then 2160 else 1980
    let s := s.postWords (x.items.map (fun it =>
      ⟨0, x.pair, x.stream, it.1, x.party, x.tag, x.rounds + 1, x.payload t it, false, false, s.clock + time⟩))
    let sent := x.items.flatMap (x.payload t)
    let s := s.tally t 12 sent.length
    let s := if x.kind = .mat then s.tally t 9 (sent.length * (zBits x.k / 8)) else s
    let own := if x.kind = .mat then x.items.map (fun it => (it.1, 0, x.payload t it)) else []
    s.modExch tid x.id (fun y =>
      { y with rounds := y.rounds + 1, sentAt := if y.rounds = 0 then s.clock else y.sentAt, got := own ++ y.got })

/-- The peer's arrived words for the present round of an exchange. -/
def State.peerWords (s : State) (x : Exch) : List StraitWord :=
  s.words.filter (fun w => w.arrived && w.pair == x.pair && w.stream == x.stream && w.party == 1 - x.party &&
    (w.abort || w.round == x.rounds) && x.items.any (fun it => it.1 == w.serial))

/-- R239 step 5, R243, R244: an exchange meets the words at its port: an ABORT ends it, a differing tag fails both parties, the
last word of a round starts the next or completes it. A team that is not resident leaves its words at the port. -/
def State.advanceExch : Nat → State → Nat → Nat → State
  | 0, s, _, _ => s
  | fuel + 1, s, tid, id =>
    match s.team? tid with
    | none => s
    | some t =>
      match t.exchs.find? (fun x => x.id == id) with
      | none => s
      | some x =>
        if x.fail.isSome || x.whole.isSome || x.rounds = 0 || !t.here then s
        else
          let ws := s.peerWords x
          let taken : State := { s with words := s.words.filter (fun w => !ws.contains w) }
          if ws.any StraitWord.abort then taken.endExch tid x true
          else
            match ws.find? (fun w => !s.tagsAgree x w.tag) with
            | some w =>
              let s := State.failExch 64 taken tid x 1 w.serial
              match s.exchOf x.pair x.stream (1 - x.party) w.serial with
              | some (t', y) => State.failExch 64 s t' y 1 w.serial
              | none => s
            | none =>
              if !x.items.all (fun it => ws.any (fun w => w.serial == it.1)) then s
              else
                let y := { x with got := x.got ++ ws.map (fun w => (w.serial, w.round, w.payload)) }
                let s := taken.modExch tid id (fun _ => y)
                if y.rounds < y.total then (s.sendRound tid y).advanceExch fuel tid id
                else if y.kind = .mat then s.openArea tid y
                else s.endExch tid y false

/-- R243, R315, R318: a word reaches the peer's port. -/
def State.wordArrives (s : State) (w : StraitWord) : State :=
  let gone : State := { s with words := s.words.filter (fun y => y.id != w.id) }
  let h := s.hand w.pair w.stream
  match s.exchOf w.pair w.stream (1 - w.party) w.serial with
  | some (tid, x) =>
    ({ s with words := s.words.map (fun y => if y.id = w.id then { y with arrived := true } else y) } : State).advanceExch 8 tid x.id
  | none =>
    if h.burned.contains w.serial then
      if w.abort then gone
      else
        match s.exchOf w.pair w.stream w.party w.serial with
        | some (tid, x) => State.failExch 64 gone tid x 1 w.serial
        | none => gone
    else if w.serial < h.next (1 - w.party) then gone
    else { s with words := s.words.map (fun y => if y.id = w.id then { y with arrived := true } else y) }

/-- R239, R243: the serial of an exchange whose word has not arrived when its Strait timeout has passed. -/
def State.lateSerial (s : State) (x : Exch) : Option Nat :=
  if x.fail.isSome || x.whole.isSome || x.rounds = 0 || decide (s.clock ≤ x.sentAt + s.straitTimeout x.pair) then none
  else (x.items.find? (fun it => !(s.peerWords x).any (fun w => w.serial == it.1))).map Prod.fst

/-- R239, R243: the Strait timeout of a sent exchange passes before some word of the peer arrives. -/
def State.exchTimeout (s : State) (tid id : Nat) : State :=
  match (s.team? tid).bind (fun t => t.exchs.find? (fun x => x.id == id)) with
  | none => s
  | some x =>
    match s.lateSerial x with
    | none => s
    | some n => State.failExch 64 s tid x 3 n

/-- R239 step 3: a fragment stalled on a hand that is still short traps once the Strait timeout has passed. -/
def State.handTimeout (s : State) (tid gi ent : Nat) : State :=
  match (s.team? tid).bind (fun t => (t.groups[gi]?).bind (fun g => g.frag? ent)) with
  | none => s
  | some f =>
    match f.st, (s.team? tid).bind (fun t => (s.launch? t.seq).bind (fun l => s.partyOf l.part)) with
    | .blocked (.hand since pair st n), some (_, party) =>
      if s.clock ≤ since + s.straitTimeout pair || !s.handShort pair st party n then s
      else
        let h := (s.hand pair st).settle
        s.takeTrap (.frag tid gi ent) { code := cHAND, tval := BitVec.ofNat 64 (h.next party) }
    | _, _ => s

/-- R243: the fragment that takes the trap of a failed exchange: the one that holds its first participant, or, for gxch,
the one that issued it while it is there. -/
def Exch.trapFrag (x : Exch) (g : Group) : Option Frag :=
  if x.kind == .mat then (g.frag? x.ent).or (oldestOf g.frags)
  else g.frags.find? (fun f => f.mask.getLsbD ((x.items.head?.map (fun it => it.2.1)).getD 0))

/-- The exchange leaves its team, and its destination is no longer pending. -/
def State.dropExch (s : State) (tid : Nat) (x : Exch) : State :=
  (s.modTeam tid (fun t => { t with exchs := t.exchs.filter (fun y => y.id != x.id) })).modGroup tid x.grp (fun g =>
    { g with pend := g.pend.filter (fun p => x.pend != some p.id) })

/-- R243: an exchange that failed after its word issued: its trap is taken at the exchange word once the fragment that takes
it is ready and no handler runs. A gxch whose group has ended has no fragment left to trap, and is only given up. -/
def State.gateTrap (s : State) (tid : Nat) (x : Exch) : Option State :=
  match s.team? tid, x.fail with
  | some t, some (sub, serial) =>
    match t.groups[x.grp]? with
    | none => none
    | some g =>
      if g.ended then some (s.dropExch tid x)
      else
        match x.trapFrag g with
        | none => none
        | some f =>
          if g.handler.isSome || !g.free f || f.st != .ready then none
          else
            some ((s.dropExch tid x).takeTrap (.frag tid x.grp f.ent)
              { code := cGATE, sub := sub, tval := BitVec.ofNat 64 serial, tpc := some x.pc })
  | _, _ => none

/-! ### Issue (R238, R239) -/

/-- R321: a word of another fragment of the group that names the stream has issued and is stalled on a short hand. -/
def Issue.behind (x : Issue) (pair st : Nat) : Bool :=
  x.grp.frags.any (fun f => f.ent != x.frag.ent && (match f.st with | .blocked (.hand _ p q _) => p == pair && q == st | _ => false))

/-- R239 steps 2 to 4: an exchange of the issuing fragment; mk gives it from the pair, the party and the serials of its n
participants. Its completion is an acquire of the fragment, of a gxch too, which names no register (R242). -/
def Issue.exchange (x : Issue) (kind : ExchKind) (k : ZWidth) (st n : Nat)
    (mk : Exch → List Nat → Exch) (regs : List PendReg) : Act :=
  let gate (sub : Nat) : Act := .trap { code := cGATE, sub := sub, tval := BitVec.ofNat 64 st }
  if x.sendBusy then .wait
  else
    match x.s.partyOf x.la.part with
    | none => gate 4
    | some (pair, party) =>
      let c := x.s.streamCfg pair st
      let h := (x.s.hand pair st).settle
      if h.off || c.kind != kind.needs || c.k != zCode k || (match kind with | .trunc f => c.f != f | _ => false) then gate 2
      else
        let serials := takeSerials h.burned n (h.next party)
        if x.behind pair st then .wait
        else if serials.any (fun q => decide (2 ^ 64 ≤ q)) then
          .trapIn (x.s.setHand { h with off := true }) { code := cGATE, sub := 2, tval := BitVec.ofNat 64 st, tpc := some x.pc }
        else if x.s.handShort pair st party n then
          let since := match x.frag.st with | .blocked (.hand t _ _ _) => t | _ => x.s.clock
          .block (x.modF (x.blockAt x.s (.hand since pair st n)) (fun f => { f with wake := x.s.clock + 1 }))
        else
          let r := x.s.accept x.la x.team x.gi 4
          let r1 := if kind = .mat then r.1.accept x.la x.team x.gi 1 else (r.1, 0)
          let s := r1.1.setHand (h.setNext party ((serials.getLastD (h.next party - 1)) + 1))
          let id := s.nextId
          let pendId := s.nextId + 1
          let e : Exch :=
            { id := id, grp := x.gi, ent := x.frag.ent, pc := x.pc, kind := kind, k := k, pair := pair, party := party, stream := st,
              epoch := s.sec.epoch, items := [], d := 0, pend := some pendId, num := r.2, num1 := r1.2, rounds := 0,
              sentAt := x.s.clock, got := [], ofs := (0, 0, 0), bar := none, parts := [], whole := none, fail := none }
          let e := mk e serials
          let s := x.modT { s with nextId := s.nextId + 1 } (fun t => { t with exchs := t.exchs ++ [e], noFlush := true })
          let s := x.variable s regs [] 0 1 s.clock true
          if s.cmdHeld x.la 4 r.2 || (kind = .mat && s.cmdHeld x.la 1 r1.2) then .done s
          else .done ((s.sendRound x.team.id e).advanceExch 8 x.team.id id)

/-- R238: a per-lane exchange: the participants' values read at issue. -/
def Issue.laneExchange (x : Issue) (kind : ExchKind) (d : Fin 192) (a b : Option (Fin 192)) (st : BitVec 3) (k : ZWidth) : Act :=
  let ls := x.lanesList
  let val (o : Option (Fin 192)) (l : Nat) : Nat :=
    match o with
    | some v => x.opnd (zBits k) (.v v) l
    | none => 0
  x.exchange kind k st.toNat ls.length
    (fun e serials => { e with d := d.val, items := (serials.zip ls).map (fun p => (p.1, p.2, val a p.2, val b p.2)) })
    (pendRegs x.lanes (.v d.val k.regs))

/-- R240: shmul. -/
def execShmul (h : Hdr) (d a b : Fin 192) (st : BitVec 3) (k : ZWidth) (s : State) : Outcome State Fault Refusal :=
  word (.shmul h d a b st k) s fun x => x.laneExchange .mul d (some a) (some b) st k

/-- R240, R241: shtrunc. -/
def execShtrunc (h : Hdr) (d a : Fin 192) (st : BitVec 3) (f : BitVec 5) (k : ZWidth) (s : State) :
    Outcome State Fault Refusal :=
  word (.shtrunc h d a st f k) s fun x => x.laneExchange (.trunc f.toNat) d (some a) none st k

/-- R450: shsign. -/
def execShsign (h : Hdr) (d a : Fin 192) (st : BitVec 3) (k : ZWidth) (s : State) : Outcome State Fault Refusal :=
  word (.shsign h d a st k) s fun x => x.laneExchange .sign d (some a) none st k

/-- R240: shopen. -/
def execShopen (h : Hdr) (d a : Fin 192) (st : BitVec 3) (k : ZWidth) (s : State) : Outcome State Fault Refusal :=
  word (.shopen h d a st k) s fun x => x.laneExchange .open_ d (some a) none st k

/-- R240: shin. -/
def execShin (h : Hdr) (d : Fin 192) (own : ShinSrc) (st : BitVec 3) (k : ZWidth) (s : State) : Outcome State Fault Refusal :=
  word (.shin h d own st k) s fun x =>
    match own with
    | .own a => x.laneExchange (.inp true) d (some a) none st k
    | .other => x.laneExchange (.inp false) d none none st k

/-- R242, R254: gxch; as a transfer of the copy engine it follows every access of its group (R236), and the team's accepted transfers. -/
def execGxch (h : Hdr) (d a b : Fin 64) (st : BitVec 3) (nb : BitVec 4) (be k32 : Bool) (s : State) : Outcome State Fault Refusal :=
  word (.gxch h d a b st nb be k32) s fun x =>
    let o := (x.sreg d).toNat
    let xa := (x.sreg a).toNat
    let yb := (x.sreg b).toNat
    let k : ZWidth := if k32 then .z32 else .z16
    let n := if k32 then 65536 else 32768
    let size := 256 * x.la.r.scr
    match [o, xa, yb].find? (fun v => !aligned v 64) with
    | some v => .trap { code := cALIGN, tval := BitVec.ofNat 64 v }
    | none =>
      match [(o, 4 * n + 16384), (xa, n), (yb, n)].find? (fun v => decide (size < v.1 + v.2)) with
      | some v => .trap { code := cMEMF, sub := 1, tval := BitVec.ofNat 64 v.1 }
      | none =>
        if x.grp.acquiring x.grp.launched || x.groupBusy || x.engineOps || !x.team.xfers.isEmpty || x.team.copyLatch.any (fun y => y.grp == x.gi) ||
            x.team.exchs.any (fun e => e.kind == .mat && e.grp == x.gi) then .wait
        else x.exchange .mat k st.toNat 1
          (fun e serials =>
            { e with items := serials.map (fun q => (q, 0, 0, 0)), ofs := (o, xa, yb), bar := if be then some nb.toNat else none }) []

end Sys2Proof.Machine
end

