-- ==== Sys2Proof/Machine/Place.lean ====
section
/-! DEFINITION. Admission and placement (R258-R267, R298, R300, R329-R331, R340): which spans a die's dispatcher may
place, the start and the restore of a team, and the events LAUNCH_READY, AGING and DISPATCH. -/

namespace Sys2Proof.Machine

open Host (Outcome)

/-! ### Teams, spans and cores -/

/-- R261: the team has neither retired nor terminated. -/
def Team.alive (t : Team) : Bool := t.res != .retired && t.res != .terminated

/-- The teams of a span. -/
def State.spanTeams (s : State) (seq sp : Nat) : List Team := s.teams.filter (fun t => t.seq == seq && t.span == sp)

/-- Every team of a span that has been placed has retired or terminated. -/
def State.spanOver (s : State) (seq : Nat) (p : Span) : Bool :=
  p.st == .done || ((p.st == .resident || p.st == .saved) && (s.spanTeams seq p.idx).all (fun t => !t.alive))

def State.modSpan (s : State) (seq sp : Nat) (f : Span → Span) : State :=
  s.modLaunch seq (fun l => { l with spans := l.spans.map (fun p => if p.idx = sp then f p else p) })

/-- The teams on a core. -/
def State.coreTeams (s : State) (die core : Nat) : List Team := s.teams.filter (fun t => t.here && t.die == die && t.core == core)

/-- R263, R264, R310, R379, R441: a core admits a team of a launch now. -/
def State.coreAdmits (s : State) (l : Launch) (die core : Nat) : Bool :=
  let ts := s.coreTeams die core
  let ls := ts.map (fun t => (s.launch? t.seq).getD Launch.blank)
  decide (core < s.usableCores l.part) && decide (ts.length < 8) && ls.all (fun k => k.slot == l.slot) &&
    !s.sec.scrubCore.any (fun c => c.1 == die && c.2.1 == core) && !s.sec.dgate.contains (die, core) &&
    ((ls.map (fun k => k.r.need)).foldl Need.add l.r.need).fits (s.ebudget.getD die 0)

/-- R439, R441: the die can take teams: its core array is active and it is not being reset. -/
def State.dieUp (s : State) (die : Nat) : Bool :=
  ((s.islands[3 * die]?).map (fun i => i.st == 0)).getD false && !s.dieResets.any (fun r => r.die == die)

/-- R267: the spans that hold die combiner entries on a die, 16 each of 256: until a span retires, on every die its teams were placed on. -/
def State.spansOn (s : State) (die : Nat) : List (Nat × Nat) :=
  s.launches.flatMap (fun l => (l.spans.filter (fun p =>
    p.st == .resident && !s.spanOver l.seq p && (s.spanTeams l.seq p.idx).any (fun t => t.die == die))).map (fun p => (l.seq, p.idx)))

/-- R300: n cores of a die that admit a team each, in ascending order. -/
def State.fitDie (s : State) (l : Launch) (die n : Nat) : Option (List Nat) :=
  let cs := ((List.range 64).filter (fun c => s.coreAdmits l die c)).take n
  if cs.length = n && s.dieUp die && decide ((s.spansOn die).length < 16) then some cs else none

/-- R265: the sizes of a span's halves. -/
def Rec.halves (r : Rec) : Nat × Nat := if r.half = 0 then (r.teams, 0) else (r.half, r.teams - r.half)

/-- R338: which teams of a span are to be placed: those that have not been placed or were flushed, or those of a saved span that are left. -/
def State.placing (s : State) (l : Launch) (p : Span) : List (Nat × Nat) :=
  if p.st == .saved then ((s.spanTeams l.seq p.idx).filter (fun t => t.res == .saved)).map (fun t => (t.idx, t.half))
  else
    ((List.range l.r.teams).filter (fun i => (s.spanTeams l.seq p.idx).all (fun t => t.idx != i))).map (fun i =>
      (i, if l.r.half != 0 && l.r.half ≤ i then 1 else 0))

/-- Teams of a half with the cores found for them. -/
def zipCores (half die : Nat) (ts : List (Nat × Nat)) (cs : List Nat) : List (Nat × Nat × Nat × Nat) :=
  (((ts.filter (fun t => t.2 == half)).map Prod.fst).zip cs).map (fun x => (x.1, half, die, x.2))

/-- R331: an empty die could hold the span. -/
def State.couldHold (s : State) (l : Launch) (die : Nat) : Bool :=
  let h := l.r.halves
  let cores := s.usableCores l.part
  l.r.need.fits (s.ebudget.getD die 0) && decide (h.1 ≤ cores) && !s.dieResets.any (fun r => r.die == die) &&
    (l.r.half == 0 || (s.diesOf l.part).any (fun e =>
      decide (die < e) && s.fuses.neighbours die e && decide (h.2 ≤ cores) && l.r.need.fits (s.ebudget.getD e 0)))

/-! ### Blocked fragments whose condition holds -/

/-- R335: a ready fragment whose next word waits for a posted receive. -/
def State.waitsRecv (s : State) (t : Team) (gi : Nat) (g : Group) (l : Launch) (f : Frag) : Bool :=
  f.st == .ready &&
    (match (s.fetch (l.space t.die) f.pc).2 with
     | .ok w =>
       match decode w with
       | .ok i =>
         let sh := i.shape l.r.width
         g.pend.any (fun p => s.recvs.any (fun r => r.team == t.id && r.grp == gi && r.pend == p.id) &&
           p.regs.any (fun r => (guardRefs i ++ sh.reads ++ sh.writes).any (fun x => r.hits x)))
       | .error _ => false
     | .error _ => false)

/-- R180, R192, R197, R221, R247, R357: the condition a blocked fragment of a saved team waits for holds. -/
def State.waitOver (s : State) (t : Team) (gi : Nat) (g : Group) (l : Launch) (f : Frag) : Bool :=
  match f.st with
  | .blocked (.bar nb p) | .blocked (.sync nb p) | .blocked (.yieldBar nb p) => (t.bar nb).passed p
  | .blocked (.tl i v) | .blocked (.yieldTl i v) => s.reached l i v
  | .blocked .scin =>
    match t.chainPos with
    | some p => s.chain.any (fun c => c.seq == t.seq && c.pos == p && c.full && decide (c.due ≤ s.clock)) || s.broken.any (fun b => b.seq == t.seq && b.pos + 1 == p)
    | none => true
  | .blocked (.queue deq hs) =>
    hs.any (fun h => (f.todo.getD 0).getLsbD h.1 &&
      (match s.queues.find? (fun q => q.asid == h.2.1 && q.va == h.2.2) with
       | some q => if deq then s.queueCount q != 0 else decide (s.queueCount q < q.cap)
       | none => true))
  | .blocked (.parked _ pages) => pages.any (fun p => !t.pages.contains (l.asid, p) && !t.faults.any (fun x => pageOf x.va.toNat == p))
  | .ready => !s.waitsRecv t gi g l f
  | _ => false

/-- R335, R338, R358: a saved span may be restored, a resident launch as a whole. -/
def State.restorable (s : State) (l : Launch) (p : Span) : Bool :=
  let ts := (if l.r.resid then s.teams.filter (fun t => t.seq == l.seq) else s.spanTeams l.seq p.idx).filter (fun t => t.res == .saved)
  match p.why with
  | .asked => true
  | .switched => ts.all (fun t => t.pages.isEmpty && t.faults.isEmpty)
  | .idle => ts.any (fun t => t.groups.zipIdx.any (fun g => g.1.frags.any (s.waitOver t g.2 g.1 l)))

/-- R331: the span has not been placed, or is saved and ready, or was flushed. -/
def State.spanPending (s : State) (l : Launch) (p : Span) : Bool :=
  match p.st with
  | .unplaced | .flushed => true
  | .saved => !s.spanOver l.seq p && s.restorable l p
  | .resident | .done => false

/-! ### Ranks (R330) -/

/-- R330: the effective priority; aged counts the 4 ms steps waited. -/
def Launch.eprio (l : Launch) : Nat := min 15 (l.r.prio + l.aged)

/-- R330: the cycle from which a launch's wait counts. -/
def Launch.waitFrom (l : Launch) : Nat := max l.readyAt (l.placedAt.getD 0)

/-- R330, R340: a ranks before b. -/
def ranksBefore (a b : Launch) : Bool :=
  if a.eprio ≠ b.eprio then decide (b.eprio < a.eprio)
  else if a.front ≠ b.front then a.front
  else if a.readyAt ≠ b.readyAt then decide (a.readyAt < b.readyAt)
  else decide (a.seq < b.seq)

/-- R338: a drain of the launch holds a die. -/
def State.draining (s : State) (l : Launch) (die : Nat) : Bool :=
  l.spans.any (fun p => (match p.action with | some (.drain ..) => true | _ => false) &&
    (s.spanTeams l.seq p.idx).any (fun t => t.here && t.die == die))

/-- R414: the dispatch of the launch is held by an engine-command breakpoint. -/
def State.dispatchHeld (s : State) (l : Launch) : Bool :=
  match s.dbgOf l with
  | some d => d.held.any (fun h => h.1 == 0)
  | none => false

/-- R331, R334: the spans of a launch that die d may place, in order. -/
def State.spansFor (s : State) (l : Launch) (die : Nat) : List Span :=
  if l.st != .ready || l.throttled || s.partOf die != l.part || s.draining l die || s.dispatchHeld l || !s.couldHold l die then []
  else
    let ps := l.spans.filter (s.spanPending l)
    if l.r.resid && (l.spans.any (fun p => p.action.isSome) ||
        ps.length != (l.spans.filter (fun p => p.st != .done && p.st != .resident)).length) then [] else ps

/-- R331: the first candidate of a die, with its span. -/
def State.candidate (s : State) (die : Nat) : Option (Launch × Span) :=
  let cs := s.launches.filterMap (fun l => ((s.spansFor l die).head?).map (fun p => (l, p)))
  cs.find? (fun c => cs.all (fun k => k.1.seq == c.1.seq || ranksBefore c.1 k.1))

/-- R331: a candidate of higher rank stands first on the die, so nothing of the launch passes it there. -/
def State.outranked (s : State) (l : Launch) (die : Nat) : Bool :=
  match s.candidate die with
  | some (k, _) => k.seq != l.seq && ranksBefore k l
  | none => false

/-- R265, R331: places for a span whose first half lies on a die: team, half, die and core of each. -/
def State.fitSpan (s : State) (l : Launch) (p : Span) (die : Nat) : Option (List (Nat × Nat × Nat × Nat)) :=
  let ts := s.placing l p
  let n (h : Nat) : Nat := (ts.filter (fun t => t.2 == h)).length
  match s.fitDie l die (n 0) with
  | none => none
  | some a =>
    if l.r.half = 0 then some (zipCores 0 die ts a)
    else
      ((s.diesOf l.part).filter (fun e => decide (die < e) && s.fuses.neighbours die e && !s.draining l e && !s.outranked l e)).findSome? (fun e =>
        (s.fitDie l e (n 1)).map (fun b => zipCores 0 die ts a ++ zipCores 1 e ts b))

/-! ### Starting a team (R82-R87, R258, R261) -/

/-- R85, R142, R201, R258: group g of a launch at team start. -/
def Launch.startGroup (l : Launch) (now g : Nat) : Group :=
  let r := l.r
  let m := lanesBelow (r.launchedOf g)
  { Group.blank with
    role := match r.roleCode g with | 0 => .c | 1 => .m | _ => .v
    launched := m
    s := (l.argv.zipIdx).foldl (fun c x => Cells.set 0 c x.2 x.1) (Cells.set 0 [] 8 r.args)
    mode := r.mode, gang := BitVec.ofNat 32 (2 ^ g), frags := [newFrag 0 m r.entry none 0 now (now + 1)], last := now }

/-- R261, R298: a team at its start. -/
def Launch.startTeam (l : Launch) (now id sp idx half die core : Nat) : Team :=
  { Team.blank with
    id := id, seq := l.seq, span := sp, idx := idx, half := half, die := die, core := core, res := .resident,
    groups := (List.range l.r.groups).map (l.startGroup now), bars := List.replicate 16 Bar.zero,
    chainPos := if l.r.chain then some (sp * l.r.teams + idx) else none, start := now, since := now }

/-- R97, R162, R340: a saved team placed again on a core; an inv in progress issues again. -/
def Team.restored (t : Team) (now die core : Nat) : Team :=
  { t with
    res := .resident, die := die, core := core, since := now,
    groups := t.groups.map (fun g =>
      { g with rst := true, frags := g.frags.map (fun f =>
          { f with wake := now + 1, invIn := f.invIn.map (fun r => { r with again := true }), st := match f.st with | .blocked (.queue ..) | .blocked .scin | .blocked .mmaLatch | .blocked .copyLatch | .blocked (.hand ..) => .ready | st => st }) }) }

/-- R329: a placed team starts after an acquire of its core. -/
def State.placeTeam (s : State) (l : Launch) (p : Span) (x : Nat × Nat × Nat × Nat) : State :=
  let s := s.acquire (64 * x.2.2.1 + x.2.2.2)
  if p.st == .saved then
    { s with teams := s.teams.map (fun t =>
        if t.seq = l.seq && t.span = p.idx && t.idx = x.1 && t.res = .saved then t.restored s.clock x.2.2.1 x.2.2.2 else t) }
  else
    { s with teams := s.teams ++ [l.startTeam s.clock s.nextId p.idx x.1 x.2.1 x.2.2.1 x.2.2.2], nextId := s.nextId + 1 }

/-- R385, R436: the first image of a saved span that fails its tests: team, subcode and address; one that cannot be read has no tag that passes
(log entry 82). -/
def State.badImage (s : State) (l : Launch) (e : SaveEntry) : Option (Nat × Nat × Nat) :=
  (e.imgs.zip ((s.spanTeams l.seq e.span).filter (fun t => t.res == .saved))).findSome? (fun x =>
    let st := if s.badPhys x.1.1 l.r.imageBytes then 4 else s.testImage l x.2 e.cnt (s.readPhys 0 x.1.1 l.r.imageBytes)
    if st = 0 then none else some (x.2.idx, st, x.1.1))

/-- R333, R385, R417: a refused restore: the entry is freed and the span's teams terminate, each with its record; that of the failing team
names its image and tells why. -/
def State.refuseRestore (s : State) (l : Launch) (p : Span) (bad : Nat × Nat × Nat) : State :=
  let s := s.modSec (fun x => { x with saves := x.saves.filter (fun e => !(e.seq == l.seq && e.span == p.idx)) })
  let s := (s.spanTeams l.seq p.idx).foldl (fun s t =>
    let sub := if t.idx = bad.1 then bad.2.1 else 0
    let tval := if t.idx = bad.1 then BitVec.ofNat 64 bad.2.2 else 0
    if !t.alive then s
    else if s.stopsOnFault l then s.suspend t l.part 0xFF 0 0 sub 0 tval
    else s.endTeam t 0xFF 0 sub 0 tval) s
  s.modSpan l.seq p.idx (fun p => { p with st := .done, action := none, byDie := none })

/-- R341, R425: the faults that a save or a stop held are delivered. -/
def State.releaseFaults (s : State) (t : Team) : State :=
  t.heldFaults.foldl (fun s x => s.terminate t.id x.1 x.2.1 x.2.2.1 x.2.2.2.1 x.2.2.2.2.1 x.2.2.2.2.2)
    (s.modTeam t.id (fun t => { t with heldFaults := [] }))

/-- R267: a team of the span that has ended holds no place on a die that the span has left: it counts where its half now lies. -/
def State.moveRetired (s : State) (l : Launch) (p : Span) (xs : List (Nat × Nat × Nat × Nat)) : State :=
  let dieOf (half : Nat) : Option Nat := ((xs.find? (fun x => x.2.1 == half)).or xs.head?).map (fun x => x.2.2.1)
  { s with teams := s.teams.map (fun t =>
      if t.seq = l.seq && t.span = p.idx && !t.alive then { t with die := (dieOf t.half).getD t.die } else t) }

/-- R244, R331, R340, R341: a span is placed on the cores found for it; words of the peer that waited at the port are delivered. -/
def State.placeSpan (s : State) (l : Launch) (p : Span) (xs : List (Nat × Nat × Nat × Nat)) : State :=
  let saved := p.st == .saved
  let entry := s.sec.saves.find? (fun e => e.seq == l.seq && e.span == p.idx)
  match (if saved then entry.bind (s.badImage l) else none) with
  | some bad => s.refuseRestore l p bad
  | none =>
    let s := s.modSec (fun x => { x with saves := x.saves.filter (fun e => !(e.seq == l.seq && e.span == p.idx)) })
    let s := xs.foldl (fun s x => s.placeTeam l p x) s
    let s := s.moveRetired l p xs
    let s := (s.spanTeams l.seq p.idx).foldl (fun s t => t.exchs.foldl (fun s e => s.advanceExch 8 t.id e.id) s) s
    let s := (s.spanTeams l.seq p.idx).foldl State.releaseFaults s
    let s := s.modSpan l.seq p.idx (fun q =>
      { q with st := .resident, action := none, byDie := none, why := .asked, restoredAt := if saved then some s.clock else q.restoredAt })
    let s : State := { s with passes := s.passes.map (fun v => { v with pending := v.pending.filter (fun y => y != (l.seq, p.idx)) }) }
    let s := s.modLaunch l.seq (fun l => { l with placedAt := some s.clock, aged := 0, started := true })
    let at0 := (xs.head?).getD (0, 0, 0, 0)
    s.trace l at0.2.2.1 (if saved then 4 else 2) 0xFF 0xFF p.idx 0 0 (BitVec.ofNat 64 (at0.2.2.1 * 256 + at0.2.2.2))

/-- R270, R331: every span of a resident launch placed, on dies where nothing of higher rank stands first, or nothing. -/
def State.placeAll (s : State) (seq : Nat) : List Span → Option State
  | [] => some s
  | p :: ps =>
    match s.launch? seq with
    | none => none
    | some l =>
      match ((s.diesOf l.part).filter (fun d => !s.draining l d && !s.outranked l d)).findSome? (fun d => s.fitSpan l p d) with
      | none => none
      | some xs => (s.placeSpan l p xs).placeAll seq ps

/-- R267, R270: resident launches that are admitted. -/
def State.residents (s : State) : Nat :=
  (s.launches.filter (fun l => l.r.resid && l.st == .ready && l.spans.any (fun p => p.st == .resident))).length

/-- R414: the first dispatch of a launch that an engine-command breakpoint names is held instead. -/
def State.heldFirst (s : State) (l : Launch) : Option State :=
  if l.started then none
  else
    let n := BitVec.ofNat 64 l.seq
    match (if (s.dbgOf l).isSome then s.ecb l.part l.r.ctx 0 n else none) with
    | some _ => some ((s.holdCommand l.part l.r.ctx 0 n).modLaunch l.seq (fun l => { l with started := true }))
    | none => none

/-- R340: a launch that has nothing left to place is no longer at the front of its rank. -/
def Launch.settleFront (l : Launch) : Launch :=
  { l with front := l.front && l.spans.any (fun p => p.st == .unplaced || p.st == .saved || p.st == .flushed) }

/-- R331: one placement by a die's dispatcher, if its first candidate fits now. -/
def State.dispatchOn (s : State) (die : Nat) : Option State :=
  match s.candidate die with
  | none => none
  | some (l, p) =>
    match s.heldFirst l with
    | some s => some s
    | none =>
      let r :=
        if l.r.resid then
          (if decide (s.residents < 4) then s.placeAll l.seq (s.spansFor l die) else none)
        else (s.fitSpan l p die).map (s.placeSpan l p)
      r.map (fun s => { s with launches := s.launches.map Launch.settleFront })

/-- R263, R267, R331: what a die's resources are held by: its teams, cores to scrub or gated, its budget and state, combiner entries, and the
resident launches. -/
def State.dieHeld (s : State) (die : Nat) : List (Nat × Nat) :=
  let at_ (k : Nat) (xs : List Nat) : List (Nat × Nat) := xs.map (fun x => (8 * die + k, x))
  at_ 0 ((s.teams.filter (fun t => t.here && t.die == die)).map Team.id) ++
    at_ 1 ((s.sec.scrubCore.filter (fun c => c.1 == die)).map (fun c => c.2.1)) ++
    at_ 2 ((s.sec.dgate.filter (fun c => c.1 == die)).map Prod.snd) ++
    at_ 3 [s.ebudget.getD die 0] ++ at_ 4 [if s.dieUp die then 1 else 0] ++
    at_ 5 ((s.spansOn die).map (fun x => 2 ^ 16 * x.1 + x.2)) ++
    at_ 6 ((s.launches.filter (fun l => l.r.resid && l.st == .ready && l.spans.any (fun p => p.st == .resident))).map Launch.seq)

/-- R331: what a die's dispatcher finds: the resources its first candidate may need, and the spans it may place. -/
def State.passOf (s : State) (die : Nat) : DiePass :=
  let wide := match s.candidate die with | some (l, _) => l.r.resid || l.r.half != 0 | none => false
  let dies := if wide then s.diesOf (s.partOf die) else [die]
  { die := die, dies := dies, res := dies.flatMap s.dieHeld,
    pending := s.launches.flatMap (fun l => (s.spansFor l die).map (fun p => (l.seq, p.idx))) }

/-- R331: since the die's dispatcher placed nothing further, resources have been freed, on dies that it could use then and now, or a span
has become ready. -/
def State.passDue (s : State) (die : Nat) : Bool :=
  (s.candidate die).isSome &&
    (match s.passes.find? (fun v => v.die == die) with
     | none => true
     | some v =>
       let now := s.passOf die
       v.res.any (fun x => v.dies.contains (x.1 / 8) && now.dies.contains (x.1 / 8) && !now.res.contains x) || now.pending.any (fun x => !v.pending.contains x))

/-- R331, R340: a die's dispatcher places nothing further until its resources change; a launch that ACT = 2 moved has had its pass. -/
def State.endPass (s : State) (die : Nat) : State :=
  { s with
    passes := s.passes.filter (fun v => v.die != die) ++ [s.passOf die]
    launches := s.launches.map (fun l => if (s.spansFor l die).isEmpty then l else { l with front := false }) }

/-! ### The events -/

/-- R331, DISPATCH: a die's dispatcher places the spans of its first candidate and looks again; where it can place nothing, its pass
ends. -/
def execDispatch (die : Nat) (s : State) : Outcome State Fault Refusal :=
  match s.dispatchOn die with
  | some s => .next { s with passes := s.passes.filter (fun v => v.die != die) }
  | none => .next (s.endPass die)

/-- R329: every timeline of the dependence list holds its value. -/
def State.depsMet (s : State) (l : Launch) : Bool := l.deps.all (fun d => decide (d.2.2.toNat ≤ (s.timeline d.1 d.2.1).toNat))

/-- R329, LAUNCH_READY. -/
def execLaunchReady (seq : Nat) (s : State) : Outcome State Fault Refusal :=
  match s.launch? seq with
  | some l =>
    if l.st == .waiting && s.depsMet l then
      .next (s.modLaunch seq (fun l => { l with st := .ready, readyAt := s.clock, aged := 0 }))
    else .next s
  | none => .next s

/-- R330: the cycle of a launch's next step of aging. -/
def Launch.nextAging (l : Launch) : Nat := l.waitFrom + (l.aged + 1) * (4000 * us)

/-- R330: the time since a launch became ready or had a span placed passes another 4 ms. -/
def State.ages (s : State) (l : Launch) : Bool := l.st == .ready && decide (l.eprio < 15) && decide (l.nextAging ≤ s.clock)

/-- R330, AGING: after each 4 ms of waiting the effective priority rises. -/
def execAging (seq : Nat) (s : State) : Outcome State Fault Refusal :=
  match s.launch? seq with
  | some l => if s.ages l then .next (s.modLaunch seq (fun l => { l with aged := l.aged + 1 })) else .next s
  | none => .next s

end Sys2Proof.Machine
end

