-- ==== Sys2Proof/Machine/Preempt.lean ====
section
/-! DEFINITION. Pre-emption and retirement (R261, R332-R341, R358): the estimator, drain, save and flush, switch-out, idle
spans, link-share throttling, kills, and the retirement of teams and launches, with their events. -/

namespace Sys2Proof.Machine

open Host (Outcome)

/-! ### Work that must be complete -/

/-- R215, R226, R237: the team's accepted engine operations are complete. -/
def Team.enginesDone (t : Team) : Bool := t.mats.isEmpty && t.xfers.isEmpty && t.scanq.isEmpty && t.exchs.all (fun x => x.whole.isNone)

/-- R34, R169, R227, R237: what a save or flush waits for: engine operations, accesses but queue words that wait, messages,
and results but those of posted receives and of exchanges. -/
def State.teamQuiet (s : State) (t : Team) : Bool :=
  t.enginesDone && s.homeOps.all (fun p => p.team != t.id || s.queueWaits p) && s.msgs.all (fun m => m.team != t.id) &&
    t.groups.all (fun g => g.pend.all (s.pendStands t))

/-! ### The estimator (R337) -/

/-- R337: B_t, the bytes of a team's state. -/
def Rec.stateBytes (r : Rec) : Nat := r.need.regs + r.need.lmem + 256 * r.scr + 4096 + 786432 * r.need.store

/-- R337: times in units of 1/256 of a cycle of the 1.8 GHz reference. -/
def unitsOfUs (n : Nat) : Nat := n * us * 256

/-- R337: D_t of the team whose elapsed time is longest: none is unbounded. -/
def drainTime (dur elapsed : Nat) : Option Nat :=
  if dur = 0 then none else some (unitsOfUs dur - 256 * elapsed)

/-- R337: an action's time and cost. -/
structure Rating where
  act  : Nat
  lam  : Option Nat
  cost : Option Nat
  deriving DecidableEq, Repr

/-- An unbounded figure exceeds every other. -/
def figLe : Option Nat → Option Nat → Bool
  | _, none => true
  | none, some _ => false
  | some a, some b => decide (a ≤ b)

/-- R339: no team of the launch, one that has retired included, forbids a flush. -/
def State.mayFlush (s : State) (l : Launch) : Bool := l.r.rst && s.teams.all (fun t => t.seq != l.seq || !t.noFlush)

/-- R337, R380: the available actions of a request with their figures: 0 drain, 1 save, 2 flush. -/
def State.ratings (s : State) (l : Launch) (ts : List Team) (sizes : List Nat) (drain : Bool) : List Rating :=
  let elapsed := ts.map (fun t => s.clock - t.since)
  let most := elapsed.foldl max 0
  let least := elapsed.foldl min (elapsed.headD 0)
  let b := l.r.stateBytes
  let d := drainTime l.r.dur least
  (if drain then [⟨0, d, d⟩] else []) ++
    (if (sizes.foldl (fun (a : Option (List (Nat × Nat))) n =>
          a.bind (fun taken =>
            (s.saveArea l.part).bind (fun ar => (placeImages ar.1 ar.2 (inUnits l.r.imageBytes) n taken).map (taken ++ ·))))
        (some ((s.sec.saves.filter (fun e => e.part == l.part)).flatMap SaveEntry.imgs))).isSome &&
        decide ((s.sec.saves.filter (fun e => e.part == l.part)).length + sizes.length ≤ 1024)
     then [⟨1, some (4 * b), some (4 * b)⟩] else []) ++
    (if s.mayFlush l then [⟨2, some b, some (256 * most)⟩] else [])

/-- The first rating whose figure is least. -/
def leastBy (f : Rating → Option Nat) (rs : List Rating) : Option Rating := rs.find? (fun r => rs.all (fun q => figLe (f r) (f q)))

/-- R337: the action chosen under a bound of L µs. -/
def chooseAction (rs : List Rating) (L : Nat) : Option Nat :=
  ((leastBy Rating.cost (rs.filter (fun r => figLe r.lam (some (unitsOfUs L))))).or (leastBy Rating.lam rs)).map Rating.act

/-! ### The actions (R338) -/

/-- R215, R338: a team stops issuing; its latch is emptied, and a member that was blocked there is to issue its mma again. -/
def Team.stop (t : Team) : Team :=
  { t with
    res := .stopping, latch := [],
    groups := t.groups.map (fun g =>
      { g with frags := g.frags.map (fun f => if f.st = .blocked .mmaLatch then { f with st := .ready } else f) }) }

/-- R338, R411: the live teams of a span stop issuing. -/
def State.stopSpan (s : State) (seq sp : Nat) : State :=
  { s with teams := s.teams.map (fun t => if t.seq = seq && t.span = sp && t.res = .resident then t.stop else t) }

/-- R338, R380, R381: a save begins: its images take their places and the counter advances. -/
def State.beginSave (s : State) (seq sp : Nat) (why : SaveWhy) : Option State :=
  match s.launch? seq with
  | none => none
  | some l =>
    let ts := (s.spanTeams seq sp).filter Team.alive
    match s.imagePlaces l ts.length with
    | none => none
    | some ps =>
      let cnt := l.scnt + 1
      let s := s.modSec (fun x => { x with saves := x.saves ++ [⟨l.part, seq, sp, cnt, ps⟩] })
      let s := s.modLaunch seq (fun l => { l with scnt := cnt })
      let s := s.modSpan seq sp (fun p =>
        { p with action := some .save, due := s.clock + (l.r.stateBytes + 63) / 64, why := why })
      let s := s.stopSpan seq sp
      some (s.trace l 0 3 0xFF 0xFF sp 0 0 1)

/-- R270, R338: a save of several spans begins, or none does. -/
def State.beginSaves (s : State) (seq : Nat) (why : SaveWhy) : List Nat → Option State
  | [] => some s
  | n :: ns => (s.beginSave seq n why).bind (fun s => s.beginSaves seq why ns)

/-- The stopped teams of a span issue again. -/
def State.resumeSpan (s : State) (seq sp : Nat) : State :=
  ({ s with teams := s.teams.map (fun t => if t.seq = seq && t.span = sp && t.res = .stopping then { t with res := .resident } else t) } : State).modSpan
    seq sp (fun p => { p with action := none, byDie := none })

def State.beginFlush (s : State) (seq sp : Nat) : State :=
  match s.launch? seq with
  | none => s
  | some l =>
    let s := s.modSpan seq sp (fun p => { p with action := some .flush, due := s.clock + (l.r.stateBytes + 255) / 256 })
    (s.stopSpan seq sp).trace l 0 3 0xFF 0xFF sp 0 0 2

def State.beginDrain (s : State) (seq sp : Nat) (why : SaveWhy) (L : Nat) : State :=
  match s.launch? seq with
  | none => s
  | some l =>
    (s.modSpan seq sp (fun p => { p with action := some (.drain (s.clock + L * us) L), why := why })).trace l 0 3 0xFF 0xFF sp 0 0 0

/-- R338: one chosen action on each span of a request. -/
def State.act (s : State) (seq : Nat) (sps : List Nat) (why : SaveWhy) (L : Nat) : Option Nat → State
  | some 0 => sps.foldl (fun s sp => s.beginDrain seq sp why L) s
  | some 1 => (s.beginSaves seq why sps).getD s
  | some 2 => sps.foldl (fun s sp => s.beginFlush seq sp) s
  | _ => s

/-- The live teams of the named spans, and how many each span has. -/
def State.requestTeams (s : State) (seq : Nat) (sps : List Nat) : List Team × List Nat :=
  let per := sps.map (fun sp => (s.spanTeams seq sp).filter Team.alive)
  (per.flatten, per.map List.length)

/-- R341: the spans of a request that have an action running or not; a second request during a drain brings its end
forward. -/
def State.hasten (s : State) (seq : Nat) (sps : List Nat) (L : Nat) : State :=
  sps.foldl (fun s sp => s.modSpan seq sp (fun p =>
    match p.action with
    | some (.drain u b) => { p with action := some (.drain (min u (s.clock + L * us)) (min b L)) }
    | _ => p)) s

/-- R270, R336: the resident spans a request for one span, or for the whole launch, names. -/
def State.requestSpans (s : State) (l : Launch) (sp : Option Nat) : List Nat :=
  ((l.spans.filter (fun p => p.st == .resident && !s.spanOver l.seq p &&
    (l.r.resid || (match sp with | some n => p.idx == n | none => true)))).map Span.idx)

/-- R336, R337, R341: a pre-emption request with a bound. -/
def State.request (s : State) (seq : Nat) (sp : Option Nat) (L : Nat) (why : SaveWhy) : State :=
  match s.launch? seq with
  | none => s
  | some l =>
    if l.st != .ready then s
    else
      let sps := s.requestSpans l sp
      let busy := l.spans.filter (fun p => p.action.isSome && sps.contains p.idx)
      if sps.isEmpty then s
      else if !busy.isEmpty then s.hasten seq sps L
      else
        let ts := s.requestTeams seq sps
        s.act seq sps why L (chooseAction (s.ratings l ts.1 ts.2 true) L)

/-- R338: the bound of a drain has passed: save or flush is chosen for the launch's spans whose drain ended. -/
def State.redecide (s : State) (seq : Nat) : State :=
  match s.launch? seq with
  | none => s
  | some l =>
    let ended := l.spans.filterMap (fun p => match p.action with
      | some (.drain u b) => if u < s.clock then some (p.idx, b) else none
      | _ => none)
    let sps := (ended.map Prod.fst).filter (fun n => l.spans.any (fun p => p.idx == n && !s.spanOver seq p))
    let L := (ended.map Prod.snd).foldl min ((ended.map Prod.snd).headD 0)
    let s := ended.foldl (fun s e => s.modSpan seq e.1 (fun p => { p with action := none })) s
    if sps.isEmpty then s
    else
      let ts := s.requestTeams seq sps
      let choice := chooseAction (s.ratings l ts.1 ts.2 false) L
      let why (n : Nat) : SaveWhy := ((l.spans.find? (fun p => p.idx == n)).map Span.why).getD .asked
      sps.foldl (fun s n => s.act seq [n] (why n) L choice) s

/-! ### Save and flush complete -/

/-- R169, R180: the words that wait at a queue leave it; the values that came for their served participants are written. -/
def State.dropQueueWaits (s : State) (mine : Nat → Bool) : State :=
  { s with
    homeOps := s.homeOps.filter (fun q => !mine q.team)
    teams := s.teams.map (fun t =>
      if mine t.id then { t with groups := t.groups.map (fun g => (g.pend.filter s.pendWaits).foldl Group.finishPend g) } else t) }

/-- R34, R97, R146, R162, R215, R237: a team as it is saved. -/
def Team.saved (t : Team) : Team :=
  { t with
    res := .saved, latch := [], copyLatch := [],
    groups := t.groups.map (fun g => { g.settle with afWait := [] }) }

/-- R380: the images of a save are written under slot 0. -/
def State.writeImages (s : State) (l : Launch) (e : SaveEntry) : State :=
  (e.imgs.zip ((s.spanTeams l.seq e.span).filter (fun t => t.res == .stopping))).foldl
    (fun s x => s.writePhys 0 x.1.1 (s.sealImage l x.2.saved e.cnt)) s

/-- R338: a span's own part of its save is over. -/
def State.saveDone (s : State) (seq : Nat) (p : Span) : Bool :=
  p.action == some .save && decide (p.due ≤ s.clock) && (s.spanTeams seq p.idx).all (fun t => t.res != .stopping || s.teamQuiet t)

/-- R97, R338, R380, R431: a save ends: images, regions of the address space, cores freed. -/
def State.completeSave (s : State) (l : Launch) (p : Span) : State :=
  let ts := (s.spanTeams l.seq p.idx).filter (fun t => t.res == .stopping)
  let s := s.dropQueueWaits (fun id => ts.any (fun t => t.id == id))
  let s :=
    match s.sec.saves.find? (fun e => e.seq == l.seq && e.span == p.idx) with
    | some e => s.writeImages l e
    | none => s
  let s := ts.foldl (fun s t => s.modTeam t.id Team.saved) s
  let s := ts.foldl (fun s t => s.releaseCore t) s
  let s := s.commitRegions 2 (fun r => r.asid == l.asid && r.changed)
  s.modSpan l.seq p.idx (fun p => { p with st := .saved, action := none, byDie := none })

/-- R270, R338: whether a save of the span can end now: that of a resident launch ends for all its spans at once. -/
def State.saveReady (s : State) (l : Launch) (p : Span) : Bool :=
  s.saveDone l.seq p && (!l.r.resid || l.spans.all (fun q => q.action != some .save || s.saveDone l.seq q))

/-- R338, SAVE_COMPLETE. -/
def execSaveComplete (seq span : Nat) (s : State) : Outcome State Fault Refusal :=
  match s.launch? seq with
  | some l =>
    match l.spans.find? (fun p => p.idx == span) with
    | some p =>
      if s.saveReady l p then
        .next ((if l.r.resid then l.spans.filter (fun q => q.action == some .save) else [p]).foldl (fun s q => s.completeSave l q) s)
      else .next s
    | none => .next s
  | none => .next s

/-- R338: a span's own part of its flush is over. -/
def State.flushDone (s : State) (seq : Nat) (p : Span) : Bool :=
  p.action == some .flush && decide (p.due ≤ s.clock) && (s.spanTeams seq p.idx).all (fun t => t.res != .stopping || s.teamQuiet t)

/-- R338: the state of a span's teams is discarded; the memory they wrote remains. -/
def State.completeFlush (s : State) (l : Launch) (p : Span) : State :=
  let ts := (s.spanTeams l.seq p.idx).filter (fun t => t.res == .stopping)
  let s := ts.foldl (fun s t => s.dropTeam t .flushed false) s
  let s : State := { s with homeOps := s.homeOps.filter (fun q => !ts.any (fun t => t.id == q.team))
                            teams := s.teams.filter (fun t => !ts.any (fun x => x.id == t.id)) }
  (s.dropArrivals l.seq p.idx).modSpan l.seq p.idx (fun p => { p with st := .flushed, action := none, byDie := none })

/-- R270, R338: whether a flush of the span can end now: that of a resident launch ends for all its spans at once. -/
def State.flushReady (s : State) (l : Launch) (p : Span) : Bool :=
  s.flushDone l.seq p && (!l.r.resid || l.spans.all (fun q => q.action != some .flush || s.flushDone l.seq q))

/-- R270, R338, R339: a flush ends. A launch of which a team has had a send accepted since it stopped may not be flushed: its spans are
saved, or go on where no images find room (log entry 50). -/
def State.endFlush (s : State) (l : Launch) (ps : List Span) : State :=
  if s.mayFlush l then ps.foldl (fun s q => s.completeFlush l q) s
  else (s.beginSaves l.seq ((ps.head?.map Span.why).getD .asked) (ps.map Span.idx)).getD (ps.foldl (fun s q => s.resumeSpan l.seq q.idx) s)

/-- R338, FLUSH_COMPLETE. -/
def execFlushComplete (seq span : Nat) (s : State) : Outcome State Fault Refusal :=
  match s.launch? seq with
  | some l =>
    match l.spans.find? (fun p => p.idx == span) with
    | some p =>
      if s.flushReady l p then .next (s.endFlush l (if l.r.resid then l.spans.filter (fun q => q.action == some .flush) else [p]))
      else .next s
    | none => .next s
  | none => .next s

/-- R338, DRAIN_EXPIRY. -/
def execDrainExpiry (seq span : Nat) (s : State) : Outcome State Fault Refusal :=
  match s.launch? seq with
  | some l =>
    match l.spans.find? (fun p => p.idx == span) with
    | some p =>
      match p.action with
      | some (.drain u _) => if u < s.clock then .next (s.redecide seq) else .next s
      | _ => .next s
    | none => .next s
  | none => .next s

/-! ### Switch-out (R358) -/

def Frag.parkedSt (f : Frag) : Bool := match f.st with | .blocked (.parked ..) => true | _ => false

/-- R358: some fragment is parked and no group that has not ended has a ready one. -/
def Team.stuck (t : Team) : Bool :=
  t.res == .resident && t.groups.any (fun g => g.frags.any Frag.parkedSt) && t.groups.all (fun g => g.frags.all (fun f => f.st != .ready))

/-- R266, R270, R358: a team's span, or its whole resident launch, is switched out if the save area has room. -/
def State.switchOut (s : State) (t : Team) : State :=
  match s.launch? t.seq with
  | none => s
  | some l =>
    let sps := (s.requestSpans l (some t.span)).filter (fun n =>
      !l.spans.any (fun p => p.idx == n && (p.action == some .save || p.action == some .flush)))
    (s.beginSaves t.seq .switched sps).getD s

/-- R411: the launch is stopped by its debugger, so its watchdogs, park limits and idle timer stand. -/
def State.stoppedNow (s : State) (seq : Nat) : Bool := s.dbg.any (fun d => d.att && d.stopped && d.seq == seq)

/-- R358: a fragment has been parked longer than its launch's park limit. -/
def State.parkExpired (s : State) (t : Team) (f : Frag) : Bool :=
  match f.st, s.launch? t.seq with
  | .blocked (.parked since _), some l =>
    t.res == .resident && l.r.park != 0 && decide (since + l.r.park * us < s.clock) && !s.stoppedNow t.seq
  | _, _ => false

/-- R358, PARK_LIMIT_EXPIRY. -/
def execParkLimitExpiry (t g e : Nat) (s : State) : Outcome State Fault Refusal :=
  match s.team? t with
  | some y =>
    match (y.groups[g]?).bind (fun x => x.frag? e) with
    | some f => if s.parkExpired y f then .next (s.switchOut y) else .next s
    | none => .next s
  | none => .next s

/-! ### Requests (R334-R336) -/

/-- R336: no span that the die has asked to yield is still at it. -/
def State.dieQuiet (s : State) (die : Nat) : Bool :=
  s.launches.all (fun l => l.spans.all (fun p => p.action.isNone || p.byDie != some die))

/-- R331: the first candidate of a die, when it does not fit now. -/
def State.heldCandidate (s : State) (die : Nat) : Option (Launch × Span) :=
  match s.candidate die with
  | none => none
  | some c => if (s.dispatchOn die).isSome then none else some c

/-- R336: the spans on a die that may be asked to yield to a candidate. -/
def State.victims (s : State) (die : Nat) (c : Launch) : List (Launch × Span) :=
  (s.launches.filter (fun l => l.seq != c.seq && l.part == c.part && decide (l.r.prio < c.eprio))).flatMap (fun l =>
    (l.spans.filter (fun p => p.st == .resident && !s.spanOver l.seq p &&
      (match p.restoredAt with | some t => decide (t + 4000 * us ≤ s.clock) | none => true) &&
      (s.spanTeams l.seq p.idx).any (fun t => t.here && t.die == die))).map (fun p => (l, p)))

/-- R336: lowest PRIO first, then the launch dispatched most recently. -/
def State.victim (s : State) (die : Nat) (c : Launch) : Option (Launch × Span) :=
  let vs := s.victims die c
  vs.find? (fun v => vs.all (fun w => decide (v.1.r.prio < w.1.r.prio) ||
    (v.1.r.prio == w.1.r.prio && decide ((w.1.placedAt.getD 0) ≤ (v.1.placedAt.getD 0)))))

/-- R336: whether a priority request of the die is due, and whom it names. -/
def State.priorityRequest (s : State) (die : Nat) : Option (Launch × Span) :=
  match s.heldCandidate die with
  | none => none
  | some (c, _) => if decide (c.waitFrom + 1000 * us ≤ s.clock) && s.dieQuiet die then s.victim die c else none

/-- R336, PRIORITY_PREEMPTION. -/
def execPriorityPreemption (die : Nat) (s : State) : Outcome State Fault Refusal :=
  match s.priorityRequest die with
  | some (l, p) =>
    .next ((s.request l.seq (some p.idx) l.r.plat .asked).modSpan l.seq p.idx (fun q => if q.action.isSome then { q with byDie := some die } else q))
  | none => .next s

/-- R335: the fragment is yielded or blocked in a wait that makes a span idle. -/
def State.fragIdle (s : State) (t : Team) (gi : Nat) (g : Group) (l : Launch) (f : Frag) : Bool :=
  match f.st with
  | .blocked (.bar ..) | .blocked (.sync ..) | .blocked (.tl ..) | .blocked (.yieldBar ..) | .blocked (.yieldTl ..) | .blocked .scin
  | .blocked (.queue ..) => true
  | .ready => s.waitsRecv t gi g l f
  | _ => false

/-- R335: the span has been idle for 8 µs. -/
def State.spanIdle (s : State) (l : Launch) (sp : Nat) : Bool :=
  let ts := (s.spanTeams l.seq sp).filter (fun t => t.res == .resident)
  !ts.isEmpty && !s.stoppedNow l.seq && ts.all (fun t => decide (t.since + 8 * us ≤ s.clock) && t.groups.zipIdx.all (fun g => g.1.frags.all (fun f =>
    decide (f.last + 8 * us ≤ s.clock) && s.fragIdle t g.2 g.1 l f)))

/-- R335: a die of the span whose first candidate does not fit and has at least the effective priority of its launch. -/
def State.idleWanted (s : State) (l : Launch) (sp : Nat) : Bool :=
  (List.range 8).any (fun d => (s.spanTeams l.seq sp).any (fun t => t.here && t.die == d) &&
    (match s.heldCandidate d with | some c => decide (l.eprio ≤ c.1.eprio) | none => false))

/-- R335, SPAN_IDLE. -/
def execSpanIdle (seq span : Nat) (s : State) : Outcome State Fault Refusal :=
  match s.launch? seq with
  | some l =>
    if l.spans.any (fun p => p.idx == span && p.st == .resident && p.action.isNone) && s.spanIdle l span && s.idleWanted l span then
      .next (s.request seq (some span) l.r.plat .idle)
    else .next s
  | none => .next s

/-- R334: the die-link flits of a launch in the window, and those that left in all the dies it occupied. -/
def State.linkTraffic (s : State) (l : Launch) : Nat × Nat :=
  let own (d : Nat) : Nat := Cells.get 0 s.flits (8 * l.seq + d)
  let dies := (List.range 8).filter (fun d => own d != 0 || s.teams.any (fun t => t.seq == l.seq && t.here && t.die == d))
  (dies.foldl (fun n d => n + own d) 0,
   (s.flits.filter (fun e => dies.contains (e.1 % 8))).foldl (fun n e => n + e.2) 0)

/-- R334: a window of 100 µs has passed. -/
def State.windowOver (s : State) : Bool := decide (s.winAt + 100 * us ≤ s.clock)

/-- R334, LINK_SHARE_WINDOW: the window that began then ends; a launch whose traffic in it exceeds its class's share is held back until one ends within it. -/
def execLinkShareWindow (began : Nat) (s : State) : Outcome State Fault Refusal :=
  if began == s.winAt && s.windowOver then
    .next { s with
      winAt := s.clock, flits := []
      launches := s.launches.map (fun l =>
        let share := field (s.hreg .control (0x300 + 8 * l.r.eclass)) 7 0
        let n := s.linkTraffic l
        { l with throttled := share != 0 && decide (share * n.2 < 256 * n.1) }) }
  else .next s

/-! ### Retirement (R261, R332) -/

/-- R153, R261: a team may retire: nothing it issued is still under way. -/
def State.teamOver (s : State) (t : Team) : Bool :=
  t.here && t.groups.all Group.ended && t.enginesDone && t.exchs.isEmpty && t.latch.isEmpty && t.copyLatch.isEmpty &&
    s.msgs.all (fun m => m.team != t.id) && t.groups.all (fun g => g.pend.isEmpty && g.flights.isEmpty)

/-- R261, R268, R305: the team's allocations are freed, its barriers' upper levels take a drop, its chain position breaks. -/
def State.retireTeam (s : State) (t : Team) : State := (s.combDrop t).dropTeam t .retired true

/-- R261, TEAM_RETIREMENT. -/
def execTeamRetirement (t : Nat) (s : State) : Outcome State Fault Refusal :=
  match s.team? t with
  | some y => if s.teamOver y then .next (s.retireTeam y) else .next s
  | none => .next s

/-- R414: the engine operations a team has accepted are complete, but for those held by a breakpoint and transfers that
wait for a page. -/
def State.enginesIdle (s : State) (l : Launch) (t : Team) : Bool :=
  t.mats.all (fun m => s.cmdHeld l 2 m.num) && t.scanq.all (fun o => s.cmdHeld l 3 o.num) &&
    t.xfers.all (fun x => !x.waiting.isEmpty || s.cmdHeld l 1 x.num)

/-- R332: every span has retired or been terminated, and every access of the launch has been performed. -/
def State.launchOver (s : State) (l : Launch) : Bool :=
  l.st == .ready && l.spans.all (s.spanOver l.seq) && ((s.dbgOf l).map (fun d => d.susp.isEmpty)).getD true && s.teams.all (fun t => t.seq != l.seq || s.enginesIdle l t) &&
    s.homeOps.all (fun p => (s.teams.all (fun t => t.seq != l.seq || t.id != p.team)))

/-- R332, LAUNCH_RETIREMENT. -/
def execLaunchRetirement (seq : Nat) (s : State) : Outcome State Fault Refusal :=
  match s.launch? seq with
  | some l => if s.launchOver l then .next (s.retireLaunch seq) else .next s
  | none => .next s

/-- R379, CORE_SCRUB_COMPLETE: a powered core's units are zeroed and its L1 holds no line. -/
def execCoreScrubComplete (die core : Nat) (s : State) : Outcome State Fault Refusal :=
  if s.sec.scrubCore.any (fun c => c.1 == die && c.2.1 == core) && ((s.islands[3 * die]?).map (fun i => i.st == 0)).getD true then
    let s := s.modSec (fun x =>
      { x with scrubCore := x.scrubCore.filter (fun c => !(c.1 == die && c.2.1 == core)),
               dgate := x.dgate.filter (fun c => c != (die, core)) })
    .next { s with l1 := s.l1.filter (fun y => y.core != 64 * die + core) }
  else .next s

/-! ### SMPREQ (R322, R341) -/

/-- R322: the live launch of the stream's partition that SMPSEQ names. -/
def State.named (s : State) (st : Nat) : Option Launch :=
  match s.streams[st]? with
  | none => none
  | some x =>
    match s.launch? x.pseq.toNat with
    | some l => if l.part = x.part && l.st != .retired then some l else none
    | none => none

/-- R336, PREEMPT: SMPREQ with ACT 0. -/
def execPreempt (st : Nat) (v : BitVec 64) (s : State) : Outcome State Fault Refusal :=
  match s.named st with
  | some l => if field v 33 32 = 0 then .next (s.request l.seq none (field v 31 0) .asked) else .next s
  | none => .next s

/-- R341, KILL: SMPREQ with ACT 1. -/
def execKill (st : Nat) (v : BitVec 64) (s : State) : Outcome State Fault Refusal :=
  match s.named st with
  | some l => if field v 33 32 = 1 then .next (s.endLaunch l.seq 6) else .next s
  | none => .next s

/-- R340, RESTORE_NOW: SMPREQ with ACT 2. -/
def execRestoreNow (st : Nat) (v : BitVec 64) (s : State) : Outcome State Fault Refusal :=
  match s.named st with
  | some l =>
    if field v 33 32 = 2 && l.spans.any (fun p => p.st == .saved) then .next (s.modLaunch l.seq (fun l => { l with front := true }))
    else .next s
  | none => .next s

end Sys2Proof.Machine
end

