-- ==== Sys2Proof/Machine/Regs.lean ====
section
/-! DEFINITION. The register window of the I/O die: which path reaches which register (R388, R394, R408, R445), which
registers are locked (R393), the writable bits of the plain ones, commands with GO and BUSY, and a TDI's entry into
ERROR (R394). -/

namespace Sys2Proof.Machine

/-! ### Partitions and their interfaces -/

def State.tdiOf (s : State) (p : Nat) : Tdi := s.sec.tdi.getD p .unlocked

def State.setTdi (s : State) (p : Nat) (t : Tdi) : State := s.modSec (fun x => { x with tdi := x.tdi.set p t })

/-- R388: the host link whose VF is the partition's TDI. -/
def State.tdiLink (s : State) (p : Nat) : Nat := field (s.hreg .hostLink (0x400 + 8 * p)) 1 1

/-- R309: the partition exists. -/
def State.hasPart (s : State) (p : Nat) : Bool := (List.range 8).any (fun d => s.partOf d == p)

/-- R391: the link's IDE stream is secure. -/
def State.ideSecure (s : State) (link : Nat) : Bool := s.sec.ide.getD link false

/-- R389: the partition has an owner session. -/
def State.ownerSession (s : State) (p : Nat) : Option Session := s.sec.sessions.find? (fun x => x.owner == some p && x.done)

/-- R393: in RUN, a doorbell or command register accepts writes only through the TDI's IDE stream while it is secure. -/
def State.doorOpen (s : State) (p : Nat) (path : Path) : Bool :=
  s.tdiOf p != .run ||
    (match path with
     | .vf link q => q == p && link == s.tdiLink p && s.ideSecure link
     | _ => false)

/-! ### Which registers a path reaches -/

/-- Offset off lies in the k-th block of size sz from lo, k below n. -/
def regBlock (lo sz n off : Nat) : Option Nat := if lo ≤ off && off < lo + sz * n then some ((off - lo) / sz) else none

/-- R322, R342, R353, R367, R372, R380, R396, R398, R409, R426, R445, R446: the partition a register belongs to. -/
def State.regPart (s : State) (b : Blk) (off : Nat) : Option Nat :=
  match b with
  | .control => ((regBlock 0 0x40 8 off).or (regBlock 0x200 8 8 off)).bind (fun n => (s.streams[n]?).map Stream.part)
  | .xlat =>
    match regBlock 0x1000 0x100 4 off with
    | some p => some p
    | none => if 0x4000 ≤ off && off < 0x4200 && off % 0x40 < 0x20 then some (off % 0x40 / 8) else none
  | .sec =>
    [regBlock 0 0x100 4 off, regBlock 0x400 0x40 4 off, regBlock 0x800 0x10 4 off, regBlock 0x1000 0x40 4 off, regBlock 0x1400 8 4 off,
      regBlock 0x1600 8 4 off, regBlock 0x8000 0x2000 4 off].findSome? id
  | .hostLink => regBlock 0 0x80 4 off
  | .debug => regBlock 0 0x400 4 off
  | .sensor => (regBlock 0 0x100 8 off).map s.partOf
  | _ => none

/-- R388, R408, R426, R443: the registers a VF maps of its partition: not the save area, the allow-list or the audit queue. -/
def vfMaps (b : Blk) (off : Nat) : Bool :=
  match b with
  | .sec => decide (off < 0x500) || (decide (0x1000 ≤ off) && decide (off < 0x1100))
  | _ => true

/-- R408: the path to a partition's debug block. -/
def State.debugPath (s : State) (p : Nat) (path : Path) : Bool :=
  match path with
  | .owner q => q == p
  | _ =>
    s.tdiOf p == .unlocked &&
      s.dbg.zipIdx.all (fun d => d.2 != p || !d.1.att || (match s.launch? d.1.seq with | some l => l.r.keyh == 0 | none => true))

/-- R446: the registers only the owner session reaches. -/
def ownerOnly (b : Blk) (off : Nat) : Bool :=
  b == .sec && ((regBlock 0x1600 8 4 off).isSome || (regBlock 0x8000 0x2000 4 off).isSome)

/-- R391: the link that a partition's owner session stands on delivers. -/
def State.ownerUp (s : State) (p : Nat) : Bool :=
  (s.ownerSession p).any (fun x => match x.path with | .vf link _ | .pf0 link => !s.sec.ideDead.contains link | _ => true)

/-- R388, R391, R394, R408: a path reaches a register; an access of a launch reaches the translation block alone (R353, log entry 43). -/
def State.reaches (s : State) (path : Path) (b : Blk) (off : Nat) : Bool :=
  let part := s.regPart b off
  let alive := match part with | some p => s.tdiOf p != .error || b == .sensor | none => true
  alive &&
    (match path with
     | .pf0 link => !s.sec.ideDead.contains link && !ownerOnly b off && (b != .debug || (match part with | some p => s.debugPath p path | none => true))
     | .vf link q =>
       s.hasPart q && part == some q && vfMaps b off && !s.sec.ideDead.contains link && (b != .debug || s.debugPath q path)
     | .window => b == .xlat
     | .owner q =>
       part == some q && s.ownerUp q &&
         (b == .debug || ownerOnly b off || (b == .sec && ((regBlock 0x1000 0x40 4 off).isSome || (regBlock 0x1400 8 4 off).isSome))))

/-! ### Locked registers and ERROR (R393, R394) -/

/-- R342, R353, R367, R380, R393, R398, R405, R408, R445: the partition for which a register is locked. -/
def State.lockOf (s : State) (b : Blk) (off : Nat) : Option Nat :=
  match b with
  | .control => (regBlock 0x200 8 8 off).bind (fun n => (s.streams[n]?).map Stream.part)
  | .xlat =>
    match regBlock 0x1000 0x100 4 off with
    | some p => if off % 0x100 = 0 then some p else none
    | none => s.regPart b off
  | .sec => (regBlock 0x800 0x10 4 off).or (regBlock 0x1400 8 4 off)
  | .hostLink => if off % 0x80 = 0 || off % 0x80 = 8 then regBlock 0 0x80 4 off else none
  | .peer => regBlock 0x100 8 4 off
  | .debug => if off % 0x400 = 0 then regBlock 0 0x400 4 off else none
  | _ => none

def State.isLocked (s : State) (p : Nat) : Bool := s.tdiOf p == .locked || s.tdiOf p == .run

/-- The live launches of a partition. -/
def State.liveOf (s : State) (p : Nat) : List Nat :=
  (s.launches.filter (fun l => l.part == p && l.st != .retired)).map Launch.seq

def State.modQueue (s : State) (p : Nat) (f : CinQueue → CinQueue) : State := s.modSec (fun x => { x with queues := modNth x.queues p f })

/-- R394: a TDI enters ERROR: the alarm, the end of the partition's launches, its copy-in queue stopped, its streams closed. -/
def State.enterError (s : State) (p : Nat) : State :=
  let s := s.logAlarm 3 p 1 (some p)
  let s := (s.liveOf p).foldl (fun s seq => s.endLaunch seq 7) s
  let s := s.modQueue p (fun q => { q with stop := true })
  let s := s.modSec (fun x => { x with cins := x.cins.filter (fun c => c.part != p) })
  s.setTdi p .error

/-- R393: an event that turns a locked or running TDI into ERROR. -/
def State.breakTdi (s : State) (p : Nat) : State := if s.isLocked p then s.enterError p else s

/-- R391, R393: every TDI on a link. -/
def State.breakLink (s : State) (link : Nat) : State :=
  (List.range 4).foldl (fun s p => if s.hasPart p && s.tdiLink p = link then s.breakTdi p else s) s

/-- A write through a path to a register: discarded where the path does not reach it, an ERROR where it is locked (R388,
R393, R394); otherwise f. -/
def State.guardWrite (s : State) (path : Path) (b : Blk) (off : Nat) (f : State → State) : State :=
  if !s.reaches path b off then s
  else
    match s.lockOf b off with
    | some p => if s.isLocked p then s.enterError p else f s
    | none => f s

/-! ### Commands with GO and BUSY -/

/-- A register's fields under a mask take the written bits; its others stay (R3). -/
def mergeBits (old v mask : Word) : Word := (old &&& ~~~mask) ||| (v &&& mask)

/-- STAT of a command register, with BUSY clear or set. -/
def State.setStat (s : State) (b : Blk) (off stat : Nat) (busy : Bool) : State :=
  s.setHreg b off (mergeBits (s.hreg b off) (BitVec.ofNat 64 ((if busy then 2 ^ 63 else 0) + stat * 2 ^ 48)) 0x80FF000000000000)

/-- A write to a command register with the argument bits mask: the arguments are stored; GO starts the command, which f
performs, and a GO while BUSY reads 1 only sets STAT to its code for that (R312, R372, R396, R409, R426, R438). -/
def State.command (s : State) (b : Blk) (off : Nat) (mask : Word) (busyStat : Nat) (v : Word) (f : State → State) : State :=
  let r := s.hreg b off
  if !v.getLsbD 63 then s.setHreg b off (mergeBits r v mask)
  else if r.getLsbD 63 then s.setHreg b off (mergeBits r (BitVec.ofNat 64 (busyStat * 2 ^ 48)) 0x00FF000000000000)
  else f (s.setHreg b off (mergeBits r v mask))

/-! ### Plain registers -/

/-- R3: the writable bits of the registers that only hold what is written; 0 for every other offset. -/
def plainMask (b : Blk) (off : Nat) : Word :=
  let ring : Word := 0xFFFFFFFFFFFFF00F
  match b with
  | .control => if (regBlock 0x300 8 8 off).isSome then 0xFF else 0
  | .xlat =>
    if off = 0 then 0x0000FFFFFFFF8000
    else if (regBlock 0x1000 0x100 4 off).isSome then
      (if off % 0x100 = 0 then ring else if off % 0x100 = 0x20 then 0xFFFFFFFFFFFFFFFF else 0)
    else 0
  | .sec =>
    if (regBlock 0 0x100 4 off).isSome then
      (if off % 0x100 = 8 then 0xFFFFFFFFFFFFFFFF else if off % 0x100 = 0x10 then 0x03FF003F else 0)
    else if (regBlock 0x400 0x40 4 off).isSome then
      (if off % 0x40 = 8 || off % 0x40 = 0x10 then 0xFFFFFFFFFFFFFFFF else if off % 0x40 = 0x18 then 0xFFFFFFFF else 0)
    else if (regBlock 0x1000 0x40 4 off).isSome then
      (if off % 0x40 = 8 || off % 0x40 = 0x10 then 0xFFFFFFFFFFFFFFFF else if off % 0x40 = 0x20 then ring
       else if off % 0x40 = 0x30 then 0xFFFFFFFF else 0)
    else if (regBlock 0x1400 8 4 off).isSome && off % 8 = 0 then 0xF
    else 0
  | .hostLink => if (regBlock 0x400 8 4 off).isSome && off % 8 = 0 then 2 else 0
  | .peer =>
    if off = 0 then 0x11F
    else if off % 8 = 0 && off < 0x100 then 0x80000000001F0FFF
    else if (regBlock 0x100 8 4 off).isSome && off % 8 = 0 then 0xFFFFFFFF
    else 0
  | .config => if off % 8 = 0 && off < 0x100 then 0xFFFFFFFFFFFFFFFF else 0
  | .debug =>
    if (regBlock 0 0x400 4 off).isNone || off % 8 != 0 then 0
    else
      let o := off % 0x400
      if o = 0 then 3
      else if o = 0x10 then 3
      else if o = 0x28 then 0xFFFFF1FFCF07FFFF
      else if o = 0x38 then 0xFFFFFFFFFFFFFFFF
      else if o = 0x40 then 0xFFFFFFFFFFFFFFF8
      else if (regBlock 0x80 8 8 o).isSome then 0xFFFFFFFFFFFFFFF9
      else if (regBlock 0xC0 8 4 o).isSome then 0xFFFFFFFFFFFFFFFF
      else if (regBlock 0xE0 8 4 o).isSome then 0xFFFFF000000003F3
      else if (regBlock 0x100 8 4 o).isSome then 0xFFFFFFFFFFFFFFFF
      else if (regBlock 0x120 8 4 o).isSome then 0x00000000FFFF0071
      else if o = 0x140 || o = 0x160 then ring
      else if o = 0x148 then 0xFFFF
      else if o = 0x168 then 0x9F
      else if o = 0x200 then 0x00000007071F0FFF
      else 0
  | .power => if off = 0 then 0xFFFFFFFF else if off = 8 then 0xFFF else if off = 0x10 then 0xFF else 0
  | _ => 0

end Sys2Proof.Machine
end

