-- ==== Sys2Proof/Machine/Pages.lean ====
section
/-! DEFINITION. The host's side of streams and translation: starting a stream (R322, R325), page-fault queues (R356, R357),
invalidations (R353), collapses (R289, R365) and way masks (R367, R368), with their events. -/

namespace Sys2Proof.Machine

open Host (Outcome)

/-! ### SMPC (R322, R325) -/

/-- R325: the context an entry of eight words defines, if it is valid. -/
def State.parseCtx (s : State) (st e part : Nat) (ws : List Word) : Option Ctx :=
  let w (k : Nat) : Word := ws.getD k 0
  let fqb := field (w 2) 63 12 * 2 ^ 12
  let fqn := field (w 2) 3 0
  if !(w 0).getLsbD 0 || field (w 0) 63 2 != 0 || field (w 2) 11 4 != 0 || field (w 3) 5 0 != 0 || field (w 4) 63 13 != 0 ||
      w 5 != 0 || w 6 != 0 || w 7 != 0 || fqn < 6 || 12 < fqn || !s.inPartDram part fqb (64 * 2 ^ fqn) then none
  else
    some { handle := 16 * st + e, part := part, stream := st, signal := (w 0).getLsbD 1, tls := List.replicate 8 (w 1),
           nextNo := List.replicate 8 (w 1 + 1), done := [], fqb := fqb, fqn := fqn, mirr := field (w 3) 63 6 * 2 ^ 6,
           mse := (w 4).getLsbD 12, vec := field (w 4) 11 0, posted := 0 }

/-- R325: the context table is read; live contexts stay. -/
def State.readCtxs (s : State) (st part ctab : Nat) : State :=
  (List.range 16).foldl (fun s e =>
    let ws := (List.range 8).map (fun j => BitVec.ofNat 64 (s.physNat (ctab + 64 * e + 8 * j) 8))
    if (s.ctx? (16 * st + e)).isSome then s
    else match s.parseCtx st e part ws with
      | some c => { s with ctxs := s.ctxs ++ [c] }
      | none => s) s

/-- R322, R436: a stream that is idle or faulted starts, once its context table has been read. -/
def State.startStream (s : State) (st : Nat) (x : Stream) (pc : Word) : State :=
  let ctab := x.ctab.toNat
  let s := s.modStream st (fun x =>
    { x with st := .running, pc := pc, s := Cells.set 0 [] 0 x.arg, tcause := 0, tpc := 0, tval := 0, deps := [], pend := [], flights := [],
             wake := s.clock + 1 })
  if !s.inPartDram x.part ctab 1024 then s.takeTrap (.stream st) { code := cMEMF, sub := 1, tval := x.ctab, tpc := some pc }
  else
    match (List.range 16).find? (fun e => s.badPhys (ctab + 64 * e) 64) with
    | some e => s.takeTrap (.stream st) { code := cMEMF, sub := 0x50, tval := BitVec.ofNat 64 (ctab + 64 * e), tpc := some pc }
    | none => s.readCtxs st x.part ctab

/-- R322: a write to SMPC. -/
def State.writeSmpc (s : State) (st : Nat) (v : Word) (path : Path) : State :=
  match s.streams[st]? with
  | none => s
  | some x =>
    s.guardWrite path .control (0x40 * st) (fun s =>
      if !s.doorOpen x.part path then s
      else
        match x.st with
        | .idle | .faulted => s.startStream st x (BitVec.ofNat 64 (field v 63 3 * 8))
        | .running | .waiting .. => s.modStream st (fun x => { x with drop := true }))

/-- R322, SMPC_WRITE. -/
def execSmpcWrite (st : Nat) (v : BitVec 64) (path : Path) (s : State) : Outcome State Fault Refusal := .next (s.writeSmpc st v path)

/-! ### Page-fault queues (R356, R357) -/

/-- Records that were held are posted while there is room. -/
def State.postHeld (s : State) (p : Nat) : State := s.postPages p s.pfHeld.length

/-- R356: a write to PFQH. -/
def State.writePfqh (s : State) (p : Nat) (v : Word) (path : Path) : State :=
  let off := 0x1010 + 0x100 * p
  s.guardWrite path .xlat off (fun s => (s.setHreg .xlat off v).postHeld p)

/-- R356, PFQH_WRITE. -/
def execPfqhWrite (p : Nat) (v : BitVec 64) (path : Path) (s : State) : Outcome State Fault Refusal := .next (s.writePfqh p v path)

/-- R356: the faults a team held beyond its 64 pages are posted while it has room. -/
def State.postBeyond (s : State) (tid : Nat) : Nat → State
  | 0 => s
  | fuel + 1 =>
    match s.team? tid with
    | none => s
    | some t =>
      match t.faults, s.launch? t.seq with
      | f :: rest, some l =>
        if t.pages.length < 64 then
          ((s.modTeam tid (fun t => { t with faults := rest })).missPage tid l f).postBeyond tid fuel
        else s
      | _, _ => s

/-- R357: a page of an address space is serviced for one team. -/
def State.serviced (s : State) (t : Team) (page : Nat × Nat) : State :=
  if t.pages.contains page then
    let s := s.modTeam t.id (fun t =>
      { t with pages := t.pages.filter (fun y => y != page),
               xfers := t.xfers.map (fun x => { x with waiting := x.waiting.filter (fun y => y != page.2) }) })
    s.postBeyond t.id t.faults.length
  else s

/-- R357: a write to PGDONE. -/
def State.writePgdone (s : State) (p : Nat) (v : Word) (path : Path) : State :=
  s.guardWrite path .xlat (0x1018 + 0x100 * p) (fun s =>
    (s.teams.filter (fun t => match s.launch? t.seq with | some l => l.part == p | none => false)).foldl
      (fun s t => s.serviced t (field v 11 0, field v 63 12)) s)

/-- R357, PGDONE. -/
def execPgdone (p : Nat) (v : BitVec 64) (path : Path) (s : State) : Outcome State Fault Refusal := .next (s.writePgdone p v path)

/-! ### Invalidations (R353) -/

/-- R353: a write to TINVS. -/
def State.writeTinvs (s : State) (p : Nat) (v : Word) (path : Path) : State :=
  let off := 0x1028 + 0x100 * p
  s.guardWrite path .xlat off (fun s =>
    let r := s.hreg .xlat off
    if !v.getLsbD 63 then s.setHreg .xlat off (mergeBits r v 0x7F)
    else if r.getLsbD 63 then s.setHreg .xlat off (r ||| 0x4000000000000000)
    else
      let a := s.hreg .xlat (0x1020 + 0x100 * p)
      let va := field a 63 12 * 2 ^ 12
      let size := field v 5 0
      if !v.getLsbD 6 && (size < 12 || 57 < size || !aligned va (2 ^ size)) then
        s.setHreg .xlat off ((v &&& 0x7F) ||| 0x4000000000000000)
      else
        let s := s.setHreg .xlat off ((v &&& 0x7F) ||| 0x8000000000000000)
        { s with invals := s.invals ++ [⟨p, field a 11 0, va, size, v.getLsbD 6, s.clock + us⟩] })

/-- R353, TLB_INVALIDATE. -/
def execTlbInvalidate (p : Nat) (v : BitVec 64) (path : Path) (s : State) : Outcome State Fault Refusal := .next (s.writeTinvs p v path)

/-- R343, R353: n bytes at an address meet a range [lo, hi): the bits that a walk translates decide. -/
def vaMeets (lo hi va n : Nat) : Bool := decide (va % 2 ^ 57 < lo % 2 ^ 57 + (hi - lo)) && decide (lo % 2 ^ 57 < va % 2 ^ 57 + n)

/-- R177, R353: a live queue goes on in the frames that its pages have from now on; a page that has none keeps its own (log entry 60). -/
def State.remapQueue (s : State) (p : Nat) (q : Queue) : State :=
  let slot := ((s.launch? q.seq).map Launch.slot).getD 0
  (List.range q.frames.length).foldl (fun s j =>
    match s.translate ⟨q.asid, p, slot, homeDie (q.place 0).1, none⟩ (BitVec.ofNat 64 ((q.va / 4096 + j) * 4096)) .write with
    | (s, .ok t) => { s with queues := s.queues.map (fun y => if y.asid = q.asid && y.va = q.va then { y with frames := y.frames.set j (t.pa, t.key) } else y) }
    | (_, .error _) => s) s

/-- R353, R365: the lines, replicas and translations of a range of an address space are dropped on a partition's dies and in the
control core; a replicated page that it meets collapses, and a live queue is translated again. -/
def State.invalidate (s : State) (p asid lo hi : Nat) : State :=
  let here (d : Nat) : Bool := decide (8 ≤ d) || s.partOf d == p
  let meets (a va n : Nat) : Bool := a == asid && vaMeets lo hi va n
  let gone := s.replicas.filter (fun r => here r.home && meets r.asid r.base (2 ^ r.sizeLog))
  let s := s.dropSlices (fun x => (here x.die && meets x.asid x.va 64) || (x.replica && gone.any (fun r => r.covers x.asid x.va)))
  let s : State := { s with
    l1 := s.l1.filter (fun x => !(here (x.core / 64) && meets x.asid x.va 64))
    replicas := s.replicas.filter (fun r => !gone.contains r)
    tlb := s.tlb.filter (fun t => !(here t.die && meets t.asid t.va (2 ^ t.sizeLog)))
    walks := s.walks.filter (fun w => !(here w.die && w.asid == asid)) }
  (s.queues.filter (fun q => meets q.asid (q.va / 4096 * 4096) (4096 * q.frames.length))).foldl (fun s q => s.remapQueue p q) s

/-- The range of an invalidation. -/
def Inval.range (i : Inval) : Nat × Nat := if i.whole then (0, 2 ^ 64) else (i.va, i.va + 2 ^ i.sizeLog)

/-- R353, R400, R427: every access of a partition that was translated in a range of an address space has been performed. -/
def State.rangeQuiet (s : State) (part asid lo hi : Nat) : Bool :=
  s.homeOps.all (fun q => q.loc.asid != asid || !vaMeets lo hi q.loc.va q.n) &&
    (match s.sec.queues[part]? with
     | some q => q.descs.all (fun d => d.locs.all (fun c => c.1.asid != asid || !vaMeets lo hi c.1.va c.2))
     | none => true)

/-- R353: every access that uses a dropped translation has been performed. -/
def State.invalReady (s : State) (i : Inval) : Bool :=
  decide (i.due ≤ s.clock) && s.rangeQuiet i.part i.asid i.range.1 i.range.2

/-- R353, INVALIDATION_COMPLETE: the invalidation of a partition ends and BUSY reads 0. -/
def execInvalidationComplete (p : Nat) (s : State) : Outcome State Fault Refusal :=
  match s.invals.find? (fun i => i.part == p) with
  | none => .next s
  | some i =>
    if s.invalReady i then
      let s := s.invalidate p i.asid i.range.1 i.range.2
      let off := 0x1028 + 0x100 * p
      .next { s.setHreg .xlat off (s.hreg .xlat off &&& 0x7FFFFFFFFFFFFFFF) with invals := s.invals.erase i }
    else .next s

/-! ### Collapses (R289, R365) -/

/-- R365, REPLICA_INVALIDATION: a die has invalidated its replicas of a page that collapses. -/
def execReplicaInvalidation (k die : Nat) (s : State) : Outcome State Fault Refusal :=
  let s := (s.replicas.filter (fun r => r.id == k && r.collapse)).foldl (fun s r => s.dropReplica r die) s
  .next { s with replicas := s.replicas.map (fun r =>
    if r.id = k && r.collapse then { r with acks := r.acks.filter (fun d => d != die) } else r) }

/-- R289, R365, COLLAPSE_COMPLETE: every die has acknowledged; the entry is freed, and the writes that waited go on. -/
def execCollapseComplete (k : Nat) (s : State) : Outcome State Fault Refusal :=
  .next { s with replicas := s.replicas.filter (fun r => !(r.id == k && r.collapse && r.acks.isEmpty)) }

/-! ### Way masks (R367, R368) -/

/-- R368: a write to a way mask. One that removes ways takes effect once their words are written back. -/
def State.writeWays (s : State) (die i : Nat) (v : Word) (path : Path) : State :=
  if 8 ≤ die || 5 ≤ i then s
  else
    let off := 0x4000 + 0x40 * die + 8 * i
    s.guardWrite path .xlat off (fun s =>
      let r := s.hreg .xlat off
      let m := v &&& 0xFFFF
      if r.getLsbD 63 then s
      else if r &&& ~~~m = 0 then s.setHreg .xlat off m
      else { s.setHreg .xlat off (r ||| 0x8000000000000000) with wayChanges := s.wayChanges ++ [(die, i, m.toNat)] })

/-- R368, WAY_MASK_WRITE. -/
def execWayMaskWrite (die i : Nat) (v : BitVec 64) (path : Path) (s : State) : Outcome State Fault Refusal := .next (s.writeWays die i v path)

/-- R368, WAY_MASK_CHANGE_COMPLETE: the index's lines in the removed ways are written back and invalidated. -/
def execWayMaskChangeComplete (die i : Nat) (s : State) : Outcome State Fault Refusal :=
  match s.wayChanges.find? (fun c => c.1 == die && c.2.1 == i) with
  | none => .next s
  | some c =>
    let s := s.dropSlices (fun x => x.die == die && x.index == i && !bit c.2.2 x.way)
    .next { s.setHreg .xlat (0x4000 + 0x40 * die + 8 * i) (BitVec.ofNat 64 c.2.2) with wayChanges := s.wayChanges.erase c }

end Sys2Proof.Machine
end

