-- ==== Sys2Proof/Machine/Keys.lean ====
section
/-! DEFINITION. The security unit's commands for keys, scrubs and copy-in streams (R370-R372, R378, R395-R397), with their
events. -/

namespace Sys2Proof.Machine

open Host (Outcome)

/-! ### Wrapped keys (R395) -/

def State.modSession (s : State) (p : Nat) (f : Session → Session) : State :=
  s.modSec (fun x => { x with sessions := x.sessions.map (fun y => if y.owner = some p && y.done then f y else y) })

/-- R395: the 64 bytes a wrapped form holds for a command's kind, and the state in which its SEQ is recorded. -/
def State.unwrap (s : State) (p kind : Nat) (addr : Word) : Option (List Byte × State) :=
  match s.ownerSession p with
  | none => none
  | some o =>
    let a := addr.toNat
    let form := s.readPhys 0 a 128
    let seq := leNat ((form.drop 8).take 8)
    let key := kdf (drawnKey o.key 32) (asciiOf "KY9-WRAP") [p]
    let iv := List.replicate 4 0 ++ natsOf (beBytes 8 seq)
    let ct := natsOf ((form.drop 0x10).take 64)
    if !aligned a 64 || !s.inPartDram p a 128 || s.badPhys a 128 then none
    else if leNat (form.take 8) != 0x4B593957 * 2 ^ 32 + 2 ^ 16 + kind * 2 ^ 8 + p || (form.drop 0x60).any (fun b => b != 0) then none
    else if (match o.lastSeq with | some l => decide (seq ≤ l) | none => false) then none
    else if bytesOf (gcmTag key iv (natsOf (form.take 16)) ct) != (form.drop 0x50).take 16 then none
    else some (bytesOf (gcmCrypt key iv ct), s.modSession p (fun x => { x with lastSeq := some seq }))

/-! ### Key commands (R370-R372) -/

/-- R370: the lowest slot that can take a key. -/
def State.freeSlotOf (s : State) : Option Nat :=
  ((List.range 1023).map (· + 1)).find? (fun n => (s.keySlot n).st == .free && decide ((s.keySlot n).gen < 2 ^ 20))

/-- R372: a key goes into a slot, and its handle to KRES. -/
def State.bindSlot (s : State) (p n : Nat) (raw : List Byte) : State :=
  let s := (s.leaveSlot n).setSlot n ⟨.live, p, (s.keySlot n).gen, s.sec.drawn, raw⟩
  let s := s.modSec (fun x => { x with drawn := x.drawn + 1 })
  (s.setHreg .sec (0x100 * p + 0x18) (s.handleOf n)).setStat .sec (0x100 * p) 0 false

/-- R372: CREATE. -/
def State.createKey (s : State) (p : Nat) : State :=
  match s.freeSlotOf with
  | none => s.setStat .sec (0x100 * p) 1 false
  | some n => s.bindSlot p n []

/-- R372: IMPORT. -/
def State.importKey (s : State) (p : Nat) : State :=
  match s.freeSlotOf with
  | none => s.setStat .sec (0x100 * p) 1 false
  | some n =>
    match s.unwrap p 0 (s.hreg .sec (0x100 * p + 8)) with
    | none => s.setStat .sec (0x100 * p) 4 false
    | some (raw, s) => s.bindSlot p n raw

/-- R370, R372: RETIRE. -/
def State.retireKey (s : State) (p : Nat) : State :=
  let h := s.hreg .sec (0x100 * p + 8)
  if s.handleNames p h then (s.retireSlot (field h 29 20)).setStat .sec (0x100 * p) 0 false
  else s.setStat .sec (0x100 * p) 2 false

/-- Frames [a, a + n) and [b, b + m) overlap. -/
def framesMeet (a n b m : Nat) : Bool := decide (a < b + m) && decide (b < a + n)

/-- R378: SCRUB begins: the frames are pending, and the translations that reach them are dropped. -/
def State.beginScrub (s : State) (p : Nat) : State :=
  let base := (s.hreg .sec (0x100 * p + 8)).toNat
  let arg := s.hreg .sec (0x100 * p + 0x10)
  let size := field arg 5 0
  let slot := field arg 25 16
  let n := 2 ^ size
  let inArea := match s.saveArea p with | some a => framesMeet base n a.1 a.2 | none => false
  let slotBad := slot != 0 && !((s.keySlot slot).st == .live && (s.keySlot slot).part == p)
  if size < 12 || 36 < size || !aligned base n || slotBad || !s.inPartDram p base n || inArea then s.setStat .sec (0x100 * p) 2 false
  else
    let s := s.modSec (fun x => { x with scrubs := x.scrubs ++ [⟨p, slot, base, size, s.clock + 2700 + 206 * (n / 4096 - 1)⟩] })
    let s : State := { s with
      tlb := s.tlb.filter (fun t => Word.peer t.leaf != 0 || !framesMeet (Word.addr t.leaf) (2 ^ t.sizeLog) base n)
      walks := s.walks.filter (fun w => !framesMeet (Word.addr w.entry) 4096 base n && !framesMeet w.pa 8 base n) }
    s.setStat .sec (0x100 * p) 0 true

/-- R372, R393, R449: a write to KCMD. -/
def State.writeKcmd (s : State) (p : Nat) (v : Word) (path : Path) : State :=
  let off := 0x100 * p
  s.guardWrite path .sec off (fun s =>
    if !s.doorOpen p path && !v.getLsbD 63 then s
    else
      s.command .sec off 0xF 3 v (fun s =>
        if s.sec.erased || !s.doorOpen p path then s.setStat .sec off 2 false
        else
          match field v 3 0 with
          | 1 => s.createKey p
          | 2 => s.importKey p
          | 3 => s.retireKey p
          | 4 => s.beginScrub p
          | _ => s.setStat .sec off 5 false))

/-- A GO write of an operation. -/
def goWord (op : Nat) : Word := BitVec.ofNat 64 (2 ^ 63 + op)

/-- R372, KEY_CREATE. -/
def execKeyCreate (p : Nat) (path : Path) (s : State) : Outcome State Fault Refusal := .next (s.writeKcmd p (goWord 1) path)

/-- R372, KEY_IMPORT. -/
def execKeyImport (p : Nat) (path : Path) (s : State) : Outcome State Fault Refusal := .next (s.writeKcmd p (goWord 2) path)

/-- R370, KEY_RETIRE. -/
def execKeyRetire (p : Nat) (path : Path) (s : State) : Outcome State Fault Refusal := .next (s.writeKcmd p (goWord 3) path)

/-- R378, SCRUB. -/
def execScrub (p : Nat) (path : Path) (s : State) : Outcome State Fault Refusal := .next (s.writeKcmd p (goWord 4) path)

/-! ### The end of a scrub (R378) -/

/-- R378, R404: every access through a dropped translation has been performed. -/
def State.scrubReady (s : State) (x : Scrub) : Bool :=
  let n := 2 ^ x.sizeLog
  decide (x.due ≤ s.clock) && s.homeOps.all (fun q => q.loc.peer != 0 || !framesMeet q.loc.pa q.n x.base n) &&
    s.sec.queues.all (fun q => q.descs.all (fun d => d.locs.all (fun c => c.1.peer != 0 || !framesMeet c.1.pa c.2 x.base n)))

/-- R376, R378, R436: a range reads zero under a slot, with no line of it cached or bad. -/
def State.zeroFrames (s : State) (slot base n : Nat) : State :=
  let out {α : Type} (unit : Nat) (e : Nat × α) : Bool := decide (e.1 * unit < base) || decide (base + n ≤ e.1 * unit)
  let s := s.dropSlices (fun l => Word.peer l.leaf == 0 && decide (base ≤ l.pa) && decide (l.pa < base + n))
  { s with
    mem := s.mem.filter (out 1)
    slotOf := Cells.splice 0 s.slotOf (base / 64) (List.replicate (n / 64) slot)
    poisoned := s.poisoned.filter (out 64)
    l1 := s.l1.filter (fun l => decide (l.pa < base) || decide (base + n ≤ l.pa)) }

/-- R378, SCRUB_COMPLETE. -/
def execScrubComplete (p : Nat) (s : State) : Outcome State Fault Refusal :=
  match s.sec.scrubs.find? (fun x => x.part == p) with
  | none => .next s
  | some x =>
    if s.scrubReady x then
      .next (((s.zeroFrames x.slot x.base (2 ^ x.sizeLog)).modSec (fun y => { y with scrubs := y.scrubs.erase x })).setStat .sec (0x100 * p) 0 false)
    else .next s

/-! ### Copy-in streams (R396, R397) -/

def State.cin? (s : State) (p sid : Nat) : Option CinStream := s.sec.cins.find? (fun c => c.part == p && c.sid == sid)

/-- R396: OPEN. -/
def State.openStream (s : State) (p : Nat) : State :=
  let off := 0x400 + 0x40 * p
  let h := s.hreg .sec (off + 0x10)
  let sid := field (s.hreg .sec (off + 0x18)) 31 0
  if sid = 0 || (s.cin? p sid).isSome || !s.handleOk p h then s.setStat .sec off 2 false
  else if 64 ≤ (s.sec.cins.filter (fun c => c.part == p)).length then s.setStat .sec off 1 false
  else
    match s.unwrap p 1 (s.hreg .sec (off + 8)) with
    | none => s.setStat .sec off 4 false
    | some (raw, s) =>
      let n := field h 29 20
      (s.modSec (fun x => { x with cins := x.cins ++ [⟨p, sid, n, (s.keySlot n).gen, 0, raw.take 32⟩] })).setStat .sec off 0 false

/-- R396: CLOSE and QUERY of an open stream. -/
def State.withStream (s : State) (p : Nat) (f : State → CinStream → State) : State :=
  let off := 0x400 + 0x40 * p
  match s.cin? p (field (s.hreg .sec (off + 0x18)) 31 0) with
  | none => s.setStat .sec off 2 false
  | some c => (f s c).setStat .sec off 0 false

/-- R393, R396, R449: a write to SCMD. -/
def State.writeScmd (s : State) (p : Nat) (v : Word) (path : Path) : State :=
  let off := 0x400 + 0x40 * p
  s.guardWrite path .sec off (fun s =>
    if !s.doorOpen p path && !v.getLsbD 63 then s
    else
      s.command .sec off 0xF 3 v (fun s =>
        if s.sec.erased || !s.doorOpen p path then s.setStat .sec off 2 false
        else
          match field v 3 0 with
          | 1 => s.openStream p
          | 2 => s.withStream p (fun s c => s.modSec (fun x => { x with cins := x.cins.filter (fun y => y != c) }))
          | 3 => s.withStream p (fun s c => s.setHreg .sec (off + 0x20) (BitVec.ofNat 64 c.last))
          | _ => s.setStat .sec off 5 false))

/-- R396, STREAM_OPEN. -/
def execStreamOpen (p : Nat) (path : Path) (s : State) : Outcome State Fault Refusal := .next (s.writeScmd p (goWord 1) path)

/-- R396, STREAM_CLOSE. -/
def execStreamClose (p : Nat) (path : Path) (s : State) : Outcome State Fault Refusal := .next (s.writeScmd p (goWord 2) path)

/-- R396, STREAM_QUERY. -/
def execStreamQuery (p : Nat) (path : Path) (s : State) : Outcome State Fault Refusal := .next (s.writeScmd p (goWord 3) path)

end Sys2Proof.Machine
end

