-- ==== Sys2Proof/Machine/CopyIn.lean ====
section
/-! DEFINITION. The copy-in queues (R398-R404): HQBASE, HQCFG and HQTAIL, the fetch of a descriptor, its checks in order,
and its completion. -/

namespace Sys2Proof.Machine

open Host (Outcome)

/-! ### The queue's registers (R398) -/

def CinQueue.enabled (q : CinQueue) : Bool := q.cfg.getLsbD 63

/-- R398: log2 of the ring's size. -/
def CinQueue.log (q : CinQueue) : Nat := field q.base 3 0

/-- R398: a write to HQBASE. -/
def State.writeHqbase (s : State) (p : Nat) (v : Word) (path : Path) : State :=
  s.guardWrite path .hostLink (0x80 * p) (fun s =>
    s.modQueue p (fun q => if q.enabled then q else { q with base := v &&& 0xFFFFFFFFFFFFF00F }))

/-- R398: a write to HQCFG. -/
def State.writeHqcfg (s : State) (p : Nat) (v : Word) (path : Path) : State :=
  s.guardWrite path .hostLink (0x80 * p + 8) (fun s =>
    s.modQueue p (fun q =>
      if q.enabled then
        (if v.getLsbD 63 then q
         else { q with cfg := q.cfg &&& 0x7FFFFFFFFFFFFFFF, descs := (q.descs.filter (fun d => !d.done)).map (fun d => { d with old := true }) })
      else
        let q := { q with cfg := v &&& 0x800000000FFFFFFF }
        if v.getLsbD 63 then { q with head := 0, tail := 0, fetch := 0, why := 0, stop := false } else q))

/-- R398, HQCFG_WRITE. -/
def execHqcfgWrite (p : Nat) (v : BitVec 64) (path : Path) (s : State) : Outcome State Fault Refusal := .next (s.writeHqcfg p v path)

def CinQueue.halt (q : CinQueue) (why : Nat) : CinQueue := { q with stop := true, why := why }

/-- R393, R398: a write to HQTAIL. -/
def State.writeHqtail (s : State) (p : Nat) (v : Word) (path : Path) : State :=
  s.guardWrite path .hostLink (0x80 * p + 0x10) (fun s =>
    if !s.doorOpen p path then s
    else
      s.modQueue p (fun q =>
        let r := { q with tail := v.toNat }
        if !q.enabled || q.stop then r
        else if v.toNat < q.tail || q.head + 2 ^ q.log < v.toNat then r.halt 1
        else r))

/-- R398, HQTAIL_WRITE. -/
def execHqtailWrite (p : Nat) (v : BitVec 64) (path : Path) (s : State) : Outcome State Fault Refusal := .next (s.writeHqtail p v path)

/-! ### Descriptors (R399) -/

/-- Word k of a descriptor. -/
def CinDesc.word (d : CinDesc) (k : Nat) : Nat := leNat ((d.raw.drop (8 * k)).take 8)

def CinDesc.src (d : CinDesc) : Nat := d.word 0
def CinDesc.dst (d : CinDesc) : Nat := d.word 1
def CinDesc.len (d : CinDesc) : Nat := d.word 2 % 2 ^ 32
def CinDesc.enc (d : CinDesc) : Bool := bit (d.word 2) 32
def CinDesc.sid (d : CinDesc) : Nat := d.word 3
def CinDesc.ctr (d : CinDesc) : Nat := d.word 4

/-- R400 check 1. -/
def CinDesc.badFormat (d : CinDesc) : Bool :=
  decide (2 ^ 33 ≤ d.word 2) || decide (2 ^ 32 ≤ d.word 3) || d.word 5 != 0 || !aligned d.len 64 || d.len == 0 || decide (65536 < d.len) ||
    !aligned d.src 64 || !aligned d.dst 64 || (!d.enc && (d.sid != 0 || d.ctr != 0))

/-- R401: the record of a descriptor as the stream's key opens it: the plaintext, or none when the tag fails. -/
def CinDesc.opened (d : CinDesc) (m : Memory) (key : List Byte) : Option (List Byte) :=
  let k := natsOf key
  let iv := natsOf (beBytes 4 d.sid ++ beBytes 8 d.ctr)
  let ct := natsOf (hostRead m d.src d.len)
  if bytesOf (gcmTag k iv (natsOf ((d.raw.drop 8).take 0x20)) ct) = hostRead m (d.src + d.len) 16 then some (bytesOf (gcmCrypt k iv ct))
  else none

/-- The units of a source that the host gave before an error. -/
def errUnits : HostErr → Nat
  | .src n => n
  | _ => 0

def errFails : HostErr → Bool
  | .src _ => true
  | _ => false

/-- R400 checks 5 to 7 and R402 of a descriptor whose destination is good: status and bytes to write. -/
def State.takeRecord (s : State) (p : Nat) (d : CinDesc) (c : Option CinStream) : State × Nat × List Byte :=
  let data := hostRead s.hostMem d.src d.len
  match c with
  | none => if errFails d.err then (s, 7, data.take (64 * errUnits d.err)) else (s, 0, data)
  | some c =>
    if d.ctr ≤ c.last then (s.logAlarm 2 d.sid 1 (some p), 2, [])
    else if errFails d.err then (s, 7, [])
    else
      match d.opened s.hostMem c.key with
      | none => (s.logAlarm 2 d.sid 1 (some p), 1, List.replicate d.len 0)
      | some bs =>
        (s.modSec (fun x => { x with cins := x.cins.map (fun y => if y = c then { y with last := d.ctr } else y) }), 0, bs)

/-- R400: the status, destination and bytes of a descriptor, its checks made in order. -/
def State.checked (s : State) (p asid : Nat) (d : CinDesc) : State × Nat × List (Loc × Nat) × List Byte :=
  let c := if d.enc then s.cin? p d.sid else none
  if d.badFormat then (s, 5, [], [])
  else if d.enc && c.isNone then (s, 4, [], [])
  else
    let r := State.reachPieces ⟨asid, p, anySlot, 8, none⟩ .write false s (rangePieces (BitVec.ofNat 64 d.dst) d.len)
    let keys := r.2.1.map (fun x => x.1.key)
    let own := match c with
      | some c => keys.all (fun k => k == c.slot) && (r.1.keySlot c.slot).gen == c.gen
      | none => keys.all (fun k => k == 0)
    if !r.2.2.isEmpty || r.2.1.any (fun x => x.1.mt == 2) then (r.1, 6, [], [])
    else if !own then (r.1, 3, [], [])
    else
      let q := r.1.takeRecord p d c
      (q.1, q.2.1, if q.2.2.isEmpty then [] else r.2.1.map (fun x => (x.1, x.2.1)), q.2.2)

/-- R400: two entries name one fetched descriptor: the tl5 number of a context is taken once. -/
def CinDesc.same (d e : CinDesc) : Bool := d.ctx == e.ctx && d.num == e.num

/-- A change of one fetched descriptor. -/
def State.modDesc (s : State) (p : Nat) (d : CinDesc) (f : CinDesc → CinDesc) : State :=
  s.modQueue p (fun q => { q with descs := q.descs.map (fun e => if e.same d then f e else e) })

/-- R293, R403: the units in which a descriptor's bytes are written at the places of its destination. -/
def locUnits : List (Loc × Nat) → List Byte → List (Loc × List Byte)
  | [], _ => []
  | c :: cs, bs =>
    let own := bs.take c.2
    (unitsOf c.1.va own.length 0 own.length).map (fun u =>
      ({ c.1 with va := c.1.va + u.1, pa := c.1.pa + u.1 }, (own.drop u.1).take u.2)) ++ locUnits cs (bs.drop c.2)

/-- R400, R403, R424: a descriptor's checks are made; its writes typically register 1.6 µs later. -/
def State.checkDesc (s : State) (p asid : Nat) (d : CinDesc) : State :=
  let r := s.checked p asid d
  (r.1.countAt 6 0 (s.tdiLink p) p d.len).modDesc p d (fun d => { d with status := some r.2.1, locs := r.2.2.1, units := locUnits r.2.2.1 r.2.2.2, due := s.clock + 2880 })

/-! ### Fetching (R398, R400, R414) -/

/-- R398: CTX names a launch context of the partition. -/
def State.cinCtx (s : State) (p h : Nat) : Bool :=
  match s.ctx? h with
  | some c => !c.signal && c.part == p
  | none => false

/-- R391, R398, R400: the queue may fetch its next descriptor, over a link that delivers. -/
def State.mayFetch (s : State) (p : Nat) (q : CinQueue) : Bool :=
  !s.sec.ideDead.contains (s.tdiLink p) && q.enabled && !q.stop && decide (q.fetch < q.tail) && decide ((q.descs.filter (fun d => !d.done)).length < 4) &&
    q.descs.all (fun d => d.status.isSome || d.old)

/-- R419: the trace record of a descriptor's acceptance, for an attached launch of its context. -/
def State.traceFetch (s : State) (p ctx : Nat) (num : Word) : State :=
  match (s.dbg[p]?).bind (fun d => s.launch? d.seq) with
  | some l => if l.r.ctx = ctx then s.trace l 8 8 0xFF 0xFF 0xFFFF 5 0 num else s
  | none => s

/-- R400: the next descriptor is fetched; it takes its number, and its checks are made unless a breakpoint holds it. -/
def State.fetchDesc (s : State) (p : Nat) (q : CinQueue) (err : HostErr) : State :=
  let ctx := field q.cfg 15 0
  if !s.cinCtx p ctx then s.modQueue p (fun q => q.halt 3)
  else if err = .desc then s.modQueue p (fun q => q.halt 2)
  else
    let num := s.nextNumber ctx 5
    let at_ := field q.base 63 12 * 2 ^ 12 + 64 * (q.fetch % 2 ^ q.log)
    let d : CinDesc :=
      { k := q.fetch, ring := at_, num := num, ctx := ctx, raw := hostRead s.hostMem at_ 64, err := err, status := none, locs := [],
        units := [], due := s.clock, done := false, old := false }
    let s := (s.traceFetch p ctx num).takeNumber ctx 5 |>.modQueue p (fun q => { q with fetch := q.fetch + 1, descs := q.descs ++ [d] })
    match s.ecb p ctx 5 num with
    | some _ => s.holdCommand p ctx 5 num
    | none => s.checkDesc p (field q.cfg 27 16) d

/-- R400, DESCRIPTOR_FETCH. -/
def execDescriptorFetch (p : Nat) (err : HostErr) (s : State) : Outcome State Fault Refusal :=
  match s.sec.queues[p]? with
  | some q => if s.mayFetch p q then .next (s.fetchDesc p q err) else .next s
  | none => .next s

/-! ### Completion (R403) -/

/-- R403, R407: one unit of a descriptor's bytes registers, unless no link to its peer is left. -/
def State.cinPut (s : State) (p : Nat) (d : CinDesc) (u : Loc × List Byte) : State :=
  if u.1.peer != 0 && !s.peerOk u.1.peer then s
  else
    let s := (s.writeHome u.1 u.2).modDesc p d (fun e => { e with units := e.units.erase u })
    if u.1.peer = 0 then s.countDram p u.1.pa u.2.length else s.countAt 5 0 (s.peerRoute u.1.peer u.1.pa) p u.2.length

/-- R292, R293: the units that earlier descriptors of the same context still have to write at the place of one. -/
def State.cinBefore (s : State) (p : Nat) (d : CinDesc) (u : Loc × List Byte) : List (CinDesc × Loc × List Byte) :=
  match s.sec.queues[p]? with
  | none => []
  | some q =>
    (q.descs.filter (fun e => e.ctx == d.ctx && decide (e.num.toNat < d.num.toNat))).flatMap (fun e =>
      (e.units.filter (fun v => v.1.asid == u.1.asid && overlaps v.1.va v.2.length u.1.va u.2.length)).map (fun v => (e, v)))

/-- R293, R403: one unit of a descriptor's bytes registers, after those of earlier descriptors at its place. -/
def State.cinUnit (s : State) (p : Nat) (d : CinDesc) (u : Loc × List Byte) : State :=
  ((s.cinBefore p d u).foldl (fun s v => s.cinPut p v.1 v.2) s).cinPut p d u

/-- R407: a unit of the descriptor finds no link to its peer left. -/
def State.cinLost (s : State) (d : CinDesc) : Bool := d.units.any (fun u => u.1.peer != 0 && !s.peerOk u.1.peer)

/-- R403: HEAD passes every descriptor that is complete with all before it. -/
def CinQueue.advance : Nat → CinQueue → CinQueue
  | 0, q => q
  | fuel + 1, q =>
    match q.descs.find? (fun d => d.k == q.head && !d.old) with
    | some d => if d.done then CinQueue.advance fuel { q with head := q.head + 1, descs := q.descs.filter (fun e => e != d) } else q
    | none => q

/-- R403, R407: what is left of a descriptor's writes registers and it completes: status, HEAD, tl5. One that cannot reach its peer completes
with XLATE (log entry 59). -/
def State.finishDesc (s : State) (p : Nat) (d : CinDesc) (st0 : Nat) : State :=
  let st := if s.cinLost d then 6 else st0
  let s := d.units.foldl (fun s u => s.cinUnit p d u) s
  let s : State := { s with hostMem := hostWrite s.hostMem (d.ring + 0x30) (leBytes 8 st ++ leBytes 8 d.num.toNat) }
  let s := s.modQueue p (fun q =>
    if d.old then { q with descs := q.descs.filter (fun e => !e.same d) }
    else CinQueue.advance 64 { q with descs := q.descs.map (fun e => if e.same d then { e with done := true, units := [] } else e) })
  s.completeNumber d.ctx 5 d.num

/-- R289: a destination page has replicas that must collapse first. -/
def State.cinReplicas (s : State) (d : CinDesc) : Bool := d.locs.any (fun c => (s.replica? c.1.asid c.1.va).isSome)

/-- R414: the descriptor is held by a breakpoint. -/
def State.cinHeld (s : State) (p : Nat) (d : CinDesc) : Bool := s.heldBy p d.ctx 5 d.num

/-- R293, R403: before they complete, the descriptors of a queue write any of their units, in any order. -/
def State.cinSome (s : State) (p : Nat) (q : CinQueue) : State :=
  q.descs.foldl (fun s d =>
    if d.done || s.cinReplicas d then s
    else (s.movesNow (2 ^ 101 + d.ctx * 2 ^ 64 + d.num.toNat) d.units).foldl (fun s u => s.cinUnit p d u) s) s

/-- R403, DESCRIPTOR_COMPLETE. -/
def execDescriptorComplete (p k : Nat) (s : State) : Outcome State Fault Refusal :=
  match s.sec.queues[p]? with
  | none => .next s
  | some q =>
    match q.descs.find? (fun d => d.k == k && !d.done) with
    | none => .next s
    | some d =>
      match d.status with
      | none => if s.cinHeld p d then .next s else .next (s.checkDesc p (field q.cfg 27 16) d)
      | some st =>
        if s.clock < d.due then .next s
        else if s.cinReplicas d then .next (d.locs.foldl (fun s c => s.collapseAt c.1.asid c.1.va) s)
        else .next (s.finishDesc p d st)

end Sys2Proof.Machine
end

