-- ==== Sys2Proof/Machine/Regions.lean ====
section
/-! DEFINITION. The commands of metered regions (R426, R427, R433, R445) and the periodic commits (R431), with their events. -/

namespace Sys2Proof.Machine

open Host (Outcome)

/-! ### Withheld readings (R445, R446) -/

/-- R446: the PATH of an audit record. -/
def pathCode : Path → Nat
  | .pf0 _ => 0
  | .vf _ q => q + 1
  | .owner _ => 5
  | .window => 0

/-- R445: partition p's allow-list. -/
def State.allow (s : State) (p : Nat) : Word := s.hreg .sec (0x1400 + 8 * p)

/-- R445: a reading of partition p in a class is answered through a path. -/
def State.answered (s : State) (p cls : Nat) (path : Path) : Bool :=
  (match path with
   | .pf0 _ => false
   | .window => false
   | .vf _ q => q == p
   | .owner q => q == p) || (s.allow p).getLsbD cls

/-! ### Making a region (R427, R433) -/

/-- R427: the regions that are ACTIVE, or that a command is making. -/
def State.takenRegions (s : State) : List Region := s.sec.regions ++ s.sec.defining.map Prod.fst

/-- R427: a range that cannot be metered in an address space. -/
def State.badRange (s : State) (asid base limit : Nat) : Bool :=
  !aligned base 4096 || !aligned limit 4096 || decide (limit ≤ base) ||
    s.takenRegions.any (fun r => r.asid == asid && decide (base < r.limit) && decide (r.base < limit))

/-- R426: the lowest FREE region id. -/
def State.freeRegion (s : State) : Option Nat := (List.range 4096).find? (fun n => s.takenRegions.all (fun r => r.id != n))

/-- R427, R433: a region is ACTIVE: no line filled before it stays cached, its id goes to MRES, an imported report joins the list of imports,
and its first report is committed. -/
def State.activate (s : State) (r : Region) (kind : Nat) : State :=
  let s := s.invalidate r.part r.asid r.base r.limit
  let s := if kind = 4 then s.storeImport r.prev else s
  let s := s.modSec (fun x => { x with regions := x.regions ++ [r], counted := x.counted.filter (fun p => p != r.part) })
  let s := s.setHreg .sec (mreg r.part + 0x18) (BitVec.ofNat 64 r.id)
  (s.commitRegion r.id kind).setStat .sec (mreg r.part) 0 false

/-- R353, R427, R433: a region begins: its invalidation waits for every access that was translated in its range before, and BUSY reads 1
until then. -/
def State.newRegion (s : State) (r : Region) (kind : Nat) : State :=
  if s.rangeQuiet r.part r.asid r.base r.limit then s.activate r kind
  else (s.modSec (fun x => { x with defining := x.defining ++ [(r, kind)] })).setStat .sec (mreg r.part) 0 true

/-- R353, R427: a region whose invalidation is complete becomes ACTIVE. -/
def State.finishRegion (s : State) : Option State :=
  (s.sec.defining.find? (fun x => s.rangeQuiet x.1.part x.1.asid x.1.base x.1.limit)).map (fun x =>
    (s.modSec (fun y => { y with defining := y.defining.erase x })).activate x.1 x.2)

/-- R427: DEFINE. -/
def State.defineRegion (s : State) (p : Nat) : State :=
  let base := (s.hreg .sec (mreg p + 8)).toNat
  let arg := s.hreg .sec (mreg p + 0x10)
  let limit := field arg 63 12 * 2 ^ 12
  let asid := field arg 11 0
  if s.badRange asid base limit then s.setStat .sec (mreg p) 2 false
  else
    match s.freeRegion with
    | none => s.setStat .sec (mreg p) 1 false
    | some n =>
      s.newRegion { id := n, part := p, asid := asid, base := base, limit := limit, count := 0, rnum := 0, prev := 0, lastCount := 0,
                    closing := false, latest := [] } 0

/-- R433: an import package: its header's first word, range and ASID, the source report, and the certificate. -/
structure ImportPkg where
  head   : List Byte
  report : List Byte
  cert   : List Byte

def ImportPkg.word (x : ImportPkg) (k : Nat) : Nat := leNat ((x.head.drop (8 * k)).take 8)
def ImportPkg.rword (x : ImportPkg) (ofs : Nat) : Nat := leNat ((x.report.drop ofs).take 8)

def State.readImport (s : State) (pa : Nat) : ImportPkg :=
  let bs := s.readPhys 0 pa 0xFE0
  ⟨bs.take 0x40, (bs.drop 0x40).take 0xA0, (bs.drop 0x100).take 0xEE0⟩

/-- R433, R434: the reports on the list of imports, and those that an IMPORT is about to put there. -/
def State.importing (s : State) : List (BitVec 256) :=
  s.sec.imports ++ (s.sec.defining.filter (fun x => x.2 == 4)).map (fun x => x.1.prev)

/-- R433: an import package is refused. -/
def State.badImport (s : State) (x : ImportPkg) : Bool :=
  let cert := natsOf x.cert
  let body := natsOf ((x.report.drop 8).take 0x40)
  let sig := natsOf ((x.report.drop 0x48).take 0x40)
  let rpl := x.word 0 % 2
  x.word 0 / 2 != (0x4B593949 * 2 ^ 32 + 2 ^ 16) / 2 || decide (4096 ≤ x.word 3) || (x.head.drop 0x20).any (fun b => b != 0) ||
    !Config.certChains cert || !Config.verifies cert (sha256 body) sig || Config.certDevice cert != x.rword 8 ||
    (rpl == 0 && x.rword 0 / 2 ^ 8 % 2 ^ 8 != 3) || s.importing.contains (reportHash x.report)

/-- R433, R436: IMPORT; a package that cannot be read is refused (log entry 82). -/
def State.importRegion (s : State) (p : Nat) : State :=
  let pa := (s.hreg .sec (mreg p + 8)).toNat
  let x := s.readImport pa
  if !s.inPartDram p pa 0xFE0 || s.badRange (x.word 3 % 4096) (x.word 1) (x.word 2) then s.setStat .sec (mreg p) 2 false
  else
    match s.freeRegion with
    | none => s.setStat .sec (mreg p) 1 false
    | some n =>
      if s.badPhys pa 0xFE0 || s.badImport x then s.setStat .sec (mreg p) 4 false
      else if 8192 ≤ s.importing.length then s.setStat .sec (mreg p) 1 false
      else
        s.newRegion
          { id := n, part := p, asid := x.word 3, base := x.word 1, limit := x.word 2, count := x.rword 0x18, rnum := x.rword 0x20,
            prev := reportHash x.report, lastCount := 0, closing := false, latest := [] } 4

/-! ### CLOSE, COMMIT and QUERY -/

/-- R427: the region a command names, ACTIVE in the partition. -/
def State.namedRegion (s : State) (p : Nat) : Option Region :=
  let id := field (s.hreg .sec (mreg p + 8)) 11 0
  s.sec.regions.find? (fun r => r.id == id && r.part == p)

/-- R427: CLOSE refuses new fetches at once; BUSY reads 1 until the region has ended. -/
def State.closeRegion (s : State) (p : Nat) : State :=
  match s.namedRegion p with
  | none => s.setStat .sec (mreg p) 2 false
  | some r =>
    (s.modSec (fun x => { x with regions := x.regions.map (fun y => if y.id = r.id then { y with closing := true } else y) })).setStat
      .sec (mreg p) 0 true

/-- R427, R445: QUERY. -/
def State.queryRegion (s : State) (p : Nat) (path : Path) : State :=
  match s.namedRegion p with
  | none => s.setStat .sec (mreg p) 2 false
  | some r =>
    let mres (s : State) (v : Nat) (held : List Nat) : State :=
      ((s.modSec (fun x => { x with counted := x.counted.filter (fun q => q != p) ++ held })).setHreg .sec (mreg p + 0x18) (BitVec.ofNat 64 v)).setStat
        .sec (mreg p) 0 false
    if s.answered p 2 path then mres s r.count [p] else (mres s 0 []).auditLog p 1 (pathCode path) (mreg p + 0x18)

/-- R426, R449: a write to MCMD. -/
def State.writeMcmd (s : State) (p : Nat) (v : Word) (path : Path) : State :=
  s.guardWrite path .sec (mreg p) (fun s =>
    s.command .sec (mreg p) 0xF 3 v (fun s =>
      if s.sec.erased then s.setStat .sec (mreg p) 6 false
      else
        match field v 3 0 with
        | 1 => s.defineRegion p
        | 2 => s.closeRegion p
        | 3 => s.importRegion p
        | 4 => (s.commitRegions 5 (fun r => r.part == p)).setStat .sec (mreg p) 0 false
        | 5 => s.queryRegion p path
        | _ => s.setStat .sec (mreg p) 5 false))

/-- R427, REGION_DEFINE. -/
def execRegionDefine (p : Nat) (path : Path) (s : State) : Outcome State Fault Refusal := .next (s.writeMcmd p (goWord 1) path)

/-- R427, REGION_CLOSE. -/
def execRegionClose (p : Nat) (path : Path) (s : State) : Outcome State Fault Refusal := .next (s.writeMcmd p (goWord 2) path)

/-- R433, REGION_IMPORT. -/
def execRegionImport (p : Nat) (path : Path) (s : State) : Outcome State Fault Refusal := .next (s.writeMcmd p (goWord 3) path)

/-- R427, REGION_COMMIT. -/
def execRegionCommit (p : Nat) (path : Path) (s : State) : Outcome State Fault Refusal := .next (s.writeMcmd p (goWord 4) path)

/-- R427, REGION_QUERY. -/
def execRegionQuery (p : Nat) (path : Path) (s : State) : Outcome State Fault Refusal := .next (s.writeMcmd p (goWord 5) path)

/-- R427: a region is FREE, and the store no longer holds its report. -/
def State.freeRegionNo (s : State) (id : Nat) : State :=
  (s.modSec (fun x => { x with regions := x.regions.filter (fun r => r.id != id) })).storeErase id

/-- R427, R432: a CLOSE whose region no transfer that has read from it still uses. -/
def State.closeReady (s : State) (r : Region) : Bool := r.closing && s.teams.all (fun t => t.xfers.all (fun y => !y.seen.contains r.id))

/-- R427, REGION_CLOSE_COMPLETE: the CLOSE report is committed and the region is FREE. -/
def execRegionCloseComplete (r : Nat) (s : State) : Outcome State Fault Refusal :=
  match s.sec.regions.find? (fun y => y.id == r && s.closeReady y) with
  | none => .next s
  | some y => .next (((s.commitRegion r 3).freeRegionNo r).setStat .sec (mreg y.part) 0 false)

/-- R431: the cycle of the partition's next periodic commit. -/
def State.periodDue (s : State) (p : Nat) : Nat := s.sec.periodAt.getD p 0 + (s.hreg .sec (mreg p + 0x30)).toNat * (1000 * us)

/-- R431, PERIODIC_COMMIT. -/
def execPeriodicCommit (p : Nat) (s : State) : Outcome State Fault Refusal :=
  if s.hreg .sec (mreg p + 0x30) != 0 && decide (s.periodDue p ≤ s.clock) then
    .next ((s.modSec (fun x => { x with periodAt := x.periodAt.set p s.clock })).commitRegions 1 (fun r => r.part == p && r.changed))
  else .next s

end Sys2Proof.Machine
end

