-- ==== Sys2Proof/Machine/Alarms.lean ====
section
/-! DEFINITION. Security alarms (R447-R449): what each level does, the ALCMD register and the other sources, with their
events. -/

namespace Sys2Proof.Machine

open Host (Outcome)

/-- R449: the live launches that p selects terminate with status ALARM. -/
def State.endKeyed (s : State) (p : Launch → Bool) : State :=
  ((s.launches.filter (fun l => l.st != .retired && p l)).map Launch.seq).foldl (fun s seq => s.endLaunch seq 7) s

/-- R379, R449: every core without a resident team is to be scrubbed. -/
def State.scrubIdle (s : State) : State :=
  let cores := (List.range 8).flatMap (fun d => (List.range 64).map (fun c => (d, c)))
  let idle := cores.filter (fun c => (s.coreTeams c.1 c.2).isEmpty && !s.sec.scrubCore.any (fun x => x.1 == c.1 && x.2.1 == c.2))
  s.modSec (fun x => { x with scrubCore := x.scrubCore ++ idle.map (fun c => (c.1, c.2, 0, s.clock + 10260)) })

/-- R370, R449: every LIVE key slot is retired. -/
def State.retireAll (s : State) : State :=
  ((s.sec.slots.filter (fun e => e.2.st == .live)).map Prod.fst).foldl (fun s n => s.retireSlot n) s

/-- R449: the effects of level 2. -/
def State.level2 (s : State) : State :=
  let s := s.commitRegions 6 Region.changed
  let s := s.endKeyed (fun l => l.r.keyh != 0)
  let s := (s.retireAll.scrubIdle).dropSlices (fun x => Word.key x.leaf != 0)
  { s with l1 := s.l1.filter (fun x => Word.key x.leaf == 0) }

/-- R449: commands that were under way complete with HALTED. -/
def State.haltMeters (s : State) : State :=
  (List.range 4).foldl (fun s p => if (s.hreg .sec (mreg p)).getLsbD 63 then s.setStat .sec (mreg p) 6 false else s) s

/-- R449: the effects of level 3 beyond those of level 2. -/
def State.level3 (s : State) : State :=
  let s := s.endKeyed (fun _ => true)
  let s := s.commitRegions 6 Region.changed
  let s := ((s.sec.slots.filter (fun e => e.2.st != .free)).map Prod.fst).foldl (fun s n => s.eraseSlot n) s
  (s.modSec (fun x => { x with cins := [], erased := true, refused := true, regions := [], defining := [] })).haltMeters

/-- R448, R449: an alarm of a source and level. -/
def State.alarm (s : State) (src arg lvl : Nat) : State :=
  let s := s.logAlarm src arg lvl none
  if lvl = 2 then s.level2 else if 3 ≤ lvl then s.level2.level3 else s

/-- R447: a write to ALCMD. -/
def State.writeAlcmd (s : State) (v : Word) (path : Path) : State :=
  s.guardWrite path .sec 0x2008 (fun s =>
    if field v 63 32 != 0x4B39A1A3 then s
    else
      match field v 1 0 with
      | 2 => s.alarm 9 0 2
      | 3 => s.alarm 12 0 3
      | _ => s)

/-- R447, ALCMD_LEVEL_2. -/
def execAlcmdLevel2 (code : BitVec 32) (path : Path) (s : State) : Outcome State Fault Refusal :=
  .next (s.writeAlcmd (BitVec.ofNat 64 (code.toNat * 2 ^ 32 + 2)) path)

/-- R447, ALCMD_LEVEL_3. -/
def execAlcmdLevel3 (code : BitVec 32) (path : Path) (s : State) : Outcome State Fault Refusal :=
  .next (s.writeAlcmd (BitVec.ofNat 64 (code.toNat * 2 ^ 32 + 3)) path)

/-- R448, TAMPER_MESH_BROKEN: source 10. -/
def execTamperMeshBroken (s : State) : Outcome State Fault Refusal := .next (s.alarm 10 0 3)

/-- R448, VOLTAGE_CLOCK_FAULT: source 8, and source 11 for a second one within 1 s. -/
def execVoltageClockFault (s : State) : Outcome State Fault Refusal :=
  let again := match s.sec.src8At with | some t => decide (s.clock ≤ t + 1000000 * us) | none => false
  let s := s.modSec (fun x => { x with src8At := some s.clock })
  .next (if again then s.alarm 11 0 3 else s.alarm 8 0 2)

end Sys2Proof.Machine
end

