-- ==== Sys2Proof/Machine/Repair.lean ====
section
/-! DEFINITION. Soft errors (R435-R437), die resets (R439) and the field swap (R440), with their events. -/

namespace Sys2Proof.Machine

open Host (Outcome)

/-! ### Soft errors -/

/-- R437: the soft-error counter k of a die, or of the I/O die (8). -/
def errReg (die k : Nat) : Nat := (if die = 8 then 0x840 else 0x40 + 0x100 * die) + 8 * k

def State.countError (s : State) (die k : Nat) : State :=
  s.setHreg .sensor (errReg die k) ((s.hreg .sensor (errReg die k) + 1) &&& 0x7FFFFFFFFFFFFFFF)

/-- R435, R437: the die an error is counted on, and whether it lies in DRAM. -/
def State.errDie (s : State) : ErrLoc → Option (Nat × Bool)
  | .team t _ => ((s.team? t).filter Team.here).map (fun t => (t.die, false))
  | .cache d _ => if d < 8 then some (d, false) else none
  | .dram line => if inDram (64 * line) then some (homeDie (64 * line), true) else none
  | .secSram => some (8, false)

/-- R435, SINGLE_BIT_ERROR: the error is corrected; only its count shows. -/
def execSingleBitError (loc : ErrLoc) (s : State) : Outcome State Fault Refusal :=
  match s.errDie loc with
  | some (d, dram) => .next (s.countError d (if dram then 2 else 0))
  | none => .next s

/-- R436: a line is poisoned; no L1 or slice serves it any more. -/
def State.poison (s : State) (line : Nat) : State :=
  let s := s.dropSlices (fun x => x.pa == 64 * line && Word.peer x.leaf == 0)
  { s with poisoned := Cells.set 0 s.poisoned line (~~~(0 : BitVec 64)), l1 := s.l1.filter (fun x => x.pa != 64 * line) }

/-- R436: what an uncorrectable error does where it lies. -/
def State.errEffect (s : State) : ErrLoc → State
  | .team t unit => s.terminate t 0xFF 0 cMEMF 0x50 0 (BitVec.ofNat 64 unit)
  | .cache _ line => if inDram (64 * line) then s.poison line else s
  | .dram line => (s.poison line).setHreg .sensor (errReg (homeDie (64 * line)) 4) (BitVec.ofNat 64 (64 * line))
  | .secSram => s.alarm 7 0 2

/-- R436, UNCORRECTABLE_ERROR. -/
def execUncorrectableError (loc : ErrLoc) (s : State) : Outcome State Fault Refusal :=
  match s.errDie loc with
  | some (d, dram) => .next ((s.countError d (if dram then 3 else 1)).errEffect loc)
  | none => .next s

/-- R435, PATROL_SCRUB: a line is read and corrected, which changes nothing that an agent can observe. -/
def execPatrolScrub (_pa : Nat) (s : State) : Outcome State Fault Refusal := .next s

/-! ### Die reset (R438, R439) -/

/-- The dies of a set that are reached from some of them over the mesh. -/
def spread (f : Fuses) (alive : List Nat) : Nat → List Nat → List Nat
  | 0, seen => seen
  | fuel + 1, seen => spread f alive fuel (seen ++ alive.filter (fun d => !seen.contains d && seen.any (fun e => f.neighbours d e)))

/-- R439: the dies that would be cut off if a set were removed: those not joined to the lowest-numbered one that stays. -/
def State.cutOff (s : State) (gone : List Nat) : List Nat :=
  let alive := (List.range 8).filter (fun d => !gone.contains d)
  let reached := spread s.fuses alive 8 (alive.take 1)
  alive.filter (fun d => !reached.contains d)

/-- R439 steps 1 and 2: a reset of a die begins. -/
def State.beginReset (s : State) (die : Nat) (force : Bool) : State :=
  let gone := die :: s.dieResets.map DieReset.die
  let cut := s.cutOff gone
  if !cut.isEmpty && !force then s.setStat .repair 0 2 false
  else
    let s := s.setStat .repair 0 0 true
    { s with dieResets := s.dieResets ++ (die :: cut).map (fun d => ⟨d, s.clock + 100 * us, s.clock + 4000 * us, false⟩) }

/-- R438: a write to DRCTL, while the package has no level-3 alarm. -/
def State.writeDrctl (s : State) (v : Word) (path : Path) : State :=
  s.guardWrite path .repair 0 (fun s =>
    if 3 ≤ s.sec.alarm then s
    else s.command .repair 0 0x17 1 v (fun s => s.beginReset (field v 2 0) (v.getLsbD 4)))

/-- R439, DIE_RESET. -/
def execDieReset (v : BitVec 64) (path : Path) (s : State) : Outcome State Fault Refusal := .next (s.writeDrctl v path)

/-- R439 step 3: a launch with a team on the die terminates. -/
def State.dieLost (s : State) (l : Launch) : State :=
  s.endLaunchAs l.seq 5 0x10

/-- R439 step 4: a request homed on the die traps at its requester. -/
def State.requestLost (s : State) (p : HomeOp) : State :=
  (s.landed p).accessFault p 0x50

/-- R439 step 4: the lines of the die that were owned or dirty are poisoned; which they were, of those that memory lists and those that L1s
and slices hold, is free. -/
def State.poisonDirty (s : State) (die : Nat) : State :=
  let held := (s.slices.filter (fun x => Word.peer x.leaf == 0)).map SliceLine.pa ++ (s.l1.filter (fun x => Word.peer x.leaf == 0)).map L1Line.pa
  let lines := (((s.mem.map Prod.fst ++ held).filter (fun a => inDram a && homeDie a == die)).map (fun a => a / 64)).eraseDups
  (lines.filter (Config.dirty s.nonce)).foldl State.poison s

/-- R439 steps 3 and 4. -/
def State.dieDrained (s : State) (die : Nat) : State :=
  let s : State := { s with dieResets := s.dieResets.map (fun r => if r.die = die then { r with drained := true } else r) }
  let ls := s.launches.filter (fun l => l.st != .retired && s.teams.any (fun t => t.seq == l.seq && t.here && t.die == die))
  let s := ls.foldl State.dieLost s
  let ops := s.homeOps.filter (fun p => p.loc.peer == 0 && inDram p.loc.pa && homeDie p.loc.pa == die)
  (ops.foldl State.requestLost s).poisonDirty die

/-- R439, TRANSIT_DRAIN_LIMIT: the transit drain has ended; what was dropped is replayed on the new routes. -/
def execTransitDrainLimit (die : Nat) (s : State) : Outcome State Fault Refusal :=
  if s.dieResets.any (fun r => r.die == die && !r.drained && decide (r.drain ≤ s.clock)) then .next (s.dieDrained die) else .next s

/-- R439 step 5: the die's cores, slices and TLBs are reset and scrubbed, and it rejoins the routes. -/
def State.dieBack (s : State) (die : Nat) : State :=
  let s := s.dropSlices (fun x => x.die == die)
  let s : State := { s with
    dieResets := s.dieResets.filter (fun r => r.die != die)
    l1 := s.l1.filter (fun x => x.core / 64 != die)
    tlb := s.tlb.filter (fun t => t.die != die)
    walks := s.walks.filter (fun w => w.die != die)
    replicas := (s.replicas.filter (fun r => r.home != die)).map (fun r =>
      { r with dies := r.dies.filter (fun d => d != die), acks := r.acks.filter (fun d => d != die) }) }
  let s := s.modSec (fun x =>
    { x with scrubCore := x.scrubCore.filter (fun c => c.1 != die), dgate := x.dgate.filter (fun c => c.1 != die) })
  if s.dieResets.isEmpty then s.setStat .repair 0 0 false else s

/-- R439, DIE_RESET_COMPLETE. -/
def execDieResetComplete (die : Nat) (s : State) : Outcome State Fault Refusal :=
  if s.dieResets.any (fun r => r.die == die && r.drained && decide (r.due ≤ s.clock)) then .next (s.dieBack die) else .next s

/-! ### Field swap (R440) -/

/-- R440: the conditions in order. -/
def State.swapStat (s : State) : Nat :=
  if s.fuses.used then 1
  else if !s.fuses.spareOk then 2
  else if s.sec.tdi.any (fun t => t != .unlocked) || s.launches.any (fun l => l.st != .retired) then 3
  else 0

/-- R438, R440: a write to SWCTL. An accepted swap takes effect at the next package reset. -/
def State.writeSwctl (s : State) (v : Word) (path : Path) : State :=
  s.guardWrite path .repair 8 (fun s =>
    if 3 ≤ s.sec.alarm then s
    else
      s.command .repair 8 7 0 v (fun s =>
        let st := s.swapStat
        let s := s.setStat .repair 8 st false
        if st = 0 then { s with fuses := { s.fuses with used := true, burnt := some (field v 2 0) } } else s))

/-- R440, FIELD_SWAP. -/
def execFieldSwap (v : BitVec 64) (path : Path) (s : State) : Outcome State Fault Refusal := .next (s.writeSwctl v path)

end Sys2Proof.Machine
end

