-- ==== Sys2Proof/Machine/Boot.lean ====
section
/-! DEFINITION. The partition configuration (R309-R312) and package resets (R444), with their events. -/

namespace Sys2Proof.Machine

open Host (Outcome)

/-! ### Configuration records (R310-R312) -/

/-- R311: a stream descriptor, if it breaks no limit. -/
def parseStreamCfg (dcores : Nat) (w : Word) : Option StreamCfg :=
  let kind := field w 2 0
  let k := field w 4 3
  let f := field w 9 5
  let high := field w 15 12
  if field w 63 16 != 0 || w.getLsbD 11 || kind == 7 || k == 3 then none
  else if kind = 5 && (2 ≤ k || dcores = 0) then none
  else if w.getLsbD 10 && kind != 4 then none
  else if (if kind = 2 then f == 0 else f != 0) then none
  else if (if kind = 0 || kind = 6 then high != 0 else high == 0 || decide (8 < high)) then none
  else some ⟨kind, k, f, field w 10 10, high⟩

/-- R310: a pair descriptor of nine words. -/
def parsePair (npart : Nat) (ws : List Word) : Option PairCfg :=
  let w := ws.getD 0 0
  let dcores := field w 21 16
  let p0 := field w 1 0
  let p1 := field w 3 2
  if field w 63 22 != 0 || field w 7 4 != 0 || 8 < dcores || 22 < field w 15 8 || p0 == p1 || decide (npart ≤ p0) || decide (npart ≤ p1) then none
  else ((ws.drop 1).mapM (parseStreamCfg dcores)).map (fun ss => ⟨p0, p1, field w 15 8, dcores, ss⟩)

/-- R312: what a record of 32 words configures: the partition of each die and the share pairs. -/
def parseConfig (ws : List Word) : Option (List Nat × List PairCfg) :=
  let w0 := ws.getD 0 0
  let w1 := ws.getD 1 0
  let npart := field w0 15 8
  let npair := field w0 7 4
  let map := (List.range 8).map (fun d => field w1 (4 * d + 3) (4 * d))
  let blank (lo n : Nat) : Bool := ((ws.drop lo).take n).all (fun w => w == 0)
  if ws.length != 32 || field w0 63 32 != 0x4B593950 || field w0 31 16 != 1 || npart == 0 || decide (4 < npart) || decide (2 < npair) ||
      field w0 3 0 != 0 || field w1 63 32 != 0 || map.any (fun p => decide (npart ≤ p)) ||
      (List.range npart).any (fun p => !map.contains p) || !blank 20 12 then none
  else
    let pairs := (List.range npair).mapM (fun i => parsePair npart ((ws.drop (2 + 9 * i)).take 9))
    pairs.bind (fun ps =>
      let parts := ps.flatMap (fun p => [p.p0, p.p1])
      if parts.eraseDups.length = parts.length then some (map, ps) else none)

/-- R312: the staged record. -/
def State.staged (s : State) : List Word := (List.range 32).map (fun j => s.hreg .config (8 * j))

/-- R312: COMMIT. -/
def State.commitConfig (s : State) : State :=
  match parseConfig s.staged with
  | none => s.setStat .config 0x100 1 false
  | some _ => ({ s with fuses := { s.fuses with config := some s.staged } } : State).setStat .config 0x100 0 false

/-- R312: READ. -/
def State.readConfig (s : State) : State :=
  let ws := s.fuses.config.getD (List.replicate 32 0)
  ((List.range 32).foldl (fun s j => s.setHreg .config (8 * j) (ws.getD j 0)) s).setStat .config 0x100 0 false

/-- R312: a write to CFGCMD. -/
def State.writeCfgcmd (s : State) (v : Word) (path : Path) : State :=
  s.guardWrite path .config 0x100 (fun s =>
    s.command .config 0x100 0xF 2 v (fun s =>
      if 3 ≤ s.sec.alarm then s.setStat .config 0x100 4 false
      else
        match field v 3 0 with
        | 1 => s.commitConfig
        | 2 => s.readConfig
        | _ => s.setStat .config 0x100 3 false))

/-- R312, CONFIG_COMMIT. -/
def execConfigCommit (path : Path) (s : State) : Outcome State Fault Refusal := .next (s.writeCfgcmd (goWord 1) path)

/-- R312, CONFIG_READ. -/
def execConfigRead (path : Path) (s : State) : Outcome State Fault Refusal := .next (s.writeCfgcmd (goWord 2) path)

/-! ### Package reset -/

/-- R363, R440: the fuses after a package reset. -/
def Fuses.atReset (f : Fuses) : Fuses := { f with swapped := f.burnt }

/-- R434: the regions whose records fail the check at boot. -/
def State.storeFails (s : State) : List Nat := (s.sec.store.filter s.storeBad).map Region.id

/-- R370, R426, R434, R449: the security unit after a package reset: new keys, the regions as their last committed reports
leave them, but those whose records fail their check; what a level-3 alarm erased stays erased. -/
def Sec.atReset (x : Sec) (bad : List Nat) : Sec :=
  let good := x.store.filter (fun r => !bad.contains r.id)
  { Sec.reset with
    drawn := x.drawn + 4, epoch := x.drawn, store := good, storeCtr := x.storeCtr, imports := x.imports,
    storeTags := x.storeTags.filter (fun y => !bad.contains y.1),
    regions := if x.erased then [] else good.map (fun r => { r with count := r.lastCount, closing := false }),
    alarm := if x.erased then 3 else 0, erased := x.erased, refused := x.erased }

/-- R312, R434, R444: the machine after a package reset: the fuses, the secure storage and the host's memory stay; the stored
configuration, if it is valid, takes effect; each region whose record fails its check is logged. -/
def State.packageReset (s : State) : State :=
  let cfg := (s.fuses.config.bind parseConfig).getD (List.replicate 8 0, [])
  let good := (s.fuses.config.bind parseConfig).isSome
  let bad := if s.sec.erased then [] else s.storeFails
  let t : State := { State.reset with
    nonce := s.nonce, inbox := s.inbox, out := s.out, hostMem := s.hostMem, fuses := s.fuses.atReset, sec := s.sec.atReset bad,
    diemap := cfg.1, pairs := cfg.2, inForce := if good then s.fuses.config else none, confRefused := s.fuses.config.isSome && !good }
  bad.foldl (fun t id => t.logAlarm 6 id 1 none) t

/-- R312, PACKAGE_RESET. -/
def execPackageReset (s : State) : Outcome State Fault Refusal := .next s.packageReset

/-- R444: a write to PKGCTL. -/
def State.writePkgctl (s : State) (v : Word) (path : Path) : State :=
  s.guardWrite path .pkg 0 (fun s =>
    if field v 63 32 = 0x4B395253 && v.getLsbD 0 then
      (if s.sec.erased then s else s.commitRegions 7 Region.changed).packageReset
    else s)

/-- R444, PACKAGE_RESET_REQUEST. -/
def execPackageResetRequest (v : BitVec 64) (path : Path) (s : State) : Outcome State Fault Refusal := .next (s.writePkgctl v path)

end Sys2Proof.Machine
end

