-- ==== Sys2Proof/Machine/CrossLane.lean ====
section
/-! DEFINITION. The cross-lane instructions prm, vote, rdlane, lred and lscan (R130-R137) and the predicate instructions
plop, p2r and r2p (R138). -/

namespace Sys2Proof.Machine

open Host (Outcome)

/-- R131: the source lanes that were never launched. -/
def Issue.unlaunched (x : Issue) (ks : List Nat) : List Nat := ks.filter (fun k => !x.grp.launched.getLsbD k)

/-- R83, R131: the value of a v operand of a lane as a cross-lane word reads it: zero of a never-launched lane. -/
def Issue.crossOpnd (x : Issue) (w : Nat) (a : Fin 192) (k : Nat) : Nat :=
  if x.grp.launched.getLsbD k then x.opnd w (.v a) k else 0

/-- R131: reading never-launched lanes traps PRMZ under MODE.PRT, and otherwise sets GSTAT.PZ. -/
def Issue.crossRead (x : Issue) (ks : List Nat) (go : Issue → Act) : Act :=
  let bad := x.unlaunched ks
  match bad.min? with
  | none => go x
  | some k =>
    if modePrt x.grp.mode then .trap { code := cPRMZ, tval := BitVec.ofNat 64 k }
    else go { x with s := x.modG x.s (fun g => { g with pz := true }) }

/-- R132: the source lane of a permute. -/
def prmLane (mode : PrmMode) (W l k : Nat) : Nat :=
  match mode with
  | .idx => k % W
  | .xor => Nat.xor l (k % W)
  | .up => if k ≤ l then l - k else l
  | .down => if l + k < W then l + k else l
  | .rot => (l + k) % W

/-- The width of an access to registers or pairs. -/
def w64Bits (w64 : Bool) : Nat := if w64 then 64 else 32

/-- R132. -/
def execPrm (h : Hdr) (d a : Fin 192) (b : Opr) (mode : PrmMode) (w64 : Bool) (s : State) : Outcome State Fault Refusal :=
  word (.prm h d a b mode w64) s fun x =>
    let src (l : Nat) : Nat := prmLane mode x.W l (x.amt b l)
    x.crossRead (x.lanesList.map src) fun x => x.perLane 6 (.v d) (fun l =>
      putInt (w64Bits w64) false (.v d) l (x.crossOpnd (w64Bits w64) a (src l)))

/-- R133: the predicate is true in some participant, or in every one. -/
def Issue.anyPred (x : Issue) (p : BitVec 3) : Bool := x.lanesList.any (fun l => x.preg p l)
def Issue.allPred (x : Issue) (p : BitVec 3) : Bool := x.lanesList.all (fun l => x.preg p l)

/-- R133. -/
def execVote (h : Hdr) (d : VoteDst) (p : BitVec 3) (s : State) : Outcome State Fault Refusal :=
  word (.vote h d p) s fun x =>
    match d with
    | .any q => x.perLaneP 6 q (fun _ => (x.anyPred p, 0))
    | .all q => x.perLaneP 6 q (fun _ => (x.allPred p, 0))
    | .uni q => x.perLaneP 6 q (fun _ => (x.allPred p || !x.anyPred p, 0))
    | .ballot n => .done (x.fixed 6 [⟨.s n.val, laneSet x.W (fun l => x.lanes.getLsbD l && x.preg p l)⟩] 0)

/-- R134. -/
def execRdlane (h : Hdr) (d : Fin 64) (a : Fin 192) (b : Fin 64) (w64 : Bool) (s : State) : Outcome State Fault Refusal :=
  word (.rdlane h d a b w64) s fun x =>
    let k := (x.sreg b).toNat % x.W
    x.crossRead [k] fun x => .done (x.fixed 6 [⟨.s d.val, zext (x.crossOpnd (w64Bits w64) a k) 64⟩] 0)

/-- R135: the width of an operation's values. -/
def redWidth : RedOp → Nat
  | .addZ16 => 16
  | .addI64 => 64
  | _ => 32

/-- R135: the combining operations; r is the rounding of fadd at its position. -/
def redCombine (op : RedOp) (r : Rounding) (a b : Nat) : Nat × BitVec 6 :=
  match op with
  | .addI32 | .addZ32 => ((a + b) % 2 ^ 32, 0)
  | .addZ16 => ((a + b) % 2 ^ 16, 0)
  | .addI64 => ((a + b) % 2 ^ 64, 0)
  | .minI32 => (if sInt 32 b < sInt 32 a then b else a, 0)
  | .maxI32 => (if sInt 32 a < sInt 32 b then b else a, 0)
  | .minN32 => (min a b, 0)
  | .maxN32 => (max a b, 0)
  | .and => (Nat.land a b, 0)
  | .or => (Nat.lor a b, 0)
  | .xor => (Nat.xor a b, 0)
  | .fadd => onVals addOp .f32 r [a, b]
  | .fmin => onVals minOp .f32 r [a, b]
  | .fmax => onVals maxOp .f32 r [a, b]

/-- R135: the identities. -/
def redIdentity : RedOp → Nat
  | .addI32 | .addZ32 | .addZ16 | .addI64 | .maxN32 | .or | .xor | .fadd => 0
  | .minI32 => 2 ^ 31 - 1
  | .maxI32 => 2 ^ 31
  | .minN32 | .and => 2 ^ 32 - 1
  | .fmin => FFmt.inf .f32 false
  | .fmax => FFmt.inf .f32 true

/-- R135: a result in an s register. -/
def redToS (op : RedOp) (v : Nat) : Word :=
  match op with
  | .addI32 | .minI32 | .maxI32 => sext v 32
  | _ => zext v 64

/-- R136: one round of the tree: position j takes its own value and the one r lanes above it. The SR position of a combine is
its position number, also where its left value was passed on from a higher lane (log entry 71). -/
def redRound (op : RedOp) (rounding : Nat → Rounding) (step : Nat) (vs : List (Option Nat)) (fl : BitVec 6) :
    List (Option Nat) × BitVec 6 :=
  let out := vs.zipIdx.map (fun v =>
    if v.2 % (2 * step) = 0 then
      match v.1, (vs.getD (v.2 + step) none) with
      | some a, some b =>
        let r := redCombine op (rounding v.2) a b
        (some r.1, r.2)
      | some a, none => (some a, (0 : BitVec 6))
      | none, y => (y, 0)
    else (none, 0))
  (out.map Prod.fst, orAll (fl :: out.map Prod.snd))

/-- R136: the rounds with steps 1, 2, 4, … -/
def redTree (op : RedOp) (rounding : Nat → Rounding) : Nat → Nat → List (Option Nat) × BitVec 6 → List (Option Nat) × BitVec 6
  | 0, _, v => v
  | n + 1, step, v => redTree op rounding n (2 * step) (redRound op rounding step v.1 v.2)

/-- R136. -/
def execLred (h : Hdr) (d : Fin 64) (a : Fin 192) (op : RedOp) (rnd : Rnd) (s : State) : Outcome State Fault Refusal :=
  word (.lred h d a op rnd) s fun x =>
    let vs := (List.range x.W).map (fun l =>
      if x.lanes.getLsbD l then some (x.opnd (redWidth op) (.v a) l) else none)
    let r := redTree op (x.rounding rnd) (Nat.log2 x.W) 1 (vs, 0)
    .done (x.fixed 6 [⟨.s d.val, redToS op ((r.1.getD 0 none).getD 0)⟩] r.2)

/-- R137: the inclusive results of the participants in lane order, from the one before. -/
def scanFrom (op : RedOp) (rounding : Nat → Rounding) : Option (Nat × Nat) → List (Nat × Nat) → List (Nat × Nat) × BitVec 6
  | _, [] => ([], 0)
  | prev, (l, v) :: rest =>
    let r :=
      match prev with
      | none => (v, (0 : BitVec 6))
      | some (k, y) => redCombine op (rounding k) y v
    let t := scanFrom op rounding (some (l, r.1)) rest
    ((l, r.1) :: t.1, r.2 ||| t.2)

/-- R137: in exclusive mode each participant takes the inclusive result of the one before it. -/
def exclusive (first : Nat) : List (Nat × Nat) → List (Nat × Nat)
  | [] => []
  | (l, v) :: rest => (l, first) :: exclusive v rest

/-- R137. In exclusive mode the last participant's combine, whose result no lane takes, still raises its flags (log
entry 71). -/
def execLscan (h : Hdr) (d a : Fin 192) (excl : Bool) (op : RedOp) (rnd : Rnd) (s : State) : Outcome State Fault Refusal :=
  word (.lscan h d a excl op rnd) s fun x =>
    let r := scanFrom op (x.rounding rnd) none (x.lanesList.map (fun l => (l, x.opnd (redWidth op) (.v a) l)))
    let ys := if excl then exclusive (redIdentity op) r.1 else r.1
    .done (x.fixed 6 (ys.flatMap (fun y => putInt (redWidth op) false (.v d) y.1 y.2)) r.2)

/-! ### Predicates (R138) -/

/-- R138. -/
def execPlop (h : Hdr) (d a b : BitVec 3) (tt : BitVec 4) (s : State) : Outcome State Fault Refusal :=
  word (.plop h d a b tt) s fun x => x.perLaneP 4 d (fun l =>
    (tt.getLsbD (2 * (x.preg a l).toNat + (x.preg b l).toNat), 0))

/-- R138: bit j of the v form is predicate j. -/
def Issue.predBits (x : Issue) (l : Nat) : Nat :=
  (List.range 8).foldl (fun a j => a + (x.preg (BitVec.ofNat 3 j) l).toNat * 2 ^ j) 0

/-- R138. -/
def execP2r (h : Hdr) (d : P2rDst) (s : State) : Outcome State Fault Refusal :=
  word (.p2r h d) s fun x =>
    match d with
    | .v n => x.perLane 4 (.v n) (fun l => putInt 32 false (.v n) l (x.predBits l))
    | .s n p => .done (x.fixed 4 [⟨.s n.val, laneSet x.W (fun l => x.grp.launched.getLsbD l && x.preg p l)⟩] 0)

/-- R138. -/
def execR2p (h : Hdr) (a : Opr) (mask : BitVec 8) (s : State) : Outcome State Fault Refusal :=
  word (.r2p h a mask) s fun x =>
    .done (x.fixed 4 (x.lanesList.flatMap (fun l =>
      ((List.range 8).filter (fun j => j != 0 && mask.getLsbD j)).map (fun j =>
        (⟨.p j l, if bit (x.amt a l) j then 1 else 0⟩ : RegWrite)))) 0)

end Sys2Proof.Machine
end

