-- ==== Sys2Proof/Machine/System.lean ====
section
/-! DEFINITION. The system instructions of kernels: trap, rtt, brkp, rdsr, wrsr and mark (R88-R96, R249-R251). -/

namespace Sys2Proof.Machine

open Host (Outcome)

/-- R249: trap; in a group its word has issued, so its STALL holds (R11). -/
def execTrap (h : Hdr) (code : BitVec 15) (s : State) : Outcome State Fault Refusal :=
  word (.trap h code) s fun x =>
    let c : Trap := { code := cSWTRAP, tval := code.setWidth 64, tpc := some (nextPc x.pc) }
    match x.who with
    | .stream _ => .trap c
    | _ => .trapIn x.s c

/-- R251: rtt. -/
def execRtt (h : Hdr) (s : State) : Outcome State Fault Refusal :=
  word (.rtt h) s fun x =>
    if field x.grp.tpc 2 0 != 0 then .trap { code := cALIGN, tval := x.grp.tpc }
    else .done (x.s.returnTrap x.team.id x.gi x.frag.ent)

/-- R249, R412: brkp; while a stop is on its way that does not give way to it, the fragment waits at it. -/
def execBrkp (h : Hdr) (code : BitVec 15) (s : State) : Outcome State Fault Refusal :=
  word (.brkp h code) s fun x =>
    match x.s.dbgOf x.la with
    | none => .done x.s
    | some d =>
      if x.s.dbgPerm x.la.part != 2 then .done x.s
      else
        let e : StopEvent :=
          { reason := 3, idx := 0, at_ := x.s.clock, frag := some x.sel, age := x.frag.age, pc := x.pc,
            wrote := (BitVec.ofNat 32 cBRKPT, nextPc x.pc, code.setWidth 64) }
        match d.pending with
        | none => .done (x.s.meetStop x.la x.team.id x.gi e)
        | some q => if e.before q then .done (x.s.meetStop x.la x.team.id x.gi e) else .wait

/-- R75, R89: the flags an rdsr sees: those of results that are ready; of a result that is not, as R31 leaves it. -/
def Issue.flagsNow (x : Issue) : BitVec 6 :=
  x.grp.flights.foldl (fun m f =>
    if f.ready ≤ x.s.clock || Config.early x.s.nonce 0x40000 then m ||| f.flags else m) x.grp.flags

/-- R91: the role code. -/
def roleCode : Role → Nat
  | .c => 0
  | .m => 1
  | .v => 2

/-- R91: GSTAT; PLG says that the group has never-launched lanes. -/
def Group.gstat (g : Group) (W : Nat) : Word :=
  BitVec.ofNat 64 (roleCode g.role * 2 ^ 8 + (if g.rst then 8 else 0) + (if g.launched != lanesBelow W then 4 else 0) +
    (if g.abt then 2 else 0) + (if g.pz then 1 else 0))

/-- R92: the value of a special register other than LANEID. -/
def Issue.special (x : Issue) (sr : SpecialReg) : Word :=
  let n (k : Nat) : Word := BitVec.ofNat 64 k
  match sr with
  | .mode => x.grp.mode.setWidth 64
  | .flags => x.flagsNow.setWidth 64
  | .gstat => x.grp.gstat x.W
  | .laneid => 0
  | .groupid => n x.gi
  | .teamid => n x.team.idx
  | .spanid => n x.team.span
  | .dieid => n x.team.die
  | .core => n x.team.core
  | .width => n x.W
  | .clock => n x.s.clock
  | .tcause => x.grp.tcause.setWidth 64
  | .tpc => x.grp.tpc
  | .tval => x.grp.tval
  | .ebudget => n (x.s.ebudget.getD x.team.die 48)
  | .chainpos => n (x.team.chainPos.getD 0xFFFFFFFF)

/-- R73, R95: some tile conversion of the group is not complete. -/
def Issue.converting (x : Issue) : Bool :=
  x.grp.flights.any (fun f => decide (x.s.clock < f.ready)) ||
    x.team.mats.any (fun m => m.has x.gi && (match m.kind with | .convert .. => true | _ => false))

/-- R94: rdsr. A read of MODE waits until the group's earlier results and tile conversions are complete (R73). -/
def execRdsr (h : Hdr) (d : Opr) (sr : SpecialReg) (s : State) : Outcome State Fault Refusal :=
  word (.rdsr h d sr) s fun x =>
    let v := x.special sr
    let lat := if sr = .clock then 24 else 8
    match x.who, srInStream sr with
    | .stream _, false => .trap { code := cILL, tval := x.word }
    | _, _ =>
      if sr = .mode && x.converting then .wait
      else
        match d with
        | .s n => .done (x.sResult x.s n (if sr.bits = 64 then v else zext v.toNat 32) lat)
        | .v n =>
          x.perLaneV lat (.v n) (if sr.bits = 64 then 2 else 1) (fun l =>
            if sr = .laneid then ([⟨.v n.val l, BitVec.ofNat 64 l⟩], 0)
            else if sr.bits = 64 then (vPair n.val l v.toNat, 0) else ([⟨.v n.val l, zext v.toNat 32⟩], 0))

/-- R88-R91, R95: what a write of a special register leaves in a group. -/
def Group.writeSpecial (sr : SpecialReg) (v : Word) (g : Group) : Group :=
  match sr with
  | .mode => { g with mode := BitVec.ofNat 24 (field v 23 16 * 2 ^ 16 + field v 8 0) }
  | .flags => { g with flags := v.setWidth 6 }
  | .gstat => { g with rst := v.getLsbD 3, abt := v.getLsbD 1, pz := v.getLsbD 0 }
  | .tpc => { g with tpc := v }
  | .laneid | .groupid | .teamid | .spanid | .dieid | .core | .width | .clock | .tcause | .tval | .ebudget | .chainpos => g

/-- R95: wrsr. -/
def execWrsr (h : Hdr) (a : Fin 64) (sr : SpecialReg) (s : State) : Outcome State Fault Refusal :=
  word (.wrsr h a sr) s fun x =>
    if x.converting then .wait else .done (x.modG x.s (fun g => g.settle.writeSpecial sr (x.sreg a)))

/-- R249, R419: mark. -/
def execMark (h : Hdr) (a : Fin 64) (id : BitVec 8) (s : State) : Outcome State Fault Refusal :=
  word (.mark h a id) s fun x =>
    .done (x.s.trace x.la x.team.die 1 x.gi x.team.idx x.team.span id.toNat x.pc (x.sreg a))

end Sys2Proof.Machine
end

