-- ==== Sys2Proof/Machine/Debug.lean ====
section
/-! DEFINITION. The debug block (R408-R425): attaching, stops and CONTINUE, comparators, single step, register and memory
access, and the counters, with their events. -/

namespace Sys2Proof.Machine

open Host (Outcome)

/-- A fragment as the debug block names it: span, team, group and split-table entry. -/
abbrev Sel := Nat × Nat × Nat × Nat

/-- R409: SPAN, TEAM, GROUP and FRAG of DBGSEL. -/
def selOf (v : Word) : Sel := (field v 63 48, field v 47 44, field v 40 36, field v 18 16)

/-- R409: a fragment in the layout of DBGSEL; SPAN 0xFFFF when there is none. -/
def selWord : Option Sel → Word
  | some (sp, t, g, e) => BitVec.ofNat 64 (sp * 2 ^ 48 + t * 2 ^ 44 + g * 2 ^ 36 + e * 2 ^ 16)
  | none => 0xFFFF000000000000

/-- The debug block of a partition and its attached launch. -/
def State.attached (s : State) (p : Nat) : Option (Dbg × Launch) :=
  (s.dbg[p]?).bind (fun d => if d.att then (s.launch? d.seq).map (fun l => (d, l)) else none)

/-- The resident team of a launch that a selection names. -/
def State.selTeam (s : State) (l : Launch) (x : Sel) : Option Team :=
  s.teams.find? (fun t => t.seq == l.seq && t.span == x.1 && t.idx == x.2.1 && t.res == .resident)

/-- The fragment of a launch that a selection names. -/
def State.selFrag (s : State) (l : Launch) (x : Sel) : Option (Team × Group × Frag) :=
  (s.selTeam l x).bind (fun t => (t.groups[x.2.2.1]?).bind (fun g => (g.frag? x.2.2.2).map (fun f => (t, g, f))))

/-! ### Stops (R411) -/

/-- R34, R169, R411: the team's issued words are done but for what is held or blocked, and its engines' accepted operations. -/
def State.settled (s : State) (l : Launch) (t : Team) : Bool :=
  t.mats.all (fun m => s.cmdHeld l 2 m.num) && t.xfers.all (fun x => s.cmdHeld l 1 x.num) && t.scanq.all (fun o => s.cmdHeld l 3 o.num) &&
    s.homeOps.all (fun p => p.team != t.id || s.queueWaits p) && t.groups.all (fun g => g.pend.all (s.pendStands t))

/-- R411: a stop takes effect now. -/
def State.stopReady (s : State) (p : Nat) : Bool :=
  match s.attached p with
  | some (d, l) =>
    !d.stopped && (match d.pending with | some e => e.halts s.clock | none => false) &&
      s.teams.all (fun t => t.seq != l.seq || t.res != .resident || s.settled l t)
  | none => false

/-- R34: every fixed-latency result of a launch's resident teams is written. -/
def State.settleLaunch (s : State) (seq : Nat) : State :=
  { s with teams := s.teams.map (fun t => if t.seq = seq && t.res = .resident then { t with groups := t.groups.map Group.settle } else t) }

/-- The register of DBGCMD of a partition. -/
def dbgCmdOff (p : Nat) : Nat := 0x400 * p + 0x18

/-- R411: the stop takes effect. -/
def State.stopNow (s : State) (p : Nat) : State :=
  match s.attached p with
  | some (d, l) =>
    match d.pending with
    | some e =>
      let s := (s.settleLaunch l.seq).modDbg p (fun d =>
        { d with stopped := true, stopAt := s.clock, reason := e.reason, idx := e.idx, fsel := e.frag, pending := none, pass := none })
      let s := s.trace l 0 7 0xFF 0xFF 0xFFFF 0 0 (BitVec.ofNat 64 e.reason)
      if (s.hreg .debug (dbgCmdOff p)).getLsbD 63 then s.setStat .debug (dbgCmdOff p) 0 false else s
    | none => s
  | none => s

/-- R411, STOP_EFFECT. -/
def execStopEffect (p : Nat) (s : State) : Outcome State Fault Refusal := if s.stopReady p then .next (s.stopNow p) else .next s

/-- R411: the clocks of watchdogs, park limits and the idle timer stood during the stop. -/
def shiftTime (stopAt now x : Nat) : Nat := if x ≤ stopAt then x + (now - stopAt) else max x now

def Frag.shift (stopAt now since : Nat) (f : Frag) : Frag :=
  { f with last := shiftTime stopAt now (max f.last since),
           st := match f.st with | .blocked (.parked c ps) => .blocked (.parked (shiftTime stopAt now c) ps) | st => st }

def Team.shift (stopAt now : Nat) (t : Team) : Team :=
  { t with latchAt := shiftTime stopAt now t.latchAt, copyAt := shiftTime stopAt now t.copyAt,
           bars := t.bars.map (fun b => { b with lastAt := b.lastAt.map (shiftTime stopAt now) }),
           groups := t.groups.map (fun g => { g with frags := g.frags.map (Frag.shift stopAt now t.since) }) }

/-- R414, R415, R417, R425: CONTINUE: fragments issue again, held commands begin, suspended terminations and held faults proceed. -/
def State.continueLaunch (s : State) (p : Nat) : State :=
  match s.attached p with
  | some (d, l) =>
    let s : State :=
      if d.stopped then { s with teams := s.teams.map (fun t => if t.seq = l.seq then t.shift d.stopAt s.clock else t) } else s
    let s := s.modDbg p (fun d =>
      { d with stopped := false, pending := none, held := [], susp := [],
               pass := if d.stopped && (d.reason == 2 || d.reason == 4) then d.fsel else none })
    let s := d.susp.foldl (fun s x =>
      match s.team? x.1 with
      | some t =>
        if t.res == .terminated then s.postFault l x.2.1 t.idx t.span 5 x.2.2.1 x.2.2.2.1 x.2.2.2.2.1 x.2.2.2.2.2
        else s.endTeam t x.2.1 x.2.2.1 x.2.2.2.1 x.2.2.2.2.1 x.2.2.2.2.2
      | none => s) s
    (s.teams.filter (fun t => t.seq == l.seq && !s.saving t)).foldl State.releaseFaults s
  | none => s

/-! ### Attaching (R410) -/

/-- R410, R423: the debugger detaches; a stopped launch continues first, and the totals end. -/
def State.detach (s : State) (p : Nat) : State :=
  (s.continueLaunch p).modDbg p (fun d =>
    { d with att := false, seq := 0, step := none, stepEnd := none, leave := none, pass := none, counts := List.replicate 8 0,
             coreCounts := [], samples := [] })

/-- R410: an attachment is asked for; it takes effect now if the launch is already validated. Its counts begin at zero. -/
def State.attach (s : State) (p seq : Nat) (path : Path) : State :=
  let s := s.modDbg p (fun d =>
    { d with seq := seq, path := path, trpos := 0, trdrop := 0, smppos := 0, smpdrop := 0, counts := List.replicate 8 0, coreCounts := [],
             samples := [], reason := 0, idx := 0, fsel := none })
  match s.launch? seq with
  | some l => if l.part = p && l.st != .retired then s.attachAt l else s
  | none => s

/-- R410, R425: a write to DBGATT; during a step it takes effect at the step's end. -/
def State.writeDbgatt (s : State) (p : Nat) (v : Word) (path : Path) : State :=
  s.guardWrite path .debug (0x400 * p + 8) (fun s =>
    if ((s.dbg[p]?).bind Dbg.step).isSome then s.modDbg p (fun d => { d with leave := some (v.toNat, path) })
    else
      let s := s.detach p
      if v = 0 then s else s.attach p v.toNat path)

/-- R410, DBGATT_WRITE. -/
def execDbgattWrite (p : Nat) (v : BitVec 64) (path : Path) (s : State) : Outcome State Fault Refusal :=
  .next (s.writeDbgatt p v path)

/-! ### What a debugger keeps from issuing (R411, R412, R416) -/

/-- R11, R250, R255: a fragment that may act in this cycle: ready, its stall run out, and not kept by a handler, a debugger or a fault of
its group; or stalled on a hand, its word being an issued one, which a handler does not keep (R239, R250). -/
def State.mayAct (s : State) (t : Team) (gi : Nat) (g : Group) (f : Frag) : Bool :=
  (match f.st with | .ready => g.free f | .blocked (.hand ..) => true | _ => false) && decide (f.wake ≤ s.clock) &&
    !s.debugHolds t gi f.ent && t.heldFaults.all (fun x => x.1 != gi)

/-- R412, R416: the fragment's word is a regang, at which it arrives and issues nothing (R152). -/
def State.atRegang (s : State) (t : Team) (l : Launch) (f : Frag) : Bool :=
  match (s.fetch (l.space t.die) f.pc).2 with
  | .ok w => (match decode w with | .ok i => (match i with | .regang .. => i.legal | _ => false) | .error _ => false)
  | .error _ => false

/-- R412, R415, R416: the comparator that fires for a ready fragment about to issue; one that a short hand stalled has issued (R239). -/
def State.comparator (s : State) (t : Team) (gi : Nat) (f : Frag) : Option (Nat × Nat) :=
  match s.launch? t.seq with
  | none => none
  | some l =>
    match s.dbgOf l with
    | none => none
    | some d =>
      let me : Sel := (t.span, t.idx, gi, f.ent)
      if !(s.dbgReg l.part 0x10).getLsbD 0 || s.dbgPerm l.part != 2 || f.inInv.isSome || f.st != .ready || d.step == some me then none
      else
        ((List.range 8).find? (fun i =>
          let c := s.dbgReg l.part (0x80 + 8 * i)
          c.getLsbD 0 && field c 63 3 * 8 == f.pc.toNat && !(d.pass == some me && d.reason == 2 && d.idx == i) &&
            !s.atRegang t l f)).map (fun i => (l.part, i))

/-- R412: a fired comparator: the word stays unissued. -/
def State.fireComparator (s : State) (p i : Nat) (t : Team) (gi : Nat) (f : Frag) : State :=
  let s := s.modFrag t.id gi f.ent (fun f => { f with wake := s.clock + 1 })
  match s.attachedTo p with
  | none => s
  | some l =>
    s.meetStop l t.id gi
      { reason := 2, idx := i, at_ := s.clock, frag := some (t.span, t.idx, gi, f.ent), age := f.age, pc := f.pc,
        wrote := (BitVec.ofNat 32 (256 + cBRKPT), f.pc, BitVec.ofNat 64 i) }

/-- R412, COMPARATOR_FIRE. -/
def execComparatorFire (p i t g e : Nat) (s : State) : Outcome State Fault Refusal :=
  match s.team? t with
  | some y =>
    match (y.groups[g]?).bind (fun x => x.frag? e) with
    | some f =>
      if y.res == .resident && !s.debugHolds y g e && s.comparator y g f == some (p, i) then
        .next (s.fireComparator p i y g f)
      else .next s
    | none => .next s
  | none => .next s

/-! ### Single step (R416) -/

/-- R416: how a step's fragment stands after it has been let act: the reason the step ends with, 10 where it blocked at its word, or none
while the word still waits for what is on its way. -/
def State.stepReason (s0 s1 : State) (l : Launch) (x : Sel) : Option Nat :=
  match s0.selFrag l x, s1.selFrag l x with
  | some (_, g0, f0), some (t1, g1, f1) =>
    if g1.handler == some f1.ent && g0.handler != some f1.ent then some 9
    else
      match f1.st with
      | .blocked (.trap ..) => some 9
      | .blocked _ => if f1.pc = f0.pc then some 10 else some 6
      | _ =>
        if f1.last ≠ f0.last || f1.pc ≠ f0.pc || f1.st ≠ f0.st || f1.invIn ≠ f0.invIn || f1.mask ≠ f0.mask then some 6
        else if s1.settled l t1 then some 7
        else none
  | some _, none => if (s1.selTeam l x).isSome then some 6 else some 9
  | none, _ => some 6

/-- R416: the fragment DBGFSEL names after a step. -/
def State.stepSel (s0 s1 : State) (l : Launch) (x : Sel) : Option Sel :=
  match s1.selTeam l x with
  | none => none
  | some t =>
    match t.groups[x.2.2.1]? with
    | none => none
    | some g =>
      let mask := ((s0.selFrag l x).map (fun y => y.2.2.mask)).getD 0
      let fused := if mask = 0 then none else g.frags.find? (fun f => f.mask &&& mask == mask)
      let ready := g.frags.find? (fun f => f.st == .ready && g.frags.all (fun k => k.st != .ready || decide (f.age ≤ k.age)))
      (((g.frag? x.2.2.2).or fused).or ready).map (fun f => (x.1, x.2.1, x.2.2.1, f.ent))

/-- R416: after the step's fragment has been let act, what the step will end with. -/
def State.afterStep (s0 s1 : State) (p : Nat) : State :=
  match s0.attached p with
  | some (d, l) =>
    match d.step, d.stepEnd with
    | some x, none =>
      match State.stepReason s0 s1 l x with
      | some r => s1.modDbg p (fun d => { d with stepEnd := some r, fsel := State.stepSel s0 s1 l x })
      | none => s1
    | _, _ => s1
  | none => s1

/-- R416: a step that has acted ends once its word has met R34 and R169, and a trap it raised has been delivered. -/
def State.stepOver (s : State) (p : Nat) : Bool :=
  match s.attached p with
  | some (d, l) =>
    d.stepEnd.isSome &&
      s.teams.all (fun t => t.seq != l.seq || t.res != .resident ||
        (s.homeOps.all (fun q => q.team != t.id || s.queueWaits q) && s.msgs.all (fun m => m.team != t.id) &&
         t.groups.all (fun g =>
           g.pend.all (s.pendStands t) &&
           g.frags.all (fun f => match f.st with | .blocked (.trap ..) => d.susp.any (fun y => y.1 == t.id) || s.faultHeld l t | _ => true))))
  | none => false

/-- R416: the reason a step ends with: a fragment that blocked (10) may have been served since. -/
def State.stepResult (s : State) (l : Launch) (d : Dbg) : Nat :=
  match d.stepEnd with
  | some 10 => (match d.step.bind (s.selFrag l) with | some (_, _, f) => (match f.st with | .blocked _ => 7 | _ => 6) | none => 6)
  | r => r.getD 6

/-- R416: a step ends; an event it met gives its reason; a write of DBGATT during it takes effect. -/
def State.endStep (s : State) (p : Nat) : State :=
  match s.attached p with
  | some (d, l) =>
    let s := (s.settleLaunch l.seq).modDbg p (fun d =>
      { d with step := none, stepEnd := none, pending := none, leave := none,
               reason := match d.pending with | some e => e.reason | none => s.stepResult l d,
               idx := match d.pending with | some e => e.idx | none => 0 })
    let s := s.setStat .debug (dbgCmdOff p) 0 false
    match d.leave with
    | some (seq, path) =>
      let s := s.detach p
      if seq = 0 then s else s.attach p seq path
    | none => s
  | none => s

/-! ### Registers and memory (R418) -/

/-- A selected group with its launch and team. -/
def State.selGroup (s : State) (l : Launch) (x : Sel) : Option (Team × Group) :=
  (s.selTeam l x).bind (fun t => (t.groups[x.2.2.1]?).map (fun g => (t, g)))

/-- The k-th 8-byte word of a list of bytes. -/
def byteWord (bs : List Byte) (k : Nat) : Word := BitVec.ofNat 64 (leNat ((bs.drop (8 * k)).take 8))

/-- R92, R94: a special register as rdsr reads it. -/
def State.debugSpecial (s : State) (l : Launch) (t : Team) (gi : Nat) (g : Group) (lane : Nat) (sr : SpecialReg) : Word :=
  if sr = .laneid then BitVec.ofNat 64 lane
  else
    Issue.special { who := .frag t.id gi 0, team := t, gi := gi, grp := g, frag := Frag.blank, la := l, word := 0, pc := 0, lanes := 0,
                    s := s } sr

/-- R418: what REGRD reads, or none for BADSEL. -/
def State.debugRead (s : State) (l : Launch) (t : Team) (gi : Nat) (g : Group) (file lane k : Nat) : Option Word :=
  let W := l.r.width
  let when_ (c : Bool) (v : Word) : Option Word := if c then some v else none
  match file with
  | 0 => when_ (decide (k < l.r.vregs) && decide (lane < W)) (g.raw (.v k lane))
  | 1 => when_ (decide (k < 64)) (g.raw (.s k))
  | 2 => when_ (decide (1 ≤ k) && decide (k < 8)) (Cells.get 0 g.p k)
  | 3 =>
    let b := Cells.get ⟨0, 0, 0, 0, 0, 0⟩ g.b (64 * (k / 8) + lane)
    when_ (decide (k < 64) && decide (k % 8 < 6) && decide (lane < W))
      ([b.lo.setWidth 64, b.hi.setWidth 64, b.ylo.setWidth 64, b.yhi.setWidth 64, b.iter.setWidth 64, b.status.setWidth 64].getD (k % 8) 0)
  | 4 => when_ (t.ownsStore && decide (k < 4096) && decide (lane < 48)) ((Cells.get 0 t.acc (4096 * lane + k)).setWidth 64)
  | 5 => when_ (decide (k < 128)) (byteWord ((t.bars.getD (k / 8) Bar.zero).image) (k % 8))
  | 6 => (SpecialReg.ofCode k).bind (fun sr => when_ (sr != .laneid || decide (lane < W)) (s.debugSpecial l t gi g lane sr))
  | 7 => (g.frag? (k / 8)).bind (fun f => when_ (decide (k % 8 < 3)) (byteWord f.image (k % 8)))
  | 8 => when_ (decide (8 * k + 8 ≤ 256 * l.r.scr)) (byteWord (Cells.slice 0 t.scratch (8 * k) 8) 0)
  | 9 =>
    when_ (decide (8 * k + 8 ≤ l.r.lmemBytes) && decide (lane < W)) (byteWord (Cells.slice 0 g.lmem (4096 * lane + 8 * k) 8) 0)
  | _ => none

/-- R418: what REGWR writes: STAT, and the state after. A fragment whose PC is moved away has left an inv in progress (R306). -/
def State.debugWrite (s : State) (l : Launch) (t : Team) (gi : Nat) (g : Group) (file lane k : Nat) (v : Word) : Nat × State :=
  let put (f : Group → Group) : Nat × State := (0, s.modGroup t.id gi f)
  if (s.debugRead l t gi g file lane k).isNone then (3, s)
  else
    match file with
    | 0 => if g.interlocked [.v k 1] then (6, s) else put (fun g => g.write (.v k lane) v)
    | 1 => if g.interlocked [.s k] then (6, s) else put (fun g => g.write (.s k) v)
    | 2 => if g.interlocked [.p k] then (6, s) else put (fun g => { g with p := Cells.set 0 g.p k v })
    | 6 =>
      match SpecialReg.ofCode k with
      | some .mode => put (Group.writeSpecial .mode v)
      | some .flags => put (Group.writeSpecial .flags v)
      | some .gstat => put (Group.writeSpecial .gstat v)
      | _ => (3, s)
    | 7 => if k % 8 = 1 && v.toNat % 8 = 0 then put (fun g => g.modFrag (k / 8) (fun f => { f with pc := v, invIn := none })) else (3, s)
    | 8 => (0, s.modTeam t.id (fun t => { t with scratch := Cells.splice 0 t.scratch (8 * k) (leBytes 8 v.toNat) }))
    | 9 => put (fun g => { g with lmem := Cells.splice 0 g.lmem (4096 * lane + 8 * k) (leBytes 8 v.toNat) })
    | _ => (3, s)

/-- The place of a MEMRD or MEMWR, or none where it does not translate. -/
def State.debugPlace (s : State) (l : Launch) (a : Access) (va : Word) : State × Option (Loc × Tr) :=
  match s.reach1 (l.space ((s.diesOf l.part).headD 0)) a (a == .read) false 8 va with
  | (s, .ok c) => (s, some c)
  | (s, .error _) => (s, none)

/-- R409: the fragment DBGSEL selects. -/
def State.selected (s : State) (p : Nat) (d : Dbg) : Option Sel :=
  let x := selOf (s.dbgReg p 0x28)
  if x.1 = 0xFFFF then d.fsel else some x

/-! ### DBGCMD (R409) -/

/-- R409, R411-R418: an operation of DBGCMD. -/
def State.debugOp (s : State) (p op : Nat) : State :=
  let off := dbgCmdOff p
  let stat (s : State) (k : Nat) : State := s.setStat .debug off k false
  let dataOff := 0x400 * p + 0x38
  if op = 0 || 7 < op then stat s 7
  else
    match s.attached p with
    | none => stat s 1
    | some (d, l) =>
      if s.dbgPerm p != 2 then stat s 4
      else
        let sel := s.selected p d
        let v := s.dbgReg p 0x28
        let file := field v 27 24
        let lane := field v 35 30
        let k := field v 15 0
        match op with
        | 1 => if d.stopped then stat s 0 else (s.askStop p { reason := 1, idx := 0, at_ := s.clock, frag := none }).setStat .debug off 0 true
        | 2 => if d.stopped then stat (s.continueLaunch p) 0 else stat s 2
        | 3 =>
          if !d.stopped then stat s 2
          else
            match sel.bind (fun x => (s.selFrag l x).map (fun _ => x)) with
            | some x =>
              let s := s.modDbg p (fun d => { d with step := some x, stepEnd := none })
              ((s.selTeam l x).elim s s.releaseFaults).setStat .debug off 0 true
            | none => stat s 3
        | 4 | 5 =>
          if !d.stopped then stat s 2
          else
            match sel.bind (fun x => (s.selGroup l x).map (fun y => (x, y))) with
            | none => stat s 3
            | some (x, t, g) =>
              if op = 4 then
                match s.debugRead l t x.2.2.1 g file lane k with
                | some w => stat (s.setHreg .debug dataOff w) 0
                | none => stat s 3
              else
                let r := s.debugWrite l t x.2.2.1 g file lane k (s.hreg .debug dataOff)
                stat r.2 r.1
        | _ =>
          let va := s.dbgReg p 0x40
          match s.debugPlace l (if op = 6 then .read else .write) va with
          | (s, none) => stat s 3
          | (s, some c) =>
            if op = 6 then stat (s.setHreg .debug dataOff (BitVec.ofNat 64 (leNat (s.homeBytes c.1 8)))) 0
            else stat ((s.collapseAt l.asid va.toNat).writeHome c.1 (leBytes 8 (s.hreg .debug dataOff).toNat)) 0

/-- R409: whether BUSY of DBGCMD reads 1: a STOP or a STEP is under way. -/
def State.dbgBusy (s : State) (p : Nat) : Bool :=
  (s.hreg .debug (dbgCmdOff p)).getLsbD 63 &&
    (match s.dbg[p]? with | some d => d.att && (d.step.isSome || d.pending.isSome) | none => false)

/-- R409: a write to DBGCMD. -/
def State.writeDbgcmd (s : State) (p : Nat) (v : Word) (path : Path) : State :=
  let off := dbgCmdOff p
  s.guardWrite path .debug off (fun s =>
    let s := if s.dbgBusy p then s else s.setHreg .debug off (s.hreg .debug off &&& 0x7FFFFFFFFFFFFFFF)
    s.command .debug off 0xF 5 v (fun s => s.debugOp p (field v 3 0)))

/-- R411, STOP. -/
def execStop (p : Nat) (path : Path) (s : State) : Outcome State Fault Refusal :=
  .next (s.writeDbgcmd p (BitVec.ofNat 64 (2 ^ 63 + 1)) path)

/-- R415, CONTINUE. -/
def execDbgContinue (p : Nat) (path : Path) (s : State) : Outcome State Fault Refusal :=
  .next (s.writeDbgcmd p (BitVec.ofNat 64 (2 ^ 63 + 2)) path)

/-- R416, STEP. -/
def execDbgStep (p : Nat) (path : Path) (s : State) : Outcome State Fault Refusal :=
  .next (s.writeDbgcmd p (BitVec.ofNat 64 (2 ^ 63 + 3)) path)

/-- R418, REGRD. -/
def execRegrd (p : Nat) (path : Path) (s : State) : Outcome State Fault Refusal :=
  .next (s.writeDbgcmd p (BitVec.ofNat 64 (2 ^ 63 + 4)) path)

/-- R418, REGWR. -/
def execRegwr (p : Nat) (path : Path) (s : State) : Outcome State Fault Refusal :=
  .next (s.writeDbgcmd p (BitVec.ofNat 64 (2 ^ 63 + 5)) path)

/-- R418, MEMRD. -/
def execMemrd (p : Nat) (path : Path) (s : State) : Outcome State Fault Refusal :=
  .next (s.writeDbgcmd p (BitVec.ofNat 64 (2 ^ 63 + 6)) path)

/-- R418, MEMWR. -/
def execMemwr (p : Nat) (path : Path) (s : State) : Outcome State Fault Refusal :=
  .next (s.writeDbgcmd p (BitVec.ofNat 64 (2 ^ 63 + 7)) path)

/-! ### Samples (R421, R422) -/

/-- R422: the access has written its result, or its registration is acknowledged. -/
def State.sampleDone (s : State) (x : Sample) : Bool :=
  s.homeOps.all (fun q => !(q.team == x.team && q.grp == x.grp && q.word == x.word && q.lane.getD x.lane == x.lane)) &&
    (match (s.team? x.team).bind (fun t => t.groups[x.grp]?) with
     | some g => g.pend.all (fun p => p.id != x.pend)
     | none => true)

/-- R422: whether the access passes the stages L1, slices, atoll crossbars, central crossbars, die links, peer links and memory
controllers. -/
def Sample.stages (x : Sample) : List Bool :=
  let out := decide (1 ≤ x.level)
  [true, out, out, out, x.level == 4 || (decide (2 ≤ x.level) && x.far), x.level == 4, decide (3 ≤ x.level)]

/-- R422: the cycles waited in each stage's queues, and TOTAL: the stage fields are timing, so what they hold of TOTAL is free; a stage that
is not passed reads 0. -/
def Sample.cycles (x : Sample) (now nonce : Nat) : List Nat :=
  let total := now - x.clk
  let r := x.stages.zipIdx.foldl (fun (a : List Nat × Nat) y =>
    let q := if y.1 then (Config.queueCycles nonce y.2).toNat % (total - a.2 + 1) else 0
    (a.1 ++ [q], a.2 + q)) ([], 0)
  (r.1 ++ [total]).map (min 0xFFFF)

/-- R421: the record of a sample whose access is complete. -/
def State.postSample (s : State) (l : Launch) (x : Sample) : State :=
  let p := l.part
  let base := s.dbgReg p 0x160
  let size := field base 3 0
  let pos := ((s.dbg[p]?).map Dbg.smppos).getD 0
  if size < 6 || 15 < size then s
  else
    let q := x.cycles s.clock s.nonce
    let pack (k : Nat) : Word :=
      BitVec.ofNat 64 (q.getD k 0 * 2 ^ 48 + q.getD (k + 1) 0 * 2 ^ 32 + q.getD (k + 2) 0 * 2 ^ 16 + q.getD (k + 3) 0)
    let ws : List Word := x.head ++ [pack 0, pack 4, BitVec.ofNat 64 x.clk, BitVec.ofNat 64 pos]
    match s.storeWords (l.space x.die) (BitVec.ofNat 64 (field base 63 12 * 2 ^ 12 + 64 * (pos % 2 ^ size))) ws with
    | some s => s.modDbg p (fun d => { d with smppos := d.smppos + 1 })
    | none => s.modDbg p (fun d => { d with smpdrop := d.smpdrop + 1 })

/-- R420, R421: the samples of a partition whose accesses are complete are recorded, those of one group in issue order. -/
def State.postSamples (s : State) (p : Nat) : State :=
  match s.attached p with
  | none => s
  | some (d, l) =>
    let r := d.samples.foldl (fun (a : State × List Sample) x =>
      if s.sampleDone x && a.2.all (fun y => !(y.team == x.team && y.grp == x.grp)) then (a.1.postSample l x, a.2)
      else (a.1, a.2 ++ [x])) (s, [])
    if r.2 = d.samples then s else r.1.modDbg p (fun d => { d with samples := r.2 })

/-! ### Counters (R423) -/

/-- R423: a write to CNTCFGi clears total i. -/
def State.writeCntcfg (s : State) (p i : Nat) (v : Word) (path : Path) : State :=
  let off := 0x400 * p + 0x180 + 8 * i
  s.guardWrite path .debug off (fun s =>
    (s.setHreg .debug off (v &&& 0xFF)).modDbg p (fun d => { d with counts := d.counts.set i 0 }))

/-- R423, CNTCFG_WRITE. -/
def execCntcfgWrite (p i : Nat) (v : BitVec 64) (path : Path) (s : State) : Outcome State Fault Refusal :=
  if i < 8 then .next (s.writeCntcfg p i v path) else .next s

/-- R423: CNTi: the total and every core's current count. -/
def Dbg.count (d : Dbg) (i : Nat) : Nat :=
  (d.coreCounts.filter (fun c => decide (c.1 < 2 ^ 20) && c.1 % 8 == i)).foldl (fun n c => n + c.2) (d.counts.getD i 0)

/-- R423: one cycle of every core with a resident team of an attached launch is counted. -/
def State.tickCounts (s : State) : State :=
  s.dbg.foldl (fun s d =>
    if !d.att then s
    else
      ((s.teams.filter (fun t => t.seq == d.seq && t.here)).foldl (fun (a : State × List (Nat × Nat)) t =>
        if a.2.contains (t.die, t.core) then a else (a.1.tally t 1 1, (t.die, t.core) :: a.2)) (s, [])).1) s

end Sys2Proof.Machine
end

