-- ==== Sys2Proof/Machine/Scan.lean ====
section
/-! DEFINITION. The scan unit and the carry chain (R216-R227, R298-R305). -/

namespace Sys2Proof.Machine

open Host (Outcome)

/-! ### The operator kinds (R219) -/

/-- R219: how a scan rounds: SR as RNE, overflow by R63, FTZ by MODE. -/
def scanRounding (rnd : Rnd) (ftz : Bool) : Rounding := { rm := if rnd = .sr then .rne else rnd, dith := 0, ftz := ftz }

/-- R219: the ring of a .rng scan. -/
def ringBits (k32 : Bool) : Nat := if k32 then 32 else 16

/-- R219: the identity of a kind, as bits. -/
def scanIdentity : ScanKind → Nat
  | .aff _ => 0
  | .trp => FFmt.f32.inf true
  | .rng _ => 0

/-- R219: P before the first step. -/
def scanOne : ScanKind → Nat
  | .aff _ => oneOf .f32 false
  | .trp => 0
  | .rng _ => 1

/-- R219: PRE(a). -/
def scanPre (pre : ScanPre) (ftz : Bool) (a : Nat) : Nat × BitVec 6 :=
  match pre with
  | .none => (a, 0)
  | .exp2 => transcend .exp2 .f32 ftz a
  | .sig => transcend .sig .f32 ftz a

def f32Fma (r : Rounding) (a b c : Nat) : Nat × BitVec 6 :=
  fpFma .f32 r (unpack .f32 r.ftz a) (unpack .f32 r.ftz b) (unpack .f32 r.ftz c)

def f32Mul (r : Rounding) (a b : Nat) : Nat × BitVec 6 := fpMul .f32 r (unpack .f32 r.ftz a) (unpack .f32 r.ftz b)

def f32Add (r : Rounding) (a b : Nat) : Nat × BitVec 6 := fpAdd .f32 r (unpack .f32 r.ftz a) (unpack .f32 r.ftz b)

def f32Max (r : Rounding) (a b : Nat) : Nat × BitVec 6 := fpMinMax .f32 false (unpack .f32 r.ftz a) (unpack .f32 r.ftz b)

/-- R219: h_s and P_s of one channel from a, b, h_{s-1} and P_{s-1}. -/
def scanStep (k : ScanKind) (r : Rounding) (a b h p : Nat) : Nat × Nat × BitVec 6 :=
  match k with
  | .aff pre =>
    let a' := scanPre pre r.ftz a
    let y := f32Fma r a'.1 h b
    let q := f32Mul r p a'.1
    (y.1, q.1, a'.2 ||| y.2 ||| q.2)
  | .trp =>
    let sum := f32Add r a h
    let y := f32Max r sum.1 b
    let q := f32Add r p a
    (y.1, q.1, sum.2 ||| y.2 ||| q.2)
  | .rng k32 =>
    let m := 2 ^ ringBits k32
    ((a % m * (h % m) + b) % m, p % m * (a % m) % m, 0)

/-- R219: Fix(P, h_in, h). -/
def scanFix (k : ScanKind) (r : Rounding) (p hin h : Nat) : Nat × BitVec 6 :=
  match k with
  | .aff _ => f32Fma r p hin h
  | .trp =>
    let sum := f32Add r p hin
    let y := f32Max r sum.1 h
    (y.1, sum.2 ||| y.2)
  | .rng k32 =>
    let m := 2 ^ ringBits k32
    ((p % m * (hin % m) + h) % m, 0)

/-! ### The arrays (R218) -/

/-- The first d elements of step row s of an array. -/
def scanRow (sc : Cells Byte) (ofs d s : Nat) : List Nat := chunksLe 4 d (Cells.slice 0 sc (ofs + 256 * s) (4 * d))

def setScanRow (sc : Cells Byte) (ofs s : Nat) (xs : List Nat) : Cells Byte :=
  Cells.splice 0 sc (ofs + 256 * s) (xs.flatMap (leBytes 4))

/-- What a scan carries from step to step: scratchpad, rows of h and P, and flags. -/
structure ScanRun where
  sc : Cells Byte
  h  : List Nat
  p  : List Nat
  fl : BitVec 6
  deriving DecidableEq, Repr

/-- R220: one step of every channel: all reads of the step come before its writes. -/
def ScanRun.step (c : ScanCfg) (r : Rounding) (x : ScanRun) (s : Nat) : ScanRun :=
  let as := scanRow x.sc c.aOfs c.d s
  let bs := scanRow x.sc c.bOfs c.d s
  let rs := (List.range c.d).map (fun i => scanStep c.kind r (as.getD i 0) (bs.getD i 0) (x.h.getD i 0) (x.p.getD i 0))
  let h := rs.map Prod.fst
  let p := rs.map (fun y => y.2.1)
  { sc := setScanRow (setScanRow x.sc c.hOfs s h) c.pOfs s p, h := h, p := p, fl := x.fl ||| orAll (rs.map (fun y => y.2.2)) }

/-- R220: a whole srun. -/
def scanRun (c : ScanCfg) (r : Rounding) (sc : Cells Byte) : ScanRun :=
  (List.range 64).foldl (ScanRun.step c r)
    ⟨sc, List.replicate c.d (scanIdentity c.kind), List.replicate c.d (scanOne c.kind), 0⟩

/-- The carry-in of a channel; a broken carry gives the identity (R225). -/
def carryIn (k : ScanKind) (cin : Cells Lane) (cb : Bool) (c : Nat) : Nat :=
  if cb then scanIdentity k else (Cells.get 0 cin c).toNat

/-- R223: a whole sfix: the scratchpad and the flags. -/
def scanFixAll (c : ScanCfg) (r : Rounding) (cin : Cells Lane) (cb : Bool) (sc : Cells Byte) : Cells Byte × BitVec 6 :=
  (List.range 64).foldl (fun (x : Cells Byte × BitVec 6) s =>
    let ps := scanRow x.1 c.pOfs c.d s
    let hs := scanRow x.1 c.hOfs c.d s
    let rs := (List.range c.d).map (fun i => scanFix c.kind r (ps.getD i 0) (carryIn c.kind cin cb i) (hs.getD i 0))
    (setScanRow x.1 c.hOfs s (rs.map Prod.fst), x.2 ||| orAll (rs.map Prod.snd))) (sc, 0)

/-- A list of channel values as cells. -/
def channels (xs : List Nat) : Cells Lane := Cells.splice 0 [] 0 (xs.map (BitVec.ofNat 32))

/-- R220, R226: the oldest operation of the team's scan unit completes. -/
def State.scanComplete (s : State) (tid : Nat) : State :=
  match s.team? tid with
  | none => s
  | some t =>
    match t.scanq, s.launch? t.seq with
    | op :: rest, some l =>
      if s.cmdHeld l 3 op.num then s
      else
        let r := scanRounding op.rnd op.ftz
        let s :=
          match op.kind with
          | .run =>
            let y := scanRun op.cfg r t.scratch
            (s.modTeam tid (fun t =>
              { t with scratch := y.sc, aggH := channels y.h, aggP := channels y.p, scanq := rest })).engineFlags tid op.grp 3 op.num y.fl
          | .fix =>
            let y := scanFixAll op.cfg r op.cin op.cb t.scratch
            (s.modTeam tid (fun t => { t with scratch := y.1, scanq := rest })).engineFlags tid op.grp 3 op.num y.2
        (s.completeNumber l.r.ctx 3 op.num).tally t 8 (match op.kind with | .run => 400 | .fix => 70)
    | _, _ => s

/-! ### Issue -/

/-- R220, R302: the configuration of the issuing group, or the ILL of a group without one. -/
def Issue.withCfg (x : Issue) (k : ScanCfg → Act) : Act :=
  match x.grp.scanCfg x.s.clock x.s.nonce with
  | some c => k c
  | none => .trap { code := cILL, sub := 1, tval := x.word }

/-- R217: the checks of the arrays a word uses. -/
def Issue.arrayTrap (x : Issue) (offs : List Nat) : Option Trap :=
  match offs.find? (fun o => !aligned o 64) with
  | some o => some { code := cALIGN, tval := BitVec.ofNat 64 o }
  | none =>
    (offs.find? (fun o => decide (256 * x.la.r.scr < o + 16384))).map (fun o =>
      { code := cMEMF, sub := 1, tval := BitVec.ofNat 64 o })

/-- R226: an operation joins the scan unit's queue with the next number of the scan timeline. -/
def Issue.queueScan (x : Issue) (kind : ScanKindOp) (c : ScanCfg) (cycles : Nat) : State :=
  let r := x.s.accept x.la x.team x.gi 3
  let start := x.team.scanq.foldl (fun m o => max m o.due) x.s.clock
  x.modT r.1 (fun t =>
    { t with scanq := t.scanq ++ [⟨kind, r.2, x.gi, c, effRnd .dyn x.grp.mode, modeFtz x.grp.mode, t.cin, t.cb, start + cycles⟩] })

/-- R217: scfg. -/
def execScfg (h : Hdr) (a b : Fin 64) (dch : BitVec 7) (kind : ScanKind) (s : State) : Outcome State Fault Refusal :=
  word (.scfg h a b dch kind) s fun x =>
    let va := x.sreg a
    let vb := x.sreg b
    let c : ScanCfg := ⟨kind, dch.toNat, field va 18 0, field va 50 32, field vb 18 0, field vb 50 32⟩
    .done (x.modG x.s (fun g => g.launchFlight ⟨x.s.clock + 4, [], 0, some c⟩))

/-- R220, R304: srun. -/
def execSrun (h : Hdr) (s : State) : Outcome State Fault Refusal :=
  word (.srun h) s fun x =>
    if x.acquiring then .wait
    else
      x.withCfg fun c =>
        match x.arrayTrap [c.aOfs, c.bOfs, c.hOfs, c.pOfs] with
        | some c => .trap c
        | none => .done (x.queueScan .run c 400)

/-- R224: a SCANORD trap. -/
def Issue.scanOrd (x : Issue) (sub : Nat) : Act :=
  .trap { code := cSCANORD, sub := sub, tval := BitVec.ofNat 64 (x.team.chainPos.getD 0xFFFFFFFF) }

/-- R223: sfix. -/
def execSfix (h : Hdr) (s : State) : Outcome State Fault Refusal :=
  word (.sfix h) s fun x =>
    if x.acquiring then .wait
    else
      x.withCfg fun c =>
        if !x.team.cv then x.scanOrd 2
        else
          match x.arrayTrap [c.hOfs, c.pOfs] with
          | some c => .trap c
          | none => .done (x.queueScan .fix c 70)

/-! ### The chain -/

/-- R299: the carry in the entry of a position. -/
def State.carryAt (s : State) (seq pos : Nat) : Option Carry := s.chain.find? (fun c => c.seq == seq && c.pos == pos && c.full)

/-- R225, R305: a position has broken. -/
def State.isBroken (s : State) (seq pos : Nat) : Bool := s.broken.any (fun b => b.seq == seq && b.pos == pos)

/-- R221, R302: the carry-in a scin sets from a carry: channels that it does not cover read the identity. -/
def carried (k : ScanKind) (c : Carry) : Cells Lane :=
  channels ((List.range 64).map (fun i => if i < c.dc then (Cells.get 0 c.val i).toNat else scanIdentity k))

/-- The identity in every channel. -/
def identityIn (k : ScanKind) : Cells Lane := channels (List.replicate 64 (scanIdentity k))

/-- What a scin meets at the team's position. -/
inductive ScinRes where
  /-- nothing yet -/
  | empty
  /-- R303: position 0 or no chain -/
  | first
  | carry (c : Carry)
  /-- R225: the predecessor broke and left no carry -/
  | broken

def State.scinAt (s : State) (t : Team) : ScinRes :=
  match t.chainPos with
  | none => .first
  | some 0 => .first
  | some (p + 1) =>
    match s.carryAt t.seq (p + 1) with
    | some c => if c.due ≤ s.clock then .carry c else .empty
    | none => if s.isBroken t.seq p then .broken else .empty

/-- R216, R221: the carry-in state a scin leaves. -/
def State.setCin (s : State) (tid : Nat) (cin : Cells Lane) (cb : Bool) : State :=
  s.modTeam tid (fun t => { t with cin := cin, cv := true, cs := false, cb := cb })

/-- R339: the team may no longer be flushed. -/
def State.noFlush (s : State) (tid : Nat) : State := s.modTeam tid (fun t => { t with noFlush := true })

/-- R299: the entry is consumed. -/
def State.consume (s : State) (c : Carry) : State :=
  { s with chain := s.chain.map (fun y => if y.seq == c.seq && y.pos == c.pos then { y with full := false } else y) }

/-- R225: the SCANBRK trap of a team. -/
def scanBrk (t : Team) : Trap := { code := cSCANBRK, tval := BitVec.ofNat 64 ((t.chainPos.getD 0) - 1) }

/-- R221, R225: a scin takes what it meets: the state and the trap it raises, if any; nothing when it must wait. -/
def State.takeCarry (s : State) (t : Team) (k : ScanKind) : Option (State × Option Trap) :=
  match s.scinAt t with
  | .empty => none
  | .first => some (s.setCin t.id (identityIn k) false, none)
  | .carry c =>
    let s := (s.consume c).noFlush t.id
    if c.cb then some (s.setCin t.id (identityIn k) true, some (scanBrk t)) else some (s.setCin t.id (carried k c) false, none)
  | .broken => some (s.setCin t.id (identityIn k) true, some (scanBrk t))

/-- R221: scin. -/
def execScin (h : Hdr) (s : State) : Outcome State Fault Refusal :=
  word (.scin h) s fun x =>
    if x.acquiring || x.busy HomeOp.syncs then .wait
    else
      x.withCfg fun c =>
        match x.s.takeCarry x.team c.kind with
        | none => .block (x.blockAt x.s .scin)
        | some (s, none) => .done (x.acquired s)
        | some (s, some c) => .trapIn (x.modF s (fun f => { f with pc := x.pc })) c

/-- R221: a fragment of the team that waits at scin meets the team's carry. -/
def State.deliverCarry (s : State) (tid : Nat) : State :=
  match s.team? tid with
  | none => s
  | some t =>
    let waiting := t.groups.zipIdx.flatMap (fun g => (g.1.frags.filter (fun f => f.st == .blocked .scin)).map (fun f => (g.2, g.1, f)))
    match waiting with
    | [] => s
    | (gi, g, f) :: _ =>
      match g.scanCfg s.clock s.nonce with
      | none => s
      | some c =>
        match s.takeCarry t c.kind with
        | none => s
        | some (s, none) =>
          (s.acquire (64 * t.die + t.core)).modFrag tid gi f.ent (fun f =>
            { f with pc := nextPc f.pc, st := .ready, wake := max f.wake (s.clock + 1) })
        | some (s, some c) => s.takeTrap (.frag tid gi f.ent) c

/-- R298: the last position of a launch's chain. -/
def Launch.lastPos (l : Launch) : Nat := l.r.spans * l.r.teams - 1

/-- R227: the typical time of a carry between the cores of two teams. -/
def State.chainTime (s : State) (a : Team) (b : Option Team) : Nat :=
  match b with
  | none => 30
  | some b => if a.die = b.die then 30 else 250 * s.fuses.hops a.die b.die

/-- R222: the carry that scout sends, from AGG and CIN. -/
def scoutCarry (t : Team) (c : ScanCfg) (r : Rounding) : List (Nat × BitVec 6) :=
  (List.range c.d).map (fun i =>
    scanFix c.kind r (Cells.get 0 t.aggP i).toNat (carryIn c.kind t.cin t.cb i) (Cells.get 0 t.aggH i).toNat)

/-- R222, R224, R300, R334: scout. It waits at issue for the team's scans and the group's other earlier work; a carry for another die leaves over
the die links. -/
def execScout (h : Hdr) (s : State) : Outcome State Fault Refusal :=
  word (.scout h) s fun x =>
    if x.releaseBusy || !x.team.scanq.isEmpty then .wait
    else
      x.withCfg fun c =>
        let last := match x.team.chainPos with | none => true | some p => p == x.la.lastPos
        let pos := (x.team.chainPos.getD 0) + 1
        if !x.team.cv then x.scanOrd 2
        else if x.team.cs then x.scanOrd 3
        else if !last && (x.s.carryAt x.team.seq pos).isSome then x.scanOrd 1
        else
          let s := x.modT x.s (fun t => { t with cs := true })
          if last then .done s
          else
            let rs := scoutCarry x.team c (scanRounding (effRnd .dyn x.grp.mode) (modeFtz x.grp.mode))
            let next := x.s.teams.find? (fun y => y.seq == x.team.seq && y.chainPos == some pos)
            let e : Carry := ⟨x.team.seq, pos, channels (rs.map Prod.fst), c.d, x.team.cb, true, s.clock + 10 + s.chainTime x.team next⟩
            let s := s.groupFlags x.team.id x.gi (orAll (rs.map Prod.snd))
            let s := s.noFlush x.team.id
            let s := match next with
              | some y => if y.here then s.countLinks x.la.part x.la.seq (4 * c.d) x.team.die y.die else s
              | none => s
            .done { s with chain := s.chain.filter (fun y => !(y.seq == e.seq && y.pos == e.pos)) ++ [e] }

end Sys2Proof.Machine
end

