-- ==== Sys2Proof/Machine/EvCore.lean ====
section
/-! DEFINITION. The events inside the cores and between them: results (R30, R32), accesses at their homes (R284, R286), join
arrivals (R143), barrier stalls (R196), combiners (R268), engine completions (R212, R226, R236), carries (R221), the Strait and
the Dealer (R239-R244, R316) and messages (R246). An event that cannot happen in a state leaves it as it is. -/

namespace Sys2Proof.Machine

open Host (Outcome)

/-! ### Results -/

/-- The number by which a stream's results are named beside those of teams. -/
def streamTeam (n : Nat) : Nat := 2 ^ 32 + n

/-- A group of a team, or the group view of a stream, changes. -/
def State.modIssuer (s : State) (t g : Nat) (f : Group → Group) : State :=
  if t < 2 ^ 32 then s.modGroup t g f
  else
    s.modStream (t - 2 ^ 32) (fun y =>
      let g := f y.asGroup
      { y with s := g.s, flights := g.flights, pend := g.pend })

/-- A group of a team, or the group view of a stream. -/
def State.issuer? (s : State) (t g : Nat) : Option Group :=
  if t < 2 ^ 32 then (s.team? t).bind (fun x => x.groups[g]?) else (s.streams[t - 2 ^ 32]?).map Stream.asGroup

/-- R30, FIXED_LATENCY_RESULT: the oldest result of a group that is ready is written. -/
def execFixedLatencyResult (t g : Nat) (s : State) : Outcome State Fault Refusal :=
  .next (s.modIssuer t g (fun x => x.landReady s.clock))

/-- R32: a pending result whose values have all come is due. -/
def Group.pendReady (g : Group) (now k : Nat) : Option Pend :=
  g.pend.find? (fun p => p.id == k && p.left == 0 && decide (p.due ≤ now))

/-- R32, PENDING_RESULT_WRITE. -/
def execPendingResultWrite (t g k : Nat) (s : State) : Outcome State Fault Refusal :=
  match (s.issuer? t g).bind (fun x => x.pendReady s.clock k) with
  | some p => .next (s.modIssuer t g (fun x => x.finishPend p))
  | none => .next s

/-! ### Accesses at their homes -/

/-- R170, R184, R284: an access that is registered, not performed at a bank: a store or a fence's mark. -/
def HomeFn.registers : HomeFn → Bool
  | .store _ => true
  | .mark => true
  | _ => false

/-- R284, STORE_REGISTRATION. -/
def execStoreRegistration (k : Nat) (s : State) : Outcome State Fault Refusal :=
  match s.homeOp? k with
  | some p => if p.fn.registers && decide (p.due ≤ s.clock) then .next (s.land p) else .next s
  | none => .next s

/-- R286, HOME_BANK_OPERATION. -/
def execHomeBankOperation (k : Nat) (s : State) : Outcome State Fault Refusal :=
  match s.homeOp? k with
  | some p => if !p.fn.registers && decide (p.due ≤ s.clock) then .next (s.land p) else .next s
  | none => .next s

/-! ### Join arrivals -/

/-- R143, JOIN_ARRIVAL: a fragment about to issue the word at its record's address arrives instead of issuing it. -/
def execJoinArrival (t g e : Nat) (s : State) : Outcome State Fault Refusal :=
  match s.team? t with
  | none => .next s
  | some x =>
    match x.groups[g]? with
    | none => .next s
    | some y =>
      match y.frag? e with
      | some f =>
        if y.atRc f && x.res == .resident && s.mayAct x g y f then
          .next (s.modGroup t g (fun y => (y.arrive s.clock f).tidy s.clock))
        else .next s
      | none => .next s

/-! ### Stalls (R196, R206, R235) -/

/-- R196, R333: the interval's start of a barrier or latch that has waiters, with the TPC and TVAL of its record. -/
def Team.stall (t : Team) (idx : Nat) : Option (Nat × Nat × Nat) :=
  if idx < 16 then
    let b := t.bar idx
    let ws := (t.waiters idx).map Frag.last
    if ws.isEmpty || b.told then none
    else some (max (b.lastAt.getD 0) (ws.foldl min (ws.headD 0)), b.arrg * 256 + b.expg, b.arrt * 256 + b.expt + b.xadd)
  else if idx = 16 then
    match t.latch.head? with
    | some m =>
      if t.latchTold then none
      else some (t.latchAt, t.latch.length * 256 + ((List.range 32).filter (fun g => m.gang.getLsbD g)).length, 0)
    | none => none
  else if idx = 17 && !t.copyLatch.isEmpty && !t.copyTold then
    some (t.copyAt, t.copyLatch.length * 256 + t.copyGroups.length, 0)
  else none

/-- R196: the stall is reported once. -/
def Team.tellStall (t : Team) (idx : Nat) : Team :=
  if idx < 16 then { t with bars := modNth t.bars idx (fun b => { b with told := true }) }
  else if idx = 16 then { t with latchTold := true }
  else { t with copyTold := true }

/-- R196, R411: the watchdog of a team has run out for a barrier or latch. -/
def State.stalled (s : State) (t : Team) (idx : Nat) : Option (Launch × Nat × Nat) :=
  match s.launch? t.seq, t.stall idx with
  | some l, some (since, tpc, tval) =>
    if t.res == .resident && l.r.wdog != 0 && !s.stoppedNow t.seq && decide (since + l.r.wdog * 16 * us < s.clock) then
      some (l, tpc, tval)
    else none
  | _, _ => none

/-- R196, BARSTALL. -/
def execBarstall (t idx : Nat) (s : State) : Outcome State Fault Refusal :=
  match s.team? t with
  | some y =>
    match s.stalled y idx with
    | some (l, tpc, tval) =>
      .next ((s.modTeam t (fun y => y.tellStall idx)).postFault l 0xFF y.idx y.span 0 cBARSTALL idx (BitVec.ofNat 64 tpc)
        (BitVec.ofNat 64 tval))
    | none => .next s
  | none => .next s

/-! ### Combiners -/

def CombTo.isRelease : CombTo → Bool
  | .release .. => true
  | _ => false

/-- A message between combiners that is due. -/
def State.combMsg? (s : State) (k : Nat) (rel : Bool) : Option CombMsg :=
  s.combMsgs.find? (fun m => m.id == k && m.to_.isRelease == rel && decide (m.due ≤ s.clock))

def State.dropCombMsg (s : State) (k : Nat) : State := { s with combMsgs := s.combMsgs.filter (fun m => m.id != k) }

/-- R268, COMBINER_ARRIVAL. -/
def execCombinerArrival (k : Nat) (s : State) : Outcome State Fault Refusal :=
  match s.combMsg? k false with
  | some m => .next ((s.dropCombMsg k).combArrive m)
  | none => .next s

/-- R268, COMBINER_RELEASE. -/
def execCombinerRelease (k : Nat) (s : State) : Outcome State Fault Refusal :=
  match s.combMsg? k true with
  | some m => .next ((s.dropCombMsg k).combRelease m)
  | none => .next s

/-! ### Engines -/

/-- R212, MATRIX_OPERATION_COMPLETE. -/
def execMatrixOperationComplete (t k : Nat) (s : State) : Outcome State Fault Refusal := .next (s.matComplete t k)

/-- R236, COPY_TRANSFER_COMPLETE. -/
def execCopyTransferComplete (t k : Nat) (s : State) : Outcome State Fault Refusal := .next (s.copyComplete t k)

/-- R226, SCAN_OPERATION_COMPLETE. -/
def execScanOperationComplete (t : Nat) (s : State) : Outcome State Fault Refusal := .next (s.scanComplete t)

/-- R221, R299: a fragment of a running team waits at scin and the carry, or the break, has come. -/
def State.carryReady (s : State) (t : Team) : Bool :=
  t.res == .resident &&
    (match t.groups.zipIdx.find? (fun g => g.1.frags.any (fun f => f.st == .blocked .scin && !s.debugHolds t g.2 f.ent)) with
     | some g => (g.1.scanCfg s.clock s.nonce).isSome && (match s.scinAt t with | .empty => false | _ => true)
     | none => false)

/-- R221, R299, CARRY_DELIVERY: to a team that runs. -/
def execCarryDelivery (t : Nat) (s : State) : Outcome State Fault Refusal :=
  match s.team? t with
  | some y => if s.carryReady y then .next (s.deliverCarry t) else .next s
  | none => .next s

/-! ### The Strait and the Dealer -/

/-- A word on its way that is due. -/
def State.word? (s : State) (k : Nat) (abort : Bool) : Option StraitWord :=
  s.words.find? (fun w => w.id == k && w.abort == abort && !w.arrived && decide (w.due ≤ s.clock))

/-- R243, STRAIT_WORD_ARRIVAL. -/
def execStraitWordArrival (k : Nat) (s : State) : Outcome State Fault Refusal :=
  match s.word? k false with
  | some w => .next (s.wordArrives w)
  | none => .next s

/-- R244, ABORT. -/
def execAbort (k : Nat) (s : State) : Outcome State Fault Refusal :=
  match s.word? k true with
  | some w => .next (s.wordArrives w)
  | none => .next s

/-- R239, HAND: k is 64 times the group plus the split-table entry. -/
def execHand (t k : Nat) (s : State) : Outcome State Fault Refusal := .next (s.handTimeout t (k / 64) (k % 64))

/-- R243, GATE_TIMEOUT. -/
def execGateTimeout (t k : Nat) (s : State) : Outcome State Fault Refusal := .next (s.exchTimeout t k)

/-- R316, HAND_DEAL. -/
def execHandDeal (pair st : Nat) (s : State) : Outcome State Fault Refusal := .next (s.dealHand pair st)

/-- R316, ENTROPY_HEALTH_FAILURE: dealing stops and a level-1 alarm is raised. -/
def execEntropyHealthFailure (s : State) : Outcome State Fault Refusal := .next (({ s with dealing := false } : State).alarm 5 0 1)

/-! ### Messages -/

/-- R246, MESSAGE_ARRIVAL. -/
def execMessageArrival (k : Nat) (s : State) : Outcome State Fault Refusal :=
  match s.msgs.find? (fun m => m.id == k && decide (m.due ≤ s.clock)) with
  | some m => .next (s.msgArrives m)
  | none => .next s

end Sys2Proof.Machine
end

