-- ==== Sys2Proof/Machine/Power.lean ====
section
/-! DEFINITION. Power states and frequency levels of the islands (R441, R442), with their events. -/

namespace Sys2Proof.Machine

open Host (Outcome)

/-! ### Idle islands -/

/-- R441: no request to, from or through a die is outstanding. -/
def State.noTraffic (s : State) (die : Nat) : Bool :=
  let passes (a b : Nat) : Bool := ((s.fuses.posOf a) :: s.fuses.route s.gone a b).contains (s.fuses.posOf die)
  s.homeOps.all (fun p =>
    let src := if 512 ≤ p.core then 0 else p.core / 64
    if p.loc.peer != 0 || !inDram p.loc.pa then src != die else !passes src (homeDie p.loc.pa)) &&
    s.msgs.all (fun m => !passes m.srcDie (adDie m.dst))

/-- R441: when an island counts as idle. -/
def State.idleNow (s : State) (i : Nat) : Bool :=
  let d := i / 3
  if i = 24 then s.sec.queues.all (fun q => q.descs.all CinDesc.done)
  else if i = 25 then
    s.words.all StraitWord.arrived && s.msgs.all (fun m => m.srcDie == adDie m.dst) &&
      s.homeOps.all (fun p => p.loc.peer == 0 && p.core / 64 == homeDie p.loc.pa)
  else if 24 < i then false
  else if i % 3 = 0 then s.teams.all (fun t => !(t.here && t.die == d)) && (s.candidate d).isNone
  else if i % 3 = 1 then s.islandSt (3 * d) != 0 && s.noTraffic d
  else s.islandSt (3 * d + 1) != 0 && s.homeOps.all (fun p => p.loc.peer != 0 || !inDram p.loc.pa || homeDie p.loc.pa != d)

/-- R441: the cycle since which each island has been idle is kept as time passes. -/
def State.tickIslands (s : State) : State :=
  { s with islands := s.islands.zipIdx.map (fun x =>
      { x.1 with idleAt := if s.idleNow x.2 then (match x.1.idleAt with | some c => some c | none => some s.clock) else none }) }

/-- R441: the states an island may enter by itself. -/
def mayEnter (i st : Nat) : Bool :=
  if i < 24 then (if i % 3 = 2 then st == 1 else st == 1 || st == 2) else decide (i < 26) && st == 1

/-- R441, R442: an island has been idle long enough for a state whose wake time the host tolerates. -/
def State.mayRest (s : State) (i st : Nat) : Bool :=
  decide (wakeUs st ≤ (s.hreg .power 0).toNat) &&
    (match (s.islands[i]?).bind Island.idleAt with
     | some c => decide (c + 10 * wakeUs st * us ≤ s.clock)
     | none => false)

/-- R441: the state an island enters now: A3 with its whole die, or the deepest that it may enter. -/
def State.restState (s : State) (i : Nat) : Option Nat :=
  let st := s.islandSt i
  if i < 24 && decide (st < 3) && (List.range 3).all (fun k => s.mayRest (i / 3 * 3 + k) 3) then some 3
  else [2, 1].find? (fun t => decide (st < t) && mayEnter i t && s.mayRest i t)

/-- R379: cores of a die that hold content of another tag than 0 are dirty-gated. -/
def State.gateDirty (s : State) (die : Nat) : State :=
  s.modSec (fun x =>
    { x with dgate := x.dgate ++ (x.scrubCore.filter (fun c => c.1 == die && c.2.2.1 != 0 && !x.dgate.contains (die, c.2.1))).map (fun c => (die, c.2.1)) })

/-- R441: a die that is off keeps its DRAM alone. -/
def State.dieOff (s : State) (die : Nat) : State :=
  let s := s.dropSlices (fun x => x.die == die)
  { s with l1 := s.l1.filter (fun x => x.core / 64 != die)
           tlb := s.tlb.filter (fun t => t.die != die)
           walks := s.walks.filter (fun w => w.die != die) }

/-- R441: an island enters a state. -/
def State.rest (s : State) (i st : Nat) : State :=
  let put (s : State) (j : Nat) : State := { s with islands := modNth s.islands j (fun x => { x with st := st, waking := none }) }
  let s := if st = 3 then (put (put (put s (i / 3 * 3)) (i / 3 * 3 + 1)) (i / 3 * 3 + 2)).dieOff (i / 3) else put s i
  if 2 ≤ st && i < 24 && (i % 3 = 0 || st = 3) then s.gateDirty (i / 3) else s

/-- R441, POWER_STATE_ENTRY. -/
def execPowerStateEntry (i : Nat) (s : State) : Outcome State Fault Refusal :=
  match s.restState i with
  | some st => .next (s.rest i st)
  | none => .next s

/-- R441, ISLAND_WAKE. -/
def execIslandWake (i : Nat) (s : State) : Outcome State Fault Refusal := .next (s.wakeIsland i)

/-- R441, WAKE_COMPLETE. -/
def execWakeComplete (i : Nat) (s : State) : Outcome State Fault Refusal :=
  match (s.islands[i]?).bind Island.waking with
  | some c =>
    if c ≤ s.clock then .next { s with islands := modNth s.islands i (fun x => { x with st := 0, waking := none, idleAt := none }) }
    else .next s
  | none => .next s

/-! ### Frequency levels (R442) -/

/-- R442: EBUDGET at a level. -/
def levelBudget (budget lvl : Nat) : Nat :=
  match lvl with
  | 0 => budget
  | 1 => 3 * budget / 4
  | 2 => budget / 2
  | _ => budget / 4

/-- R264, R442: EBUDGET of every die follows its level. -/
def State.setBudgets (s : State) : State :=
  { s with ebudget := (List.range 8).map (fun d => levelBudget s.topBudget (((s.islands[3 * d]?).map Island.f).getD 0)) }

/-- R442, FREQUENCY_LEVEL_CHANGE: the power manager sets a core array's level. -/
def execFrequencyLevelChange (die lvl : Nat) (s : State) : Outcome State Fault Refusal :=
  if 8 ≤ die || 4 ≤ lvl then .next s
  else .next ({ s with islands := modNth s.islands (3 * die) (fun x => { x with f := lvl }) } : State).setBudgets

end Sys2Proof.Machine
end

