-- ==== Sys2Proof/Machine/HostLink.lean ====
section
/-! DEFINITION. The host links and the peer links (R291, R387-R394, R405-R407): TDISP, IDE, SPDM and the evidence, physical
accesses, and requests of peer packages, with their events. -/

namespace Sys2Proof.Machine

open Host (Outcome)

/-! ### Mailboxes -/

/-- R391: a host link delivers TLPs: there are two, and none after an IDE failure until the stream is keyed again. -/
def State.delivers (s : State) (link : Nat) : Bool := decide (link < 2) && !s.sec.ideDead.contains link

/-- R387, R391: a function's mailbox can be reached: a VF's partition exists and its link delivers. -/
def State.mailOpen (s : State) (path : Path) : Bool :=
  match path with
  | .pf0 link => s.delivers link
  | .vf link q => s.hasPart q && s.delivers link
  | .owner _ => false
  | .window => false

/-- A response of the device's mailbox; the codes are those of SPDM and TDISP (log entry 23). -/
def State.respond (s : State) (path : Path) (code : Nat) (body : List Byte) : State := { s with out := s.out ++ [.spdm path code body] }

def cError : Nat := 0x7F

/-! ### TDISP (R393) -/

/-- R388, R393, LOCK_INTERFACE: the VF that is the partition's TDI is locked. -/
def execLockInterface (p link : Nat) (s : State) : Outcome State Fault Refusal :=
  let path : Path := .vf link p
  if !s.mailOpen path then .next s
  else if s.tdiOf p == .unlocked && link == s.tdiLink p then .next ((s.setTdi p .locked).respond path 0x03 [])
  else .next (s.respond path cError [])

/-- R393, START_INTERFACE. -/
def execStartInterface (p : Nat) (s : State) : Outcome State Fault Refusal :=
  let path : Path := .vf (s.tdiLink p) p
  if !s.mailOpen path then .next s
  else if s.tdiOf p == .locked then .next ((s.setTdi p .run).respond path 0x06 [])
  else .next (s.respond path cError [])

/-- R393: STOP_INTERFACE begins: launches killed, streams closed, LIVE slots retired, cores and slices scrubbed. -/
def State.beginStop (s : State) (p : Nat) : State :=
  let s := (s.liveOf p).foldl (fun s seq => s.endLaunch seq 6) s
  let s := s.modSec (fun x => { x with cins := x.cins.filter (fun c => c.part != p), stopping := x.stopping ++ [p] })
  let slots := (s.sec.slots.filter (fun e => e.2.st == .live && e.2.part == p)).map Prod.fst
  let s := slots.foldl (fun s n => s.retireSlot n) s
  let idle := ((s.diesOf p).flatMap (fun d => (List.range 64).map (fun c => (d, c)))).filter (fun c =>
    (s.coreTeams c.1 c.2).isEmpty && !s.sec.scrubCore.any (fun x => x.1 == c.1 && x.2.1 == c.2))
  let s := s.modSec (fun x => { x with scrubCore := x.scrubCore ++ idle.map (fun c => (c.1, c.2, 0, s.clock + 10260)) })
  let s := s.dropSlices (fun x => (s.diesOf p).contains x.die)
  { s with l1 := s.l1.filter (fun x => !(s.diesOf p).contains (x.core / 64)) }

/-- R393: everything a STOP_INTERFACE waits for is complete. -/
def State.stopDone (s : State) (p : Nat) : Bool :=
  (s.liveOf p).isEmpty && s.sec.scrubCore.all (fun c => !(s.diesOf p).contains c.1)

/-- R393, STOP_INTERFACE: it begins, and once all of it is complete the interface is unlocked and the response is sent. -/
def execStopInterface (p : Nat) (s : State) : Outcome State Fault Refusal :=
  let path : Path := .vf (s.tdiLink p) p
  if !s.sec.stopping.contains p then .next (if s.mailOpen path then s.beginStop p else s)
  else if s.stopDone p then
    .next (((s.modSec (fun x => { x with stopping := x.stopping.filter (fun q => q != p) })).setTdi p .unlocked).respond path 0x07 [])
  else .next s

/-- R393, LINK_DOWN: a host link goes down. -/
def execLinkDown (link : Nat) (s : State) : Outcome State Fault Refusal :=
  .next ((s.modSec (fun x => { x with ide := x.ide.set link false })).breakLink link)

/-- R393, FUNCTION_LEVEL_RESET of VF p + 1 on a link. -/
def execFunctionLevelReset (p link : Nat) (s : State) : Outcome State Fault Refusal :=
  if s.hasPart p && s.tdiLink p == link then .next (s.breakTdi p) else .next s

/-- R393, TDI_CONFIGURATION_CHANGE: a change to a TDI's BAR, bus-master or MSI-X enable. -/
def execTdiConfigurationChange (p : Nat) (s : State) : Outcome State Fault Refusal := .next (if s.hasPart p then s.breakTdi p else s)

/-! ### IDE (R391) -/

/-- R391: the stream leaves the secure state; until it is keyed again no TLP is delivered. -/
def State.ideFails (s : State) (link : Nat) : State :=
  if s.ideSecure link then
    (s.modSec (fun x => { x with ide := x.ide.set link false, ideDead := x.ideDead ++ [link] })).breakLink link
  else s

/-- R391, IDE_INTEGRITY_FAILURE. -/
def execIdeIntegrityFailure (link : Nat) (s : State) : Outcome State Fault Refusal := .next (s.ideFails link)

/-- R391, IDE_KEY_EXPIRY. -/
def execIdeKeyExpiry (link : Nat) (s : State) : Outcome State Fault Refusal := .next (s.ideFails link)

/-- R389: the session of a function that a message names. -/
def State.sessionOn (s : State) (path : Path) (sid : Nat) (done : Bool) : Option Session :=
  s.sec.sessions.find? (fun x => x.path == path && x.id == sid && x.done == done)

/-- R391, K_SET_GO: the stream is keyed, or its key refreshed, over a secured session on PF0; the message itself passes a link that delivers
nothing else. -/
def execKSetGo (link : Nat) (s : State) : Outcome State Fault Refusal :=
  if s.sec.sessions.any (fun x => x.owner == none && x.done) && decide (link < 2) then
    .next (s.modSec (fun x => { x with ide := x.ide.set link true, ideDead := x.ideDead.filter (fun l => l != link) }))
  else .next s

/-! ### SPDM (R389, R390) -/

/-- How far a mailbox's connection has got: 0 none, then version, capabilities, algorithms. -/
def State.mailStep (s : State) (path : Path) : Nat := ((s.sec.mail.find? (fun m => m.path == path)).map Mailbox.step).getD 0

def State.setMail (s : State) (path : Path) (n : Nat) : State :=
  s.modSec (fun x => { x with mail := x.mail.filter (fun m => m.path != path) ++ [⟨path, n⟩] })

/-- A request that needs the connection to have got at least so far. -/
def State.spdm (s : State) (path : Path) (need : Nat) (f : State → State) : Outcome State Fault Refusal :=
  if !s.mailOpen path then .next s
  else if s.mailStep path < need then .next (s.respond path cError [])
  else .next (f s)

/-- R389, GET_VERSION: SPDM 1.2. -/
def execGetVersion (path : Path) (s : State) : Outcome State Fault Refusal :=
  s.spdm path 0 (fun s => (s.setMail path 1).respond path 0x04 [0x12])

/-- R389, GET_CAPABILITIES. -/
def execGetCapabilities (path : Path) (s : State) : Outcome State Fault Refusal :=
  s.spdm path 1 (fun s => (s.setMail path 2).respond path 0x61 [])

/-- R389: the algorithms of a connection: ECDSA P-256, SHA-256, secp256r1 and AES-256-GCM, as SPDM 1.2 codes them (log entry 23). -/
def algorithms : List Byte := [0x10, 0, 0, 0, 0x01, 0, 0, 0, 0x08, 0, 0x02, 0]

/-- R389, NEGOTIATE_ALGORITHMS. -/
def execNegotiateAlgorithms (path : Path) (s : State) : Outcome State Fault Refusal :=
  s.spdm path 2 (fun s => (s.setMail path 3).respond path 0x63 algorithms)

/-- R389, CHALLENGE: refused once the identity key is erased. -/
def execChallenge (path : Path) (s : State) : Outcome State Fault Refusal :=
  s.spdm path 3 (fun s => if s.sec.erased then s.respond path cError [] else s.respond path 0x03 (signatureOf [0x83]))

def tdiCode : Tdi → Nat
  | .unlocked => 0
  | .locked => 1
  | .run => 2
  | .error => 3

/-- R309, R312, R390: the bytes whose digest a measurement block is, for blocks 4 to 6, block 5 being of the configuration in force or of the
refusal of the stored one; the layout is the model's (log entry 22). -/
def State.measured (s : State) (idx : Nat) : List Byte :=
  match idx with
  | 4 => [BitVec.ofNat 8 s.fuses.removed, if s.fuses.used then 1 else 0, if s.fuses.swapped.isSome then 1 else 0]
  | 5 => if s.confRefused then [1] else 0 :: wordsBytes (s.inForce.getD []) ++ s.diemap.map (BitVec.ofNat 8)
  | _ => (List.range 4).flatMap (fun p => [BitVec.ofNat 8 (tdiCode (s.tdiOf p)), BitVec.ofNat 8 (s.dbgPerm p), (s.allow p).setWidth 8])

/-- R390: a measurement block. -/
def State.measurement (s : State) (idx : Nat) : List Byte :=
  if idx ≤ 3 then (List.range 32).map (Config.firmware idx) else bytesOf (sha256 (natsOf (s.measured idx)))

/-- R389, R390: what is measured, as it was when the device booted: every TDI unlocked, no permission given, and the fuses of the last reset. -/
def State.atBoot (s : State) : State :=
  { s with sec := { s.sec with tdi := Sec.reset.tdi }, hregs := [],
           fuses := { s.fuses with used := s.fuses.used && s.fuses.burnt == s.fuses.swapped } }

/-- R389: the certificate chain of slot 0; its last certificate's key is derived from the measurements made at boot. -/
def State.certChain (s : State) : List Byte :=
  let m := natsOf (((List.range 6).map (fun i => s.atBoot.measurement (i + 1))).flatten)
  bytesOf ((List.range Config.chainLength).map (Config.chainByte m))

/-- R389, GET_DIGESTS: slot 0 alone holds a chain. -/
def execGetDigests (path : Path) (s : State) : Outcome State Fault Refusal :=
  s.spdm path 3 (fun s => s.respond path 0x01 (0x01 :: bytesOf (sha256 (natsOf s.certChain))))

/-- R389, GET_CERTIFICATE: slot 0 only. -/
def execGetCertificate (path : Path) (slot : Nat) (s : State) : Outcome State Fault Refusal :=
  s.spdm path 3 (fun s => if slot = 0 then s.respond path 0x02 s.certChain else s.respond path cError [])

/-- R389, R390, GET_MEASUREMENTS: one block, with a signature if asked. -/
def execGetMeasurements (path : Path) (signed : Bool) (idx : Nat) (s : State) : Outcome State Fault Refusal :=
  s.spdm path 3 (fun s =>
    if idx = 0 || 6 < idx || (signed && s.sec.erased) then s.respond path cError []
    else
      let m := s.measurement idx
      s.respond path 0x60 (m ++ if signed then signatureOf (natsOf m) else []))

/-- R389: the partition whose owner session a function's session is. -/
def ownerOf : Path → Option Nat
  | .vf _ q => some q
  | _ => none

/-- R389, KEY_EXCHANGE: a VF's new session ends its old one; PF0 has up to four. The answer names the session. -/
def execKeyExchange (path : Path) (s : State) : Outcome State Fault Refusal :=
  s.spdm path 3 (fun s =>
    let mine := s.sec.sessions.filter (fun x => x.path == path)
    if s.sec.erased || (ownerOf path == none && decide (4 ≤ mine.length)) then s.respond path cError []
    else
      let id := s.sec.drawn
      let s := s.modSec (fun x =>
        { x with sessions := x.sessions.filter (fun y => y.owner == none || y.owner != ownerOf path) ++ [⟨path, id, ownerOf path, false, x.drawn, none, 0⟩],
                 drawn := x.drawn + 1 })
      s.respond path 0x64 (leBytes 4 id))

/-- R389, FINISH. -/
def execFinish (on : SessionRef) (s : State) : Outcome State Fault Refusal :=
  s.spdm on.path 3 (fun s =>
    match s.sessionOn on.path on.sid false with
    | some y => (s.modSec (fun x => { x with sessions := x.sessions.map (fun z => if z = y then { z with done := true } else z) })).respond on.path 0x65 []
    | none => s.respond on.path cError [])

/-- A request inside the session of a function that it names. -/
def State.inSession (s : State) (on : SessionRef) (code : Nat) (f : Session → Option Session) : Outcome State Fault Refusal :=
  s.spdm on.path 3 (fun s =>
    match s.sessionOn on.path on.sid true with
    | some y =>
      (s.modSec (fun x => { x with sessions := x.sessions.filterMap (fun z => if z = y then f z else some z) })).respond on.path code []
    | none => s.respond on.path cError [])

/-- R389, KEY_UPDATE. -/
def execKeyUpdate (on : SessionRef) (s : State) : Outcome State Fault Refusal :=
  s.inSession on 0x69 (fun x => some { x with keyPhase := x.keyPhase + 1 })

/-- R389, HEARTBEAT. -/
def execHeartbeat (on : SessionRef) (s : State) : Outcome State Fault Refusal := s.inSession on 0x68 some

/-- R389, END_SESSION. -/
def execEndSession (on : SessionRef) (s : State) : Outcome State Fault Refusal := s.inSession on 0x6C (fun _ => none)

/-! ### Physical accesses (R291, R376, R436) -/

/-- R441: a physical request wakes the die it is homed on. -/
def State.wakeFor (s : State) (pa : Nat) : State := if inDram pa && s.asleep (homeDie pa) then s.wakeDie (homeDie pa) else s

/-- R376: a physical request that meets lines whose tag is not 0 leaves them in no slice; what they hold is in DRAM. -/
def State.expose (s : State) (pa n : Nat) : State :=
  s.dropSlices (fun x => Word.key x.leaf != 0 && Word.peer x.leaf == 0 && decide (x.pa < pa + n) && decide (pa < x.pa + 64))

/-- R289, R291: a physical write of the host or a peer registers as a plain store under slot 0. -/
def State.physWrite (s : State) (pa : Nat) (bs : List Byte) : State :=
  ((s.collapsePhys pa bs.length).expose pa bs.length).writePhys 0 pa bs

/-- R291, R314: a physical range that the host reaches: DRAM outside the hand buffers. -/
def State.hostReaches (s : State) (pa n : Nat) : Bool := inDram pa && inDram (pa + n - 1) && !s.inHands pa n

/-- R424: a physical request of n bytes, of no partition, that comes in on a host link (kind 6) or a peer link (5) and is served by the
controller of its address. -/
def State.countPhys (s : State) (kind link pa n : Nat) : State := (s.countAt kind 0 link 4 n).countDram 4 pa n

/-- R291, R391, HOST_PHYSICAL_READ: served under slot 0, over a link that delivers. -/
def execHostPhysicalRead (loc : LinkAddr) (n : Nat) (s : State) : Outcome State Fault Refusal :=
  if !s.delivers loc.link then .next s
  else if !s.hostReaches loc.pa n then .next { s with out := s.out ++ [.bytes true []] }
  else
    let s : State := { s with out := s.out ++ [.bytes (s.badPhys loc.pa n) (s.readPhys 0 loc.pa n)] }
    .next (((s.expose loc.pa n).countPhys 6 loc.link loc.pa n).wakeFor loc.pa)

/-- R291, R391, HOST_PHYSICAL_WRITE: a plain store of the host, over a link that delivers; copies in the L1s stay. -/
def execHostPhysicalWrite (loc : LinkAddr) (bytes : List (BitVec 8)) (s : State) : Outcome State Fault Refusal :=
  if !s.delivers loc.link || !s.hostReaches loc.pa bytes.length then .next s
  else .next (((s.physWrite loc.pa bytes).countPhys 6 loc.link loc.pa bytes.length).wakeFor loc.pa)

/-! ### Peers (R405-R407) -/

/-- R405: this package's number. -/
def State.pkgNo (s : State) : Nat := field (s.hreg .peer 0) 4 0

/-- R405, R407: the first link that is up of the entry that names a package. -/
def State.peerLink (s : State) (pkg : Nat) : Option Nat :=
  ((List.range 31).map (· + 1)).findSome? (fun i =>
    let e := s.hreg .peer (8 * i)
    if e.getLsbD 63 && field e 20 16 == pkg then (List.range 12).find? (fun l => e.getLsbD l && !s.peerDown.contains l) else none)

/-- R436: what is asked reads the addressed bytes. -/
def peerReads : PeerFn → Bool
  | .write _ => false
  | _ => true

/-- R174, R175, R181, R290: the new value that an update of n bytes asks for. -/
def peerNew (n m : Nat) : PeerFn → Option Nat
  | .read => none
  | .write _ => none
  | .red op x => some (bredNew op n m x)
  | .bfma op x a => some (bupdNew op m x a)
  | .atom op x x2 => some (atomNew op n m x x2)

/-- R290, R291, R406: an accepted request is served under slot 0 and registered at its home; the answer of a read or an update
is the value before it. -/
def State.servePeer (s : State) (q : PeerReq) : State × List Byte :=
  let old := s.readPhys 0 q.pa q.n
  match q.fn with
  | .write bs => (s.physWrite q.pa (bs.take q.n), [])
  | f =>
    match peerNew q.n (leNat old) f with
    | some v => (s.physWrite q.pa (leBytes q.n v), old)
    | none => (s.expose q.pa q.n, old)

/-- R406: the home package refuses a request. -/
def State.refusesPeer (s : State) (q : PeerReq) : Bool :=
  let p := s.partOf (homeDie q.pa)
  let inArea := match s.saveArea p with | some a => framesMeet q.pa q.n a.1 a.2 | none => false
  !(s.hreg .peer (0x100 + 8 * p)).getLsbD q.src || !inDram q.pa || !inDram (q.pa + q.n - 1) || s.inHands q.pa q.n || inArea ||
    (peerReads q.fn && s.poisonedAt q.pa q.n) || s.dieDown q.pa

/-- R405, R406, PEER_REQUEST: a request is served, forwarded or refused. -/
def execPeerRequest (req : PeerReq) (s : State) : Outcome State Fault Refusal :=
  let answer (s : State) (ok : Bool) (data : List Byte) : State := { s with out := s.out ++ [.peerAnswer req.src ok data] }
  if !(s.hreg .peer 0).getLsbD 8 then .next (answer s false [])
  else if req.dst ≠ s.pkgNo then
    (match (if 3 ≤ req.hops then none else s.peerLink req.dst) with
     | some l => .next { s.countAt 5 0 l 4 req.n with out := s.out ++ [.peerForward l { req with hops := req.hops + 1 }] }
     | none => .next (answer s false []))
  else if s.refusesPeer req then .next (answer s false [])
  else
    let r := s.servePeer req
    .next (answer ((r.1.countPhys 5 ((s.peerLink req.src).getD 0) req.pa req.n).wakeFor req.pa) true r.2)

/-- R407: a peer link is taken down. -/
def State.dropLink (s : State) (link : Nat) : State :=
  ({ s with peerDown := if s.peerDown.contains link then s.peerDown else s.peerDown ++ [link] } : State).logAlarm 4 link 1 none

/-- R407, PEER_LINK_FAILURE. -/
def execPeerLinkFailure (link : Nat) (s : State) : Outcome State Fault Refusal := .next (s.dropLink link)

/-- R407, DOMAIN_FORMATION: for each link, whether its session is established (1) or fails; an erased identity key
establishes none. -/
def execDomainFormation (links : List (Nat × Nat)) (s : State) : Outcome State Fault Refusal :=
  .next (links.foldl (fun s l =>
    if l.2 = 1 && !s.sec.erased then { s with peerDown := s.peerDown.filter (fun k => k != l.1) } else s.dropLink l.1) s)

/-- R288, R424, LINK_LEVEL_RETRY: a flit is replayed and delivered once; the link's retries are counted. -/
def execLinkLevelRetry (kind die unit part : Nat) (s : State) : Outcome State Fault Refusal :=
  if kind = 3 && die < 8 && unit < 4 then .next (s.bump 3 die unit 3 part 1)
  else if (kind = 5 && unit < 12) || (kind = 6 && unit < 2) then .next (s.bump kind 0 unit 3 part 1)
  else .next s

end Sys2Proof.Machine
end

