-- ==== Sys2Proof/Machine/HostRegs.lean ====
section
/-! DEFINITION. Every register of the register window: what a write through a path does (R3 and the rule of each block) and
what a read returns (R445 for the readings that may be withheld), with the events REGISTER_WRITE, WITHHELD_READ and
VENDOR_DEFINED_REQUEST. -/

namespace Sys2Proof.Machine

open Host (Outcome)

/-! ### Writes -/

/-- R322, R336, R340, R341: a write to SMPREQ. -/
def State.writeSmpreq (s : State) (st : Nat) (v : Word) (path : Path) : State :=
  s.guardWrite path .control (0x40 * st + 0x38) (fun s =>
    match s.named st with
    | none => s
    | some l =>
      match field v 33 32 with
      | 0 => s.request l.seq none (field v 31 0) .asked
      | 1 => s.endLaunch l.seq 6
      | 2 => if l.spans.any (fun p => p.st == .saved) then s.modLaunch l.seq (fun l => { l with front := true }) else s
      | _ => s)

/-- R342: a write to a stream's address-space register, ignored unless the stream is idle. -/
def State.writeSmas (s : State) (st : Nat) (v : Word) (path : Path) : State :=
  s.guardWrite path .control (0x200 + 8 * st) (fun s =>
    s.modStream st (fun x => if x.st = .idle then { x with part := field v 17 16, asid := field v 11 0 } else x))

/-- R322: a write to one of a stream's eight registers. -/
def State.writeStream (s : State) (st o : Nat) (v : Word) (path : Path) : State :=
  let put (f : Stream → Stream) : State := s.guardWrite path .control (0x40 * st + o) (fun s => s.modStream st f)
  match o with
  | 0x00 => s.writeSmpc st v path
  | 0x08 => put (fun x => { x with arg := v })
  | 0x10 => put (fun x => { x with ctab := v &&& 0xFFFFFFFFFFFFFFC0 })
  | 0x18 => put (fun x => { x with drop := x.drop && !v.getLsbD 2 })
  | 0x30 => put (fun x => { x with pseq := v })
  | 0x38 => s.writeSmpreq st v path
  | _ => s

/-- A write to a register that holds what is written to its writable bits. -/
def State.writePlain (s : State) (b : Blk) (off : Nat) (v : Word) (path : Path) : State :=
  let m := plainMask b off
  if m = 0 then s else s.guardWrite path b off (fun s => s.setHreg b off (mergeBits (s.hreg b off) v m))

/-- R380: a save area that partition p may have. -/
def State.areaOk (s : State) (p base size : Nat) : Bool :=
  size == 0 || (decide (20 ≤ size) && decide (size ≤ 38) && aligned base (2 ^ size) && s.inPartDram p base (2 ^ size))

/-- R380: a write to SABASE or SASIZE. -/
def State.writeArea (s : State) (p o : Nat) (v : Word) (path : Path) : State :=
  let off := 0x800 + 0x10 * p + o
  s.guardWrite path .sec off (fun s =>
    let x := v &&& (if o = 0 then 0x0000FFFFFFFFF000 else 0x3F)
    let base := if o = 0 then x.toNat else (s.hreg .sec (0x800 + 0x10 * p)).toNat
    let size := if o = 0 then field (s.hreg .sec (0x808 + 0x10 * p)) 5 0 else x.toNat
    if s.sec.saves.any (fun e => e.part == p) || !s.areaOk p base size then s else s.setHreg .sec off x)

/-- R431: a write to MINT; the interval counts from it. -/
def State.writeMint (s : State) (p : Nat) (v : Word) (path : Path) : State :=
  s.guardWrite path .sec (mreg p + 0x30) (fun s =>
    (s.setHreg .sec (mreg p + 0x30) (v &&& 0xFFFFFFFF)).modSec (fun x => { x with periodAt := x.periodAt.set p s.clock }))

/-- R388: a write to TDIA, ignored unless the partition's TDI is CONFIG_UNLOCKED. -/
def State.writeTdia (s : State) (p : Nat) (v : Word) (path : Path) : State :=
  if s.tdiOf p = .unlocked then s.writePlain .hostLink (0x400 + 8 * p) v path else s

/-- R405: a write to DOMID or PEERTAB, ignored while any launch is live. -/
def State.writePeers (s : State) (off : Nat) (v : Word) (path : Path) : State :=
  if s.launches.any (fun l => l.st != .retired) then s else s.writePlain .peer off v path

/-- R408, R445: a write to DBGPERM: only through the partition's owner session. -/
def State.writeDbgperm (s : State) (p : Nat) (v : Word) (path : Path) : State :=
  if path = .owner p then s.writePlain .debug (0x400 * p) v path else s

/-- R393, R445: a write to ALLOW: only through the partition's owner session; of a locked one, by whatever path reaches it, a write to a locked
register. -/
def State.writeAllow (s : State) (p : Nat) (v : Word) (path : Path) : State :=
  if path = .owner p || s.isLocked p then s.writePlain .sec (0x1400 + 8 * p) v path else s

/-- R442: a write to PMBUD sets EBUDGET by each die's level. -/
def State.writePmbud (s : State) (v : Word) (path : Path) : State :=
  s.guardWrite path .power 0x10 (fun s => (s.setHreg .power 0x10 (v &&& 0xFF)).setBudgets)

/-- A write to the translation block. -/
def State.writeXlat (s : State) (off : Nat) (v : Word) (path : Path) : State :=
  match regBlock 0x1000 0x100 4 off with
  | some p =>
    match off % 0x100 with
    | 0x00 => s.guardWrite path .xlat off (fun s => (s.setHreg .xlat off (v &&& 0xFFFFFFFFFFFFF00F)).postHeld p)
    | 0x10 => s.writePfqh p v path
    | 0x18 => s.writePgdone p v path
    | 0x28 => s.writeTinvs p v path
    | _ => s.writePlain .xlat off v path
  | none =>
    if 0x4000 ≤ off && off < 0x4200 then s.writeWays ((off - 0x4000) / 0x40) (off % 0x40 / 8) v path else s.writePlain .xlat off v path

/-- A write to the security unit's block. -/
def State.writeSecReg (s : State) (off : Nat) (v : Word) (path : Path) : State :=
  match regBlock 0 0x100 4 off, regBlock 0x400 0x40 4 off, regBlock 0x800 0x10 4 off, regBlock 0x1000 0x40 4 off with
  | some p, _, _, _ => if off % 0x100 = 0 then s.writeKcmd p v path else s.writePlain .sec off v path
  | none, some p, _, _ => if off % 0x40 = 0 then s.writeScmd p v path else s.writePlain .sec off v path
  | none, none, some p, _ => s.writeArea p (off % 0x10) v path
  | none, none, none, some p =>
    if off % 0x40 = 0 then s.writeMcmd p v path
    else if off % 0x40 = 0x30 then s.writeMint p v path
    else s.writePlain .sec off v path
  | none, none, none, none =>
    match regBlock 0x1400 8 4 off with
    | some p => s.writeAllow p v path
    | none => if off = 0x2008 then s.writeAlcmd v path else s.writePlain .sec off v path

/-- A write to the host-link block. -/
def State.writeLinkReg (s : State) (off : Nat) (v : Word) (path : Path) : State :=
  match regBlock 0 0x80 4 off, regBlock 0x400 8 4 off with
  | some p, _ =>
    match off % 0x80 with
    | 0x00 => s.writeHqbase p v path
    | 0x08 => s.writeHqcfg p v path
    | 0x10 => s.writeHqtail p v path
    | _ => s
  | none, some p => s.writeTdia p v path
  | none, none => s

/-- A write to the debug block. -/
def State.writeDebugReg (s : State) (off : Nat) (v : Word) (path : Path) : State :=
  match regBlock 0 0x400 4 off with
  | none => s
  | some p =>
    let o := off % 0x400
    match regBlock 0x180 8 8 o with
    | some i => s.writeCntcfg p i v path
    | none =>
      match o with
      | 0x00 => s.writeDbgperm p v path
      | 0x08 => s.writeDbgatt p v path
      | 0x18 => s.writeDbgcmd p v path
      | _ => s.writePlain .debug off v path

/-- A write of 8 bytes to a register of the window. -/
def State.writeReg (s : State) (path : Path) (b : Blk) (off : Nat) (v : Word) : State :=
  if off % 8 ≠ 0 then s
  else
    match b with
    | .control =>
      match regBlock 0 0x40 8 off, regBlock 0x200 8 8 off with
      | some st, _ => s.writeStream st (off % 0x40) v path
      | none, some st => s.writeSmas st v path
      | none, none => s.writePlain .control off v path
    | .xlat => s.writeXlat off v path
    | .sec => s.writeSecReg off v path
    | .hostLink => s.writeLinkReg off v path
    | .peer => if off < 0x100 then s.writePeers off v path else s.writePlain .peer off v path
    | .config => if off = 0x100 then s.writeCfgcmd v path else s.writePlain .config off v path
    | .debug => s.writeDebugReg off v path
    | .sensor => s
    | .repair => if off = 0 then s.writeDrctl v path else if off = 8 then s.writeSwctl v path else s
    | .power => if off = 0x10 then s.writePmbud v path else s.writePlain .power off v path
    | .pkg => if off = 0 then s.writePkgctl v path else s

/-- R3, REGISTER_WRITE. -/
def execRegisterWrite (path : Path) (blk : Blk) (off : Nat) (v : BitVec 64) (s : State) : Outcome State Fault Refusal :=
  .next (s.writeReg path blk off v)

/-! ### Reads -/

/-- R322: STATE as SMSTAT codes it. -/
def StreamSt.code : StreamSt → Nat
  | .idle => 0
  | .running => 1
  | .waiting .. => 2
  | .faulted => 3

/-- R322, R342: a control-core register. -/
def State.readControl (s : State) (off : Nat) : Word :=
  match regBlock 0 0x40 8 off, regBlock 0x200 8 8 off with
  | some st, _ =>
    match s.streams[st]? with
    | none => 0
    | some x =>
      match off % 0x40 with
      | 0x08 => x.arg
      | 0x10 => x.ctab
      | 0x18 => BitVec.ofNat 64 (x.sub * 2 ^ 16 + x.cause * 2 ^ 8 + (if x.drop then 4 else 0) + x.st.code)
      | 0x20 => x.smtpc
      | 0x28 => x.smtval
      | 0x30 => x.pseq
      | _ => 0
  | none, some st => ((s.streams[st]?).map (fun x => BitVec.ofNat 64 (x.part * 2 ^ 16 + x.asid))).getD 0
  | none, none => s.hreg .control off

/-- R447: an event of the alarm log as the word at an even or odd half of its slot. -/
def AlarmEvent.half (e : AlarmEvent) (hi : Bool) : Word :=
  if hi then BitVec.ofNat 64 e.clk else BitVec.ofNat 64 (e.src * 2 ^ 32 + e.arg % 2 ^ 24 * 2 ^ 8 + e.lvl)

/-- R446: the four words of an audit record. -/
def AuditRec.word (a : AuditRec) (k : Nat) : Word :=
  [BitVec.ofNat 64 a.clk, BitVec.ofNat 64 (a.kind * 2 ^ 56 + a.path * 2 ^ 48 + a.off % 2 ^ 24), BitVec.ofNat 64 a.aqn, 0].getD k 0

/-- A register of the security unit's block (R372, R379, R380, R396, R426, R445-R447). -/
def State.readSec (s : State) (off : Nat) : Word :=
  match regBlock 0x6000 8 8 off, regBlock 0x2100 16 64 off, regBlock 0x1600 8 4 off, regBlock 0x8000 0x2000 4 off with
  | some d, _, _, _ => BitVec.ofNat 64 ((s.sec.dgate.filter (fun c => c.1 == d)).foldl (fun n c => n ||| 2 ^ c.2) 0)
  | none, some k, _, _ =>
    ((s.sec.log.zipIdx.filter (fun e => e.2 % 64 == k)).getLast?.map (fun e => e.1.half (off % 16 == 8))).getD 0
  | none, none, some p, _ => BitVec.ofNat 64 ((s.sec.audit.filter (fun a => a.part == p)).foldl (fun m a => max m (a.aqn + 1)) 0)
  | none, none, none, some p =>
    ((s.sec.audit.find? (fun a => a.part == p && a.aqn % 256 == off % 0x2000 / 32)).map (fun a => a.word (off % 32 / 8))).getD 0
  | none, none, none, none =>
    if off = 0x2000 then BitVec.ofNat 64 s.sec.alarm
    else if off = 0x2010 then BitVec.ofNat 64 s.sec.log.length
    else s.hreg .sec off

/-- R445: a read of the security unit's block; MRES withholds a COUNT from a path to which the partition does not allow it. -/
def State.readSecBy (s : State) (off : Nat) (path : Path) : State × Word :=
  match if off % 0x40 = 0x18 then regBlock 0x1000 0x40 4 off else none with
  | some p =>
    if s.sec.counted.contains p && !s.answered p 2 path then (s.auditLog p 1 (pathCode path) off, 0) else (s, s.readSec off)
  | none => (s, s.readSec off)

/-- R388, R398: a register of the host-link block. -/
def State.readLink (s : State) (off : Nat) : Word :=
  match (regBlock 0 0x80 4 off).bind (fun p => s.sec.queues[p]?) with
  | some q =>
    match off % 0x80 with
    | 0x00 => q.base
    | 0x08 => q.cfg
    | 0x10 => BitVec.ofNat 64 q.tail
    | 0x18 => BitVec.ofNat 64 q.head
    | 0x20 => BitVec.ofNat 64 (q.why * 16 + (if q.stop then 1 else 0))
    | _ => 0
  | none => s.hreg .hostLink off

/-- R424: the units of a kind. -/
def sharedUnits (kind : Nat) : Nat := [32, 4, 1, 4, 8, 12, 2].getD kind 0

/-- R424: a shared counter for one partition's requests; queueing cycles are free (log entry 17). -/
def State.sharedCount (s : State) (kind die unit event part : Nat) : Word :=
  if event = 1 then Config.queueCycles s.nonce (sharedKey kind die unit event part)
  else BitVec.ofNat 64 (Cells.get 0 s.shared (sharedKey kind die unit event part))

/-- R424: the counter a selection names; vf 0 adds every requester. -/
def State.sharedValue (s : State) (v : Word) (vf : Nat) : Word :=
  let kind := field v 11 8
  let die := if 5 ≤ kind then 0 else field v 26 24
  let unit := field v 20 16
  let event := field v 7 0
  if sharedUnits kind ≤ unit || 4 ≤ event || 4 < vf || (event == 3 && (kind == 1 || kind == 2)) then 0
  else if vf = 0 then (List.range 5).foldl (fun n p => n + s.sharedCount kind die unit event p) 0
  else s.sharedCount kind die unit event (vf - 1)

/-- R424: the VF that a read through a path selects. -/
def sharedVf (v : Word) : Path → Nat
  | .pf0 _ => field v 34 32
  | .window => field v 34 32
  | .vf _ q => q + 1
  | .owner q => q + 1

/-- R424, R445: SHDATA of partition p's debug block; 0 without permission, and withheld where the requester is another
partition that does not allow it. -/
def State.readShared (s : State) (p : Nat) (path : Path) : State × Word :=
  let v := s.dbgReg p 0x200
  let vf := sharedVf v path
  if s.dbgPerm p = 0 then (s, 0)
  else if vf = 0 || 4 < vf || s.answered (vf - 1) 3 path then (s, s.sharedValue v vf)
  else (s.auditLog (vf - 1) 1 (pathCode path) (0x400 * p + 0x208), 0)

/-- R409: a register of the debug block of partition p, but for SHDATA. -/
def State.readDebug (s : State) (p o : Nat) (path : Path) : Word :=
  match s.dbg[p]? with
  | none => 0
  | some d =>
    match regBlock 0x1C0 8 8 o with
    | some i => BitVec.ofNat 64 (d.count i)
    | none =>
      match o with
      | 0x08 => BitVec.ofNat 64 d.seq
      | 0x18 => if s.dbgBusy p then s.hreg .debug (dbgCmdOff p) else s.hreg .debug (dbgCmdOff p) &&& 0x7FFFFFFFFFFFFFFF
      | 0x20 => BitVec.ofNat 64 (d.reason * 256 + d.idx * 16 + (if d.stopped then 2 else 0) + (if d.att then 1 else 0))
      | 0x30 => selWord d.fsel
      | 0x150 => BitVec.ofNat 64 d.trpos
      | 0x158 => BitVec.ofNat 64 d.trdrop
      | 0x170 => BitVec.ofNat 64 d.smppos
      | 0x178 => BitVec.ofNat 64 d.smpdrop
      | 0x200 => mergeBits (s.dbgReg p 0x200) (BitVec.ofNat 64 (sharedVf (s.dbgReg p 0x200) path * 2 ^ 32)) 0x0000000700000000
      | _ => s.dbgReg p o

/-- R437, R443: a reading of the sensor block. -/
def State.sensorValue (s : State) (off : Nat) : Word :=
  if off % 0x100 < 0x38 then Config.sensor s.nonce off &&& 0x7FFFFFFFFFFFFFFF else s.hreg .sensor off

/-- R443, R445: a read of the sensor block; the I/O die's readings belong to no partition. -/
def State.readSensor (s : State) (off : Nat) (path : Path) : State × Word :=
  if off % 0x100 < 0x38 || (0x40 ≤ off % 0x100 && off % 0x100 < 0x68) then
    match regBlock 0 0x100 8 off with
    | some d =>
      let p := s.partOf d
      if s.answered p (if off % 0x100 < 0x38 then 0 else 1) path then (s, s.sensorValue off)
      else (s.auditLog p 1 (pathCode path) off, 0x8000000000000000)
    | none => if off < 0x868 || off = 0x900 then (s, s.sensorValue off) else (s, 0)
  else (s, 0)

/-- R442: a register of the power block. -/
def State.readPower (s : State) (off : Nat) : Word :=
  match (regBlock 0x40 8 30 off).bind (fun i => s.islands[i]?) with
  | some i => BitVec.ofNat 64 (i.f * 4 + i.st)
  | none => s.hreg .power off

/-- What a register that a path reaches returns. -/
def State.readReached (s : State) (path : Path) (b : Blk) (off : Nat) : State × Word :=
  match b with
  | .control => (s, s.readControl off)
  | .xlat =>
    match regBlock 0x3000 8 8 off with
    | some d => (s, s.fuses.adjacency d)
    | none => (s, s.hreg .xlat off)
  | .sec => s.readSecBy off path
  | .hostLink => (s, s.readLink off)
  | .debug =>
    match regBlock 0 0x400 4 off with
    | some p => if off % 0x400 = 0x208 then s.readShared p path else (s, s.readDebug p (off % 0x400) path)
    | none => (s, 0)
  | .sensor => s.readSensor off path
  | .repair =>
    if off = 0x10 then (s, BitVec.ofNat 64 ((if s.fuses.spareOk then 2 else 0) + (if s.fuses.used then 1 else 0)))
    else (s, s.hreg .repair off)
  | .power => (s, s.readPower off)
  | .peer | .config => (s, s.hreg b off)
  | .pkg => (s, 0)

/-- A read of 8 bytes of the register window through a path: all ones through the VF of a partition that does not exist
(R388), 0 where the path does not reach the register (R394, R408). -/
def State.readReg (s : State) (path : Path) (b : Blk) (off : Nat) : State × Word :=
  let absent := match path with | .vf _ q => !s.hasPart q | _ => false
  if absent then (s, 0xFFFFFFFFFFFFFFFF)
  else if off % 8 ≠ 0 || !s.reaches path b off then (s, 0)
  else s.readReached path b off

/-- The answer to a read goes out. -/
def State.answer (s : State) (path : Path) (v : Word) : State := { s with out := s.out ++ [.value path v] }

/-- R391: a read through a path is answered: its link delivers. -/
def State.linkUp (s : State) : Path → Bool
  | .pf0 link | .vf link _ => !s.sec.ideDead.contains link
  | .owner q => s.ownerUp q
  | .window => true

/-- R391, R445, WITHHELD_READ: a read through a path, withheld and audited where it is not allowed. -/
def execWithheldRead (path : Path) (blk : Blk) (off : Nat) (s : State) : Outcome State Fault Refusal :=
  if !s.linkUp path then .next s
  else
    let r := s.readReg path blk off
    .next (r.1.answer path r.2)

/-- R391, R408, VENDOR_DEFINED_REQUEST: an access to partition p's debug block in its owner session; without one, and over a dead link, there
is no answer. -/
def execVendorDefinedRequest (p : Nat) (off : BitVec 16) (wr : Bool) (v : BitVec 64) (s : State) : Outcome State Fault Refusal :=
  if !s.ownerUp p || 0x400 ≤ off.toNat then .next s
  else if wr then .next (s.writeReg (.owner p) .debug (0x400 * p + off.toNat) v)
  else
    let r := s.readReg (.owner p) .debug (0x400 * p + off.toNat)
    .next (r.1.answer (.owner p) r.2)

end Sys2Proof.Machine
end

