-- ==== Sys2Proof/Machine/Integer.lean ====
section
/-! DEFINITION. Class 0: moves, constants, integer arithmetic, division, logic, shifts, bit fields, counts, icmp and lea
(R98-R114), and nop (R37). -/

namespace Sys2Proof.Machine

open Host (Outcome)

/-! ### Shared forms -/

/-- A class 0 result of one source value per lane. -/
def Issue.int1 (x : Issue) (ty : ITy) (d a : Opr) (f : Nat → Nat) : Act :=
  x.perLane 4 d (fun l => putTy ty d l (f (x.opnd ty.width a l)))

/-- A class 0 result of two source values per lane. -/
def Issue.int2 (x : Issue) (ty : ITy) (d a b : Opr) (f : Nat → Nat → Nat) : Act :=
  x.perLane 4 d (fun l => putTy ty d l (f (x.opnd ty.width a l) (x.opnd ty.width b l)))

/-- A class 0 result whose source A may be an accumulator fragment. -/
def Issue.intA (x : Issue) (ty : ITy) (d : Opr) (a : ASrc) (b : Opr) (f : Nat → Nat → Nat) : Act :=
  x.perLane (srcLat a 4) d (fun l => putTy ty d l (f (x.asrc ty.width a l) (x.opnd ty.width b l)))

/-- A class 0 result of a value and a shift amount (R110). -/
def Issue.shift (x : Issue) (ty : ITy) (d a b : Opr) (f : Nat → Nat → Nat) : Act :=
  x.perLane 4 d (fun l => putTy ty d l (f (x.opnd ty.width a l) (x.amt b l % ty.width)))

/-- R99: a w-bit pattern read by the type's kind. -/
def asInt (ty : ITy) (a : Nat) : Int := if ty.signed then sInt ty.width a else (a % 2 ^ ty.width : Nat)

/-- a < b in the order of the type's kind. -/
def intLt (ty : ITy) (a b : Nat) : Bool := decide (asInt ty a < asInt ty b)

/-- R105: a + b, a - b and a · b at width w. -/
def addW (_w a b : Nat) : Nat := a + b
def subW (w a b : Nat) : Nat := a + 2 ^ w - b % 2 ^ w

/-- R105: imulh. -/
def mulHigh (ty : ITy) (a b : Nat) : Nat := wrap ty.width (asInt ty a * asInt ty b / (2 ^ ty.width : Nat))

/-- R107: the range of a target. -/
def satRange : SatTo → Int × Int
  | .i8 => (-128, 127)
  | .n8 => (0, 255)
  | .i16 => (-32768, 32767)
  | .n16 => (0, 65535)
  | .i32 => (-(2 ^ 31), 2 ^ 31 - 1)
  | .n32 => (0, 2 ^ 32 - 1)

/-- R107: isat. -/
def satVal (ty : ITy) (tgt : SatTo) (a : Nat) : Nat :=
  let r := satRange tgt
  wrap ty.width (min (max (asInt ty a) r.1) r.2)

/-- R108: quotient and remainder. -/
def divMod (ty : ITy) (a b : Nat) : Nat × Nat :=
  let w := ty.width
  let x := asInt ty a
  let y := asInt ty b
  if y = 0 then (2 ^ w - 1, a)
  else (wrap w (x.tdiv y), wrap w (x.tmod y))

/-- The logic operations at width w on patterns (R109). -/
def andnW (w a b : Nat) : Nat := Nat.land a (2 ^ w - 1 - b % 2 ^ w)
def notW (w a : Nat) : Nat := 2 ^ w - 1 - a % 2 ^ w

/-- R110: sar. -/
def sarW (w a k : Nat) : Nat := wrap w (sInt w a / (2 ^ k : Nat))

/-- R110: rot. -/
def rotW (w a k : Nat) : Nat := a * 2 ^ k + a / 2 ^ (w - k)

/-- R111: the number of 1 bits, the number of leading 0 bits, and the reversal. -/
def popcW (w a : Nat) : Nat := ((List.range w).filter (fun j => bit a j)).length
def clzW (w a : Nat) : Nat := if a % 2 ^ w = 0 then w else w - 1 - Nat.log2 (a % 2 ^ w)
def brevW (w a : Nat) : Nat := (List.range w).foldl (fun r j => r * 2 + a / 2 ^ j % 2) 0

/-- R112: bfe. -/
def bfeVal (ty : ITy) (a desc : Nat) : Nat :=
  let pos := bits desc 7 0
  let len := min (bits desc 15 8) ty.width
  let f := wrap len (asInt ty a / (2 ^ pos : Nat))
  if len = 0 then 0 else if ty.signed then wrap ty.width (sInt len f) else f

/-- R112: bfi. -/
def bfiVal (w a b desc : Nat) : Nat :=
  let pos := bits desc 7 0
  let len := min (min (bits desc 15 8) w) (w - pos)
  if w ≤ pos then a
  else a % 2 ^ pos + b % 2 ^ len * 2 ^ pos + a / 2 ^ (pos + len) * 2 ^ (pos + len)

/-- R113: the conditions. -/
def icmpVal (ty : ITy) (c : ICond) (a b : Nat) : Bool :=
  match c with
  | .eq => a == b
  | .ne => a != b
  | .lt => intLt ty a b
  | .le => !intLt ty b a
  | .gt => intLt ty b a
  | .ge => !intLt ty a b

/-! ### The instructions -/

/-- R37. -/
def execNop (h : Hdr) (s : State) : Outcome State Fault Refusal := word (.nop h) s fun x => .done x.s

/-- R104. -/
def execMov (h : Hdr) (d : Opr) (a : ASrc) (ty : ITy) (s : State) : Outcome State Fault Refusal :=
  word (.mov h d a ty) s fun x => x.perLane (srcLat a 4) d (fun l => putTy ty d l (x.asrc ty.width a l))

/-- R104. -/
def execMovi (h : Hdr) (d : Opr) (imm : BitVec 23) (s : State) : Outcome State Fault Refusal :=
  word (.movi h d imm) s fun x => x.perLane 4 d (fun l =>
    match d with
    | .v n => [⟨.v n.val l, zext (sext imm.toNat 23).toNat 32⟩]
    | .s n => [⟨.s n.val, sext imm.toNat 23⟩])

/-- R104. -/
def execMovh (h : Hdr) (d : Opr) (q : BitVec 2) (imm : BitVec 16) (s : State) : Outcome State Fault Refusal :=
  word (.movh h d q imm) s fun x => x.perLane 4 d (fun l =>
    let w := if d.isS then 64 else 32
    putInt w false d l (bfiVal w (x.opnd w d l) imm.toNat (16 * 256 + 16 * q.toNat)))

/-- R104. -/
def execSel (h : Hdr) (d : Fin 192) (a b : Opr) (p : BitVec 3) (neg : Bool) (ty : ITy) (s : State) :
    Outcome State Fault Refusal :=
  word (.sel h d a b p neg ty) s fun x => x.perLane 4 (.v d) (fun l =>
    putTy ty (.v d) l (if x.preg p l != neg then x.opnd ty.width a l else x.opnd ty.width b l))

/-- R105. -/
def execIadd (h : Hdr) (d : Opr) (a : ASrc) (b : Opr) (ty : ITy) (s : State) : Outcome State Fault Refusal :=
  word (.iadd h d a b ty) s fun x => x.intA ty d a b (addW ty.width)

/-- R105. -/
def execIsub (h : Hdr) (d : Opr) (a : ASrc) (b : Opr) (ty : ITy) (s : State) : Outcome State Fault Refusal :=
  word (.isub h d a b ty) s fun x => x.intA ty d a b (subW ty.width)

/-- R105. -/
def execImul (h : Hdr) (d a b : Opr) (ty : ITy) (s : State) : Outcome State Fault Refusal :=
  word (.imul h d a b ty) s fun x => x.int2 ty d a b (fun u v => u * v)

/-- R105. -/
def execImulh (h : Hdr) (d a b : Opr) (ty : ITy) (s : State) : Outcome State Fault Refusal :=
  word (.imulh h d a b ty) s fun x => x.int2 ty d a b (mulHigh ty)

/-- R105. -/
def execImad (h : Hdr) (d a b c : Opr) (ty : ITy) (s : State) : Outcome State Fault Refusal :=
  word (.imad h d a b c ty) s fun x => x.perLane 4 d (fun l =>
    putTy ty d l (x.opnd ty.width a l * x.opnd ty.width b l + x.opnd ty.width c l))

/-- R106. -/
def execImin (h : Hdr) (d a b : Opr) (ty : ITy) (s : State) : Outcome State Fault Refusal :=
  word (.imin h d a b ty) s fun x => x.int2 ty d a b (fun u v => if intLt ty v u then v else u)

/-- R106. -/
def execImax (h : Hdr) (d a b : Opr) (ty : ITy) (s : State) : Outcome State Fault Refusal :=
  word (.imax h d a b ty) s fun x => x.int2 ty d a b (fun u v => if intLt ty u v then v else u)

/-- R106. -/
def execIabs (h : Hdr) (d a : Opr) (ty : ITy) (s : State) : Outcome State Fault Refusal :=
  word (.iabs h d a ty) s fun x => x.int1 ty d a (fun u => (asInt ty u).natAbs)

/-- R106. -/
def execIneg (h : Hdr) (d a : Opr) (ty : ITy) (s : State) : Outcome State Fault Refusal :=
  word (.ineg h d a ty) s fun x => x.int1 ty d a (fun u => subW ty.width 0 u)

/-- R107. -/
def execIsat (h : Hdr) (d a : Opr) (tgt : SatTo) (ty : ITy) (s : State) : Outcome State Fault Refusal :=
  word (.isat h d a tgt ty) s fun x => x.int1 ty d a (satVal ty tgt)

/-- R108: the typical latency of a division. -/
def divLat (ty : ITy) : Nat := if ty.width = 64 then 34 else 18

/-- R108. -/
def execIdiv (h : Hdr) (d a b : Opr) (ty : ITy) (s : State) : Outcome State Fault Refusal :=
  word (.idiv h d a b ty) s fun x => x.perLaneV (divLat ty) d ty.regs (fun l =>
    (putTy ty d l (divMod ty (x.opnd ty.width a l) (x.opnd ty.width b l)).1, 0))

/-- R108. -/
def execIrem (h : Hdr) (d a b : Opr) (ty : ITy) (s : State) : Outcome State Fault Refusal :=
  word (.irem h d a b ty) s fun x => x.perLaneV (divLat ty) d ty.regs (fun l =>
    (putTy ty d l (divMod ty (x.opnd ty.width a l) (x.opnd ty.width b l)).2, 0))

/-- R109. -/
def execAnd (h : Hdr) (d : Opr) (a : ASrc) (b : Opr) (ty : ITy) (s : State) : Outcome State Fault Refusal :=
  word (.and h d a b ty) s fun x => x.intA ty d a b Nat.land

/-- R109. -/
def execOr (h : Hdr) (d : Opr) (a : ASrc) (b : Opr) (ty : ITy) (s : State) : Outcome State Fault Refusal :=
  word (.or h d a b ty) s fun x => x.intA ty d a b Nat.lor

/-- R109. -/
def execXor (h : Hdr) (d : Opr) (a : ASrc) (b : Opr) (ty : ITy) (s : State) : Outcome State Fault Refusal :=
  word (.xor h d a b ty) s fun x => x.intA ty d a b Nat.xor

/-- R109. -/
def execAndn (h : Hdr) (d a b : Opr) (ty : ITy) (s : State) : Outcome State Fault Refusal :=
  word (.andn h d a b ty) s fun x => x.int2 ty d a b (andnW ty.width)

/-- R109. -/
def execNot (h : Hdr) (d a : Opr) (ty : ITy) (s : State) : Outcome State Fault Refusal :=
  word (.not h d a ty) s fun x => x.int1 ty d a (notW ty.width)

/-- R110. -/
def execShl (h : Hdr) (d a b : Opr) (ty : ITy) (s : State) : Outcome State Fault Refusal :=
  word (.shl h d a b ty) s fun x => x.shift ty d a b (fun u k => u * 2 ^ k)

/-- R110. -/
def execShr (h : Hdr) (d a b : Opr) (ty : ITy) (s : State) : Outcome State Fault Refusal :=
  word (.shr h d a b ty) s fun x => x.shift ty d a b (fun u k => u / 2 ^ k)

/-- R110. -/
def execSar (h : Hdr) (d a b : Opr) (ty : ITy) (s : State) : Outcome State Fault Refusal :=
  word (.sar h d a b ty) s fun x => x.shift ty d a b (sarW ty.width)

/-- R110. -/
def execRot (h : Hdr) (d a b : Opr) (ty : ITy) (s : State) : Outcome State Fault Refusal :=
  word (.rot h d a b ty) s fun x => x.shift ty d a b (rotW ty.width)

/-- R112. -/
def execBfe (h : Hdr) (d a b : Opr) (ty : ITy) (s : State) : Outcome State Fault Refusal :=
  word (.bfe h d a b ty) s fun x => x.perLane 4 d (fun l =>
    putTy ty d l (bfeVal ty (x.opnd ty.width a l) (x.amt b l)))

/-- R112. -/
def execBfi (h : Hdr) (d a b c : Opr) (ty : ITy) (s : State) : Outcome State Fault Refusal :=
  word (.bfi h d a b c ty) s fun x => x.perLane 4 d (fun l =>
    putTy ty d l (bfiVal ty.width (x.opnd ty.width a l) (x.opnd ty.width b l) (x.amt c l)))

/-- R111: the count is an n32 value. -/
def execPopc (h : Hdr) (d a : Opr) (ty : ITy) (s : State) : Outcome State Fault Refusal :=
  word (.popc h d a ty) s fun x => x.perLane 4 d (fun l => putInt 32 false d l (popcW ty.width (x.opnd ty.width a l)))

/-- R111: the count is an n32 value. -/
def execClz (h : Hdr) (d a : Opr) (ty : ITy) (s : State) : Outcome State Fault Refusal :=
  word (.clz h d a ty) s fun x => x.perLane 4 d (fun l => putInt 32 false d l (clzW ty.width (x.opnd ty.width a l)))

/-- R111. -/
def execBrev (h : Hdr) (d a : Opr) (ty : ITy) (s : State) : Outcome State Fault Refusal :=
  word (.brev h d a ty) s fun x => x.int1 ty d a (brevW ty.width)

/-- R113. -/
def execIcmp (h : Hdr) (p : BitVec 3) (a b : Opr) (cond : ICond) (ty : ITy) (s : State) : Outcome State Fault Refusal :=
  word (.icmp h p a b cond ty) s fun x => x.perLaneP 4 p (fun l =>
    (icmpVal ty cond (x.opnd ty.width a l) (x.opnd ty.width b l), 0))

/-- R114: e, the index of an address. -/
def leaIndex (ty : ITy) (b : Nat) : Nat := if ty = .i32 then (sext b 32).toNat else b

/-- R114. -/
def execLea (h : Hdr) (d a b : Opr) (sh : BitVec 3) (ty : ITy) (s : State) : Outcome State Fault Refusal :=
  word (.lea h d a b sh ty) s fun x => x.perLane 4 d (fun l =>
    putInt 64 false d l (x.opnd 64 a l + leaIndex ty (x.opnd ty.width b l) * 2 ^ sh.toNat))

end Sys2Proof.Machine
end

