-- ==== Sys2Proof/Machine/Paired.lean ====
section
/-! DEFINITION. The paired form (R25-R29): what one slot writes, and the words by slot A's operation. -/

namespace Sys2Proof.Machine

open Host (Outcome)

/-- R26, R27: the width a slot's integer operation acts on. -/
def slotWidth (d : Opr) : Nat := if d.isS then 64 else 32

/-- R26, R27: the value an operation of a slot gives for one lane, with its flags: u and v are D and S. -/
def Issue.slotVal (x : Issue) (op : POp) (arg : PArg) (l : Nat) : Nat × BitVec 6 :=
  let w := slotWidth arg.d
  let u := x.opnd w arg.d l
  let v := x.opnd w arg.s l
  let k := arg.aux.toNat
  let fp (f : FFmt → Rounding → List FVal → Nat × BitVec 6) : Nat × BitVec 6 := fpApply .f32 (x.rounding .dyn) l (onVals f) [u, v]
  match op with
  | .nop => (0, 0)
  | .mov => (v, 0)
  | .movi => ((sext k 4).toNat, 0)
  | .iadd | .iaddZ16 | .iaddZ32 => (addW w u v, 0)
  | .isub | .isubZ16 | .isubZ32 => (subW w u v, 0)
  | .and => (Nat.land u v, 0)
  | .or => (Nat.lor u v, 0)
  | .xor => (Nat.xor u v, 0)
  | .shl => (u * 2 ^ k, 0)
  | .shr => (u / 2 ^ k, 0)
  | .sar => (sarW w u k, 0)
  | .imin => (if sInt w v < sInt w u then v else u, 0)
  | .imax => (if sInt w u < sInt w v then v else u, 0)
  | .ineg => (subW w 0 v, 0)
  | .not => (notW w v, 0)
  | .fadd => fp addOp
  | .fsub => fp subOp
  | .fmul => fp mulOp
  | .fmin => fp minOp
  | .fmax => fp maxOp
  | .fneg => (Nat.xor v (2 ^ 31), 0)
  | .fabs => (v % 2 ^ 31, 0)

/-- R26, R27: the width at which a slot writes its destination. -/
def slotWrite (op : POp) (d : Opr) : Nat :=
  match op with
  | .iaddZ16 | .isubZ16 => 16
  | .iaddZ32 | .isubZ32 => 32
  | _ => slotWidth d

/-- R14, R27: the lanes of the fragment for which a slot's guard is true. -/
def Issue.slotLanes (x : Issue) (arg : PArg) : Lanes :=
  laneSet x.W (fun l => x.lanes.getLsbD l && (x.preg arg.gi l != arg.gn))

/-- What one slot has in flight. -/
def Issue.slotFlight (x : Issue) (p : PSlot) : Flight :=
  let y : Issue := { x with lanes := x.slotLanes p.arg }
  let lanes := if y.lanes = 0 || p.op = .nop then [] else y.dstLanes p.arg.d
  let rs := lanes.map (fun l => (l, x.slotVal p.op p.arg l))
  { ready := x.s.clock + p.lat,
    writes := rs.flatMap (fun r => putInt (slotWrite p.op p.arg.d) false p.arg.d r.1 r.2.1),
    flags := orAll (rs.map (fun r => r.2.2)) }

/-- R28: both slots read before either writes. -/
def Issue.pair (x : Issue) (a b : PSlot) : Act :=
  .done (x.modG x.s (fun g => (g.launchFlight (x.slotFlight a)).launchFlight (x.slotFlight b)))

/-- R26. -/
def execPairedNop (stall : BitVec 3) (a : PArg) (b : PSlot) (s : State) : Outcome State Fault Refusal :=
  word (.pairedNop stall a b) s fun x => x.pair ⟨.nop, a⟩ b

/-- R26. -/
def execPairedMov (stall : BitVec 3) (a : PArg) (b : PSlot) (s : State) : Outcome State Fault Refusal :=
  word (.pairedMov stall a b) s fun x => x.pair ⟨.mov, a⟩ b

/-- R26. -/
def execPairedMovi (stall : BitVec 3) (a : PArg) (b : PSlot) (s : State) : Outcome State Fault Refusal :=
  word (.pairedMovi stall a b) s fun x => x.pair ⟨.movi, a⟩ b

/-- R26. -/
def execPairedIadd (stall : BitVec 3) (a : PArg) (b : PSlot) (s : State) : Outcome State Fault Refusal :=
  word (.pairedIadd stall a b) s fun x => x.pair ⟨.iadd, a⟩ b

/-- R26. -/
def execPairedIsub (stall : BitVec 3) (a : PArg) (b : PSlot) (s : State) : Outcome State Fault Refusal :=
  word (.pairedIsub stall a b) s fun x => x.pair ⟨.isub, a⟩ b

/-- R26. -/
def execPairedAnd (stall : BitVec 3) (a : PArg) (b : PSlot) (s : State) : Outcome State Fault Refusal :=
  word (.pairedAnd stall a b) s fun x => x.pair ⟨.and, a⟩ b

/-- R26. -/
def execPairedOr (stall : BitVec 3) (a : PArg) (b : PSlot) (s : State) : Outcome State Fault Refusal :=
  word (.pairedOr stall a b) s fun x => x.pair ⟨.or, a⟩ b

/-- R26. -/
def execPairedXor (stall : BitVec 3) (a : PArg) (b : PSlot) (s : State) : Outcome State Fault Refusal :=
  word (.pairedXor stall a b) s fun x => x.pair ⟨.xor, a⟩ b

/-- R26. -/
def execPairedShl (stall : BitVec 3) (a : PArg) (b : PSlot) (s : State) : Outcome State Fault Refusal :=
  word (.pairedShl stall a b) s fun x => x.pair ⟨.shl, a⟩ b

/-- R26. -/
def execPairedShr (stall : BitVec 3) (a : PArg) (b : PSlot) (s : State) : Outcome State Fault Refusal :=
  word (.pairedShr stall a b) s fun x => x.pair ⟨.shr, a⟩ b

/-- R26. -/
def execPairedSar (stall : BitVec 3) (a : PArg) (b : PSlot) (s : State) : Outcome State Fault Refusal :=
  word (.pairedSar stall a b) s fun x => x.pair ⟨.sar, a⟩ b

/-- R26. -/
def execPairedImin (stall : BitVec 3) (a : PArg) (b : PSlot) (s : State) : Outcome State Fault Refusal :=
  word (.pairedImin stall a b) s fun x => x.pair ⟨.imin, a⟩ b

/-- R26. -/
def execPairedImax (stall : BitVec 3) (a : PArg) (b : PSlot) (s : State) : Outcome State Fault Refusal :=
  word (.pairedImax stall a b) s fun x => x.pair ⟨.imax, a⟩ b

/-- R26. -/
def execPairedIneg (stall : BitVec 3) (a : PArg) (b : PSlot) (s : State) : Outcome State Fault Refusal :=
  word (.pairedIneg stall a b) s fun x => x.pair ⟨.ineg, a⟩ b

/-- R26. -/
def execPairedNot (stall : BitVec 3) (a : PArg) (b : PSlot) (s : State) : Outcome State Fault Refusal :=
  word (.pairedNot stall a b) s fun x => x.pair ⟨.not, a⟩ b

/-- R26. -/
def execPairedFadd (stall : BitVec 3) (a : PArg) (b : PSlot) (s : State) : Outcome State Fault Refusal :=
  word (.pairedFadd stall a b) s fun x => x.pair ⟨.fadd, a⟩ b

/-- R26. -/
def execPairedFsub (stall : BitVec 3) (a : PArg) (b : PSlot) (s : State) : Outcome State Fault Refusal :=
  word (.pairedFsub stall a b) s fun x => x.pair ⟨.fsub, a⟩ b

/-- R26. -/
def execPairedFmul (stall : BitVec 3) (a : PArg) (b : PSlot) (s : State) : Outcome State Fault Refusal :=
  word (.pairedFmul stall a b) s fun x => x.pair ⟨.fmul, a⟩ b

/-- R26. -/
def execPairedFmin (stall : BitVec 3) (a : PArg) (b : PSlot) (s : State) : Outcome State Fault Refusal :=
  word (.pairedFmin stall a b) s fun x => x.pair ⟨.fmin, a⟩ b

/-- R26. -/
def execPairedFmax (stall : BitVec 3) (a : PArg) (b : PSlot) (s : State) : Outcome State Fault Refusal :=
  word (.pairedFmax stall a b) s fun x => x.pair ⟨.fmax, a⟩ b

/-- R26. -/
def execPairedFneg (stall : BitVec 3) (a : PArg) (b : PSlot) (s : State) : Outcome State Fault Refusal :=
  word (.pairedFneg stall a b) s fun x => x.pair ⟨.fneg, a⟩ b

/-- R26. -/
def execPairedFabs (stall : BitVec 3) (a : PArg) (b : PSlot) (s : State) : Outcome State Fault Refusal :=
  word (.pairedFabs stall a b) s fun x => x.pair ⟨.fabs, a⟩ b

/-- R26. -/
def execPairedIaddZ16 (stall : BitVec 3) (a : PArg) (b : PSlot) (s : State) : Outcome State Fault Refusal :=
  word (.pairedIaddZ16 stall a b) s fun x => x.pair ⟨.iaddZ16, a⟩ b

/-- R26. -/
def execPairedIsubZ16 (stall : BitVec 3) (a : PArg) (b : PSlot) (s : State) : Outcome State Fault Refusal :=
  word (.pairedIsubZ16 stall a b) s fun x => x.pair ⟨.isubZ16, a⟩ b

/-- R26. -/
def execPairedIaddZ32 (stall : BitVec 3) (a : PArg) (b : PSlot) (s : State) : Outcome State Fault Refusal :=
  word (.pairedIaddZ32 stall a b) s fun x => x.pair ⟨.iaddZ32, a⟩ b

/-- R26. -/
def execPairedIsubZ32 (stall : BitVec 3) (a : PArg) (b : PSlot) (s : State) : Outcome State Fault Refusal :=
  word (.pairedIsubZ32 stall a b) s fun x => x.pair ⟨.isubZ32, a⟩ b

end Sys2Proof.Machine
end

