-- ==== Sys2Proof/Machine/Invert.lean ====
section
/-! DEFINITION. Bracket registers and the invert prefix (R24, R40, R155-R163): one exec of inv performs one pass, the end
check of the lanes that start afresh or one round of the lanes with status RUN, and runs the body words through their own
meanings. -/

namespace Sys2Proof.Machine

open Host (Outcome)

/-! ### Bracket registers (R155-R157) -/

/-- R155: the status codes of a bracket lane. -/
def bkNone : BitVec 3 := 0
def bkRun : BitVec 3 := 1
def bkExact : BitVec 3 := 2
def bkConv : BitVec 3 := 3
def bkMaxit : BitVec 3 := 4
def bkOut : BitVec 3 := 5
def bkMono : BitVec 3 := 6
def bkNan : BitVec 3 := 7

/-- A bracket lane that lists nothing (R82). -/
def Bracket.zero : Bracket := { lo := 0, hi := 0, ylo := 0, yhi := 0, iter := 0, status := 0 }

def Group.bracket (g : Group) (br l : Nat) : Bracket := Cells.get Bracket.zero g.b (64 * br + l)

def Group.setBracket (g : Group) (br l : Nat) (b : Bracket) : Group := { g with b := Cells.set Bracket.zero g.b (64 * br + l) b }

/-- R155: an inv of another fragment still writes the bracket register. -/
def Issue.bracketBusy (x : Issue) (br : Nat) : Bool :=
  x.grp.frags.any (fun f => f.ent != x.frag.ent && f.invIn.map InvRun.br == some br)

def isNan32 (v : Nat) : Bool := (unpack .f32 false v).isNan

/-- R160: Ord of an f32 pattern. -/
def ord32 (v : Nat) : Int := if bit v 31 then -Int.ofNat (v % 2 ^ 31) else Int.ofNat (v % 2 ^ 31)

/-- The order of R159: signed for i32, by value for f32 with +0 = -0. -/
def bkKey (isInt : Bool) (v : Nat) : Int := if isInt then sInt 32 v else ord32 v

/-- R156: the order of the two ends: for f32, -0 lies below +0. -/
def bkLe (isInt : Bool) (u v : Nat) : Bool :=
  decide (bkKey isInt u < bkKey isInt v) ||
    (bkKey isInt u == bkKey isInt v && (isInt || u % 2 ^ 32 == v % 2 ^ 32 || bit u 31))

/-- R156: bkset. -/
def execBkset (h : Hdr) (br : BitVec 3) (a b : Opr) (maxit tol : BitVec 6) (isInt : Bool) (s : State) :
    Outcome State Fault Refusal :=
  word (.bkset h br a b maxit tol isInt) s fun x =>
    .done (x.modG x.s (fun g =>
      let g : Group := { g with bcfg := Cells.set (0, 0) g.bcfg br.toNat (maxit, tol) }
      x.lanesList.foldl (fun g l =>
        let u := x.opnd 32 a l
        let v := x.opnd 32 b l
        let keep := (!isInt && (isNan32 u || isNan32 v)) || bkLe isInt u v
        g.setBracket br.toNat l
          { Bracket.zero with lo := BitVec.ofNat 32 (if keep then u else v), hi := BitVec.ofNat 32 (if keep then v else u) }) g))

/-- R157: the value bkget reads. -/
def Group.bracketField (g : Group) (br fld l : Nat) : Nat :=
  let b := g.bracket br l
  let c := Cells.get (0, 0) g.bcfg br
  match fld with
  | 0 => b.lo.toNat
  | 1 => b.hi.toNat
  | 2 => b.ylo.toNat
  | 3 => b.yhi.toNat
  | 4 => b.iter.toNat
  | 5 => b.status.toNat
  | 6 => c.1.toNat
  | _ => c.2.toNat

/-- R157: bkget. -/
def execBkget (h : Hdr) (d : Opr) (br fld : BitVec 3) (s : State) : Outcome State Fault Refusal :=
  word (.bkget h d br fld) s fun x =>
    if x.bracketBusy br.toNat then .wait
    else x.perLane 4 d (fun l => putInt (if d.isS then 64 else 32) false d l (x.grp.bracketField br.toNat fld.toNat l))

/-! ### Exact arithmetic of the hardware (R159, R160) -/

/-- The value of a pattern times 2^149 (f32) or itself (i32); none for an infinity or NaN. -/
def bkVal (isInt : Bool) (v : Nat) : Option Int :=
  if isInt then some (sInt 32 v)
  else
    match unpack .f32 false v with
    | .zero _ => some 0
    | .num neg n d => some ((if neg then -1 else 1) * (Int.ofNat n * (2 ^ 149 : Nat) / Int.ofNat d))
    | _ => none

/-- R160: Narrow. -/
def bkNarrow (isInt : Bool) (meth : InvMeth) (tol lo hi : Nat) : Bool :=
  if !isInt && meth == .ulp then decide (ord32 hi - ord32 lo ≤ Int.ofNat tol)
  else
    match bkVal isInt lo, bkVal isInt hi with
    | some a, some b => decide (b - a ≤ if isInt then Int.ofNat tol else Int.ofNat (2 ^ (149 - tol)))
    | _, _ => false

/-- An exact quotient n/d (of values scaled by 2^149 for f32) rounded to f32, or by Floor for i32. -/
def bkRound (isInt : Bool) (n : Int) (d : Nat) : Nat :=
  if isInt then wrap 32 (n / Int.ofNat d)
  else if n = 0 then 0 else (roundTo .f32 bankRounding (decide (n < 0)) n.natAbs (d * 2 ^ 149)).1

/-- R160: the midpoint; of two opposite infinities there is none, which is the canonical NaN. -/
def bkMid (isInt : Bool) (lo hi : Nat) : Nat :=
  match bkVal isInt lo, bkVal isInt hi with
  | some a, some b => bkRound isInt (a + b) 2
  | some _, none => hi
  | none, some _ => lo
  | none, none => if lo = hi then lo else FFmt.nan .f32

/-- R160: the f32 whose Ord is k. -/
def ofOrd (k : Int) : Nat := if 0 ≤ k then k.toNat else 2 ^ 31 + (-k).toNat

/-- R160: the secant point, when it lies strictly between the ends; with an infinite end, value or target there is none, and Point falls back to
the midpoint (DESIGN CHOICE, log entry 35). -/
def bkSecant (isInt : Bool) (b : Bracket) (t : Nat) : Option Nat :=
  match bkVal isInt b.lo.toNat, bkVal isInt b.hi.toNat, bkVal isInt b.ylo.toNat, bkVal isInt b.yhi.toNat, bkVal isInt t with
  | some lo, some hi, some yl, some yh, some t =>
    if yh = yl then none
    else
      let den := yh - yl
      let num := lo * den + (t - yl) * (hi - lo)
      let p := bkRound isInt (if den < 0 then -num else num) den.natAbs
      match bkVal isInt p with
      | some v => if lo < v && v < hi then some p else none
      | none => none
  | _, _, _, _, _ => none

/-- R160: Point. -/
def bkPoint (isInt : Bool) (meth : InvMeth) (b : Bracket) (t : Nat) : Nat :=
  let mid := if !isInt && meth == .ulp then ofOrd ((ord32 b.lo.toNat + ord32 b.hi.toNat) / 2) else bkMid isInt b.lo.toNat b.hi.toNat
  if meth == .sec && b.iter.toNat % 2 == 0 then (bkSecant isInt b t).getD mid else mid

/-- R159: Nearer: the end whose y is nearer the target, lo on a tie. -/
def bkNearer (isInt : Bool) (b : Bracket) (t : Nat) : Nat × Nat :=
  let hiNearer :=
    match bkVal isInt b.ylo.toNat, bkVal isInt b.yhi.toNat, bkVal isInt t with
    | some l, some h, some t => decide ((h - t).natAbs < (l - t).natAbs)
    | none, some _, some _ => true
    | _, _, _ => false
  if hiNearer then (b.hi.toNat, b.yhi.toNat) else (b.lo.toNat, b.ylo.toNat)

/-! ### The body (R40, R158) -/

/-- R158: a word an inv body may hold: class 0 or 1, a paired word or ldl, no accumulator fragment, and no write of an s
register, of the x register or of the target. -/
def bodyOk (i : Instr) (W : Nat) (d : Fin 192) (b : Opr) : Bool :=
  let sh := i.shape W
  let kind := i.pair?.isSome || (match i with | .ldl .. => true | _ => false) ||
    (match encodeNat i with | some w => decide (fld w 39 10 < 256) | none => false)
  let keeps (n : Nat) (r : Ref) : Bool := match r with | .v m k => decide (n < m) || decide (m + k ≤ n) | .img m k => decide (n < m) || decide (m + k ≤ n) | _ => true
  kind && sh.frag.isNone &&
    sh.writes.all (fun r => (match r with | .s _ => false | _ => true) && keeps d.val r &&
      (match b with | .v n => keeps n.val r | .s _ => true))

/-- The meaning of a body word. -/
def bodyExec (i : Instr) (s : State) : Outcome State Fault Refusal :=
  match i with
  | .nop h => execNop h s
  | .mov h d a ty => execMov h d a ty s
  | .movi h d imm => execMovi h d imm s
  | .movh h d q imm => execMovh h d q imm s
  | .sel h d a b p neg ty => execSel h d a b p neg ty s
  | .iadd h d a b ty => execIadd h d a b ty s
  | .isub h d a b ty => execIsub h d a b ty s
  | .imul h d a b ty => execImul h d a b ty s
  | .imulh h d a b ty => execImulh h d a b ty s
  | .imad h d a b c ty => execImad h d a b c ty s
  | .imin h d a b ty => execImin h d a b ty s
  | .imax h d a b ty => execImax h d a b ty s
  | .iabs h d a ty => execIabs h d a ty s
  | .ineg h d a ty => execIneg h d a ty s
  | .isat h d a tgt ty => execIsat h d a tgt ty s
  | .idiv h d a b ty => execIdiv h d a b ty s
  | .irem h d a b ty => execIrem h d a b ty s
  | .and h d a b ty => execAnd h d a b ty s
  | .or h d a b ty => execOr h d a b ty s
  | .xor h d a b ty => execXor h d a b ty s
  | .andn h d a b ty => execAndn h d a b ty s
  | .not h d a ty => execNot h d a ty s
  | .shl h d a b ty => execShl h d a b ty s
  | .shr h d a b ty => execShr h d a b ty s
  | .sar h d a b ty => execSar h d a b ty s
  | .rot h d a b ty => execRot h d a b ty s
  | .bfe h d a b ty => execBfe h d a b ty s
  | .bfi h d a b c ty => execBfi h d a b c ty s
  | .popc h d a ty => execPopc h d a ty s
  | .clz h d a ty => execClz h d a ty s
  | .brev h d a ty => execBrev h d a ty s
  | .icmp h p a b cond ty => execIcmp h p a b cond ty s
  | .lea h d a b sh ty => execLea h d a b sh ty s
  | .fadd h d a b ty rnd => execFadd h d a b ty rnd s
  | .fsub h d a b ty rnd => execFsub h d a b ty rnd s
  | .fmul h d a b ty rnd => execFmul h d a b ty rnd s
  | .ffma h d a b ty rnd => execFfma h d a b ty rnd s
  | .fmin h d a b ty => execFmin h d a b ty s
  | .fmax h d a b ty => execFmax h d a b ty s
  | .fcmp h p a b ty => execFcmp h p a b ty s
  | .fclass h d a ty => execFclass h d a ty s
  | .frcp h d a ty => execFrcp h d a ty s
  | .frsq h d a ty => execFrsq h d a ty s
  | .fsqrt h d a ty rnd => execFsqrt h d a ty rnd s
  | .fdiv h d a b ty rnd => execFdiv h d a b ty rnd s
  | .fexp2 h d a ty => execFexp2 h d a ty s
  | .flog2 h d a ty => execFlog2 h d a ty s
  | .fsin h d a ty => execFsin h d a ty s
  | .fcos h d a ty => execFcos h d a ty s
  | .ftanh h d a ty => execFtanh h d a ty s
  | .fsig h d a ty => execFsig h d a ty s
  | .fround h d a ty rnd => execFround h d a ty rnd s
  | .fscale h d a b ty rnd => execFscale h d a b ty rnd s
  | .cvt h d src rnd => execCvt h d src rnd s
  | .bfpk h d a w desc ty rnd => execBfpk h d a w desc ty rnd s
  | .bfup h d a w desc ty rnd => execBfup h d a w desc ty rnd s
  | .bfscl h d a w desc ty rnd => execBfscl h d a w desc ty rnd s
  | .fdot2 h d a b c rnd => execFdot2 h d a b c rnd s
  | .ldl h d m sz ofs => execLdl h d m sz ofs s
  | .pairedNop stall a b => execPairedNop stall a b s
  | .pairedMov stall a b => execPairedMov stall a b s
  | .pairedMovi stall a b => execPairedMovi stall a b s
  | .pairedIadd stall a b => execPairedIadd stall a b s
  | .pairedIsub stall a b => execPairedIsub stall a b s
  | .pairedAnd stall a b => execPairedAnd stall a b s
  | .pairedOr stall a b => execPairedOr stall a b s
  | .pairedXor stall a b => execPairedXor stall a b s
  | .pairedShl stall a b => execPairedShl stall a b s
  | .pairedShr stall a b => execPairedShr stall a b s
  | .pairedSar stall a b => execPairedSar stall a b s
  | .pairedImin stall a b => execPairedImin stall a b s
  | .pairedImax stall a b => execPairedImax stall a b s
  | .pairedIneg stall a b => execPairedIneg stall a b s
  | .pairedNot stall a b => execPairedNot stall a b s
  | .pairedFadd stall a b => execPairedFadd stall a b s
  | .pairedFsub stall a b => execPairedFsub stall a b s
  | .pairedFmul stall a b => execPairedFmul stall a b s
  | .pairedFmin stall a b => execPairedFmin stall a b s
  | .pairedFmax stall a b => execPairedFmax stall a b s
  | .pairedFneg stall a b => execPairedFneg stall a b s
  | .pairedFabs stall a b => execPairedFabs stall a b s
  | .pairedIaddZ16 stall a b => execPairedIaddZ16 stall a b s
  | .pairedIsubZ16 stall a b => execPairedIsubZ16 stall a b s
  | .pairedIaddZ32 stall a b => execPairedIaddZ32 stall a b s
  | .pairedIsubZ32 stall a b => execPairedIsubZ32 stall a b s
  | _ => .next s

/-- R40, R154: a decoded body word does not trap ILL. -/
def bodyLegal (i : Instr) (W vregs : Nat) : Bool :=
  i.legal && ((i.shape W).reads ++ (i.shape W).writes).all (Ref.below vregs) &&
    (match i with | .jmp _ (.s _) => false | _ => true)

/-- R40: the body words as they stand in memory, in address order and up to the first that traps ILL: their addresses, words and
instructions; none is a word that traps ILL. A fetch that faults before it ends the list (log entry 79). -/
def State.fetchBody (sp : Space) (W vregs : Nat) : Nat → Word → State → State × Except (Word × Nat) (List (Word × Word × Option Instr))
  | 0, _, s => (s, .ok [])
  | n + 1, pc, s =>
    match s.fetch sp pc with
    | (s, .error e) => (s, .error (pc, e))
    | (s, .ok w) =>
      let i : Option Instr :=
        match decode w with
        | .ok i => if bodyLegal i W vregs then some i else none
        | .error _ => none
      if i.isNone then (s, .ok [(pc, w, none)])
      else
        match State.fetchBody sp W vregs n (nextPc pc) s with
        | (s, .ok rest) => (s, .ok ((pc, w, i) :: rest))
        | (s, .error e) => (s, .error e)

/-- The issuing group as it stands in a state. -/
def Issue.groupIn (x : Issue) (s : State) : Group := ((s.team? x.team.id).bind (fun t => t.groups[x.gi]?)).getD x.grp

/-- The trap a body word took, kept in the fragment. -/
def Issue.bodyTrap (x : Issue) (s : State) : Option Trap :=
  match ((x.groupIn s).frag? x.frag.ent).map Frag.st with
  | some (.blocked (.trap code sub _ tval)) => some { code := code, sub := sub, tval := tval, tpc := some x.pc }
  | _ => none

/-- Results of variable latency of a body word are written before the next body word (R32). -/
def Group.finishNew (g : Group) : Group := g.pend.foldl (fun g p => g.finishPend p) g

/-- R163, R256: one body word for a set of lanes, in the cycle in which it finds a unit; the next follows once its STALL and its
pipe-cycles have passed. -/
def Issue.bodyWord (x : Issue) (S : Lanes) (s : State) (p : Word × Instr) : State :=
  let s := x.modF { s with cur := .body x.team.id x.gi x.frag.ent, nonce := s.nonce + 1 } (fun f =>
    { f with mask := S, pc := p.1, st := .ready, todo := none, invIn := none })
  let perLane := p.2.perLane x.W
  let s : State := { s with clock := s.unitAt x.team perLane }
  let before := (x.groupIn s).pend
  let s := match bodyExec p.2 s with | .next s' => s' | _ => s
  let fresh := (x.groupIn s).pend.filter (fun q => !(before.any (fun r => r.id == q.id)))
  let s := x.modG s (fun g => fresh.foldl (fun g q => g.finishPend q) g)
  { s with clock := s.clock + max (max (stallOf p.2) 1) (if perLane then pipeCycles S else 1) }

/-- R159: Body(S): v(D) takes each lane's x, the body words run in turn, and it completes when every result is ready; or a
body word traps. -/
def Issue.bodyRun (x : Issue) (d : Fin 192) (S : Lanes) (xs : Nat → Nat) (body : List (Word × Instr)) (s : State) :
    State × Option Trap :=
  let s := x.modG s (fun g => g.launchFlight ⟨s.clock, (laneList x.W S).map (fun l => ⟨.v d.val l, zext (xs l) 32⟩), 0, none⟩)
  let r := body.foldl (fun (r : State × Option Trap) p =>
    match r.2 with
    | some _ => r
    | none =>
      let s := x.bodyWord S r.1 p
      (s, x.bodyTrap s)) (s, none)
  let ready := (x.groupIn r.1).flights.foldl (fun m f => max m f.ready) r.1.clock
  ({ r.1 with clock := ready }, r.2)

/-! ### One pass (R159-R163) -/

/-- The fields of an inv word. -/
structure InvWord where
  d : Fin 192
  a : Fin 192
  b : Opr
  br : Nat
  meth : InvMeth
  dec : Bool
  isInt : Bool
  stall : Nat
  body : List (Word × Instr)

/-- What a pass does to one lane: its bracket, and the x and y it finishes with. -/
structure LaneEnd where
  lane : Nat
  bk   : Bracket
  fin  : Option (Nat × Nat)
  mono : Bool

/-- R159: Yb. -/
def InvWord.below (w : InvWord) (u v : Nat) : Bool :=
  if w.dec then decide (bkKey w.isInt v < bkKey w.isInt u) else decide (bkKey w.isInt u < bkKey w.isInt v)

def InvWord.same (w : InvWord) (u v : Nat) : Bool := bkKey w.isInt u == bkKey w.isInt v

def InvWord.nan (w : InvWord) (v : Nat) : Bool := !w.isInt && isNan32 v

def Bracket.ends (b : Bracket) (l : Nat) (st : BitVec 3) (x y : Nat) (mono : Bool) : LaneEnd :=
  { lane := l, bk := { b with status := st }, fin := some (x, y), mono := mono }

/-- R159: the end check of a lane, with y at both ends. -/
def InvWord.endLane (w : InvWord) (b : Bracket) (t l yl yh : Nat) : LaneEnd :=
  let b : Bracket := { b with iter := 0, ylo := BitVec.ofNat 32 yl, yhi := BitVec.ofNat 32 yh }
  let lo := b.lo.toNat
  let hi := b.hi.toNat
  if w.nan yl || w.nan yh then b.ends l bkNan hi yh false
  else if w.below yh yl then b.ends l bkMono hi yh true
  else if w.same t yl then b.ends l bkExact lo yl false
  else if w.same t yh then b.ends l bkExact hi yh false
  else if w.below t yl then b.ends l bkOut lo yl false
  else if w.below yh t then b.ends l bkOut hi yh false
  else { lane := l, bk := { b with status := bkRun }, fin := none, mono := false }

/-- R159: a lane at the top of a round: it finishes without a body, or takes an x. The point is compared with the ends by value, so that +0 and
-0 are the same (DESIGN CHOICE, log entry 35). -/
def InvWord.topLane (w : InvWord) (b : Bracket) (maxit tol t l : Nat) : LaneEnd ⊕ Nat :=
  let near := bkNearer w.isInt b t
  if bkNarrow w.isInt w.meth tol b.lo.toNat b.hi.toNat then .inl (b.ends l bkConv near.1 near.2 false)
  else if b.iter.toNat = maxit then .inl (b.ends l bkMaxit near.1 near.2 false)
  else
    let p := bkPoint w.isInt w.meth b t
    if w.same p b.lo.toNat || w.same p b.hi.toNat then .inl (b.ends l bkConv near.1 near.2 false) else .inr p

/-- R159: a lane at the bottom of a round. -/
def InvWord.roundLane (w : InvWord) (b : Bracket) (t l p y : Nat) : LaneEnd :=
  let b : Bracket := { b with iter := b.iter + 1 }
  if w.nan y then b.ends l bkNan p y false
  else if w.below y b.ylo.toNat || w.below b.yhi.toNat y then b.ends l bkMono p y true
  else if w.same y t then b.ends l bkExact p y false
  else if w.below y t then
    { lane := l, bk := { b with lo := BitVec.ofNat 32 p, ylo := BitVec.ofNat 32 y }, fin := none, mono := false }
  else { lane := l, bk := { b with hi := BitVec.ofNat 32 p, yhi := BitVec.ofNat 32 y }, fin := none, mono := false }

/-- The y of a lane once a body run is complete. -/
def Issue.yOf (x : Issue) (s : State) (a : Fin 192) (l : Nat) : Nat := ((x.groupIn s).read s.clock s.nonce (.v a.val l)).toNat

/-- A pass lies wholly in the cycle of its inv's issue, but for the units that its body words hold. -/
def Issue.invBack (x : Issue) (s : State) : State :=
  x.modG { s with clock := x.s.clock, cur := x.who } (fun g => { g with last := x.s.clock, pipeAt := (x.groupIn x.s).pipeAt })

/-- R159, R161: what a pass has found is written, and the inv goes on, ends, or takes INVMONO. -/
def Issue.invWrite (x : Issue) (w : InvWord) (run : InvRun) (done : Word) (s : State) (ends : List LaneEnd) : Act :=
  let fins := ends.filterMap (fun e => e.fin.map (fun f => (e.lane, f)))
  let run : InvRun := { run with fin := run.fin ||| laneSet 64 (fun l => fins.any (fun e => e.1 == l)), again := false }
  let ready := s.clock
  let s := x.modG (x.invBack s) (fun g =>
    let g := ends.foldl (fun g e => g.setBracket w.br e.lane e.bk) g
    g.launchFlight ⟨ready, fins.flatMap (fun f =>
      [⟨.v w.d.val f.1, zext f.2.1 32⟩, ⟨.v w.a.val f.1, zext f.2.2 32⟩]), 0, none⟩)
  let g := x.groupIn s
  let runs := (laneList x.W run.lanes).any (fun l => (g.bracket w.br l).status == bkRun)
  let s := x.modF s (fun f =>
    { f with mask := x.frag.mask, st := .ready, todo := none, pc := if runs then x.pc else done,
             invIn := if runs then some run else none, wake := max (x.s.clock + max w.stall 1) (ready + 3) })
  let mono := laneSet 64 (fun l => ends.any (fun e => e.lane == l && e.mono))
  if mono != 0 && run.imt then
    .trapIn (x.modF s (fun f => { f with pc := x.pc, invIn := some run })) { code := cINVMONO, tval := mono, tpc := some x.pc }
  else .done s

/-- R162: a body word has trapped: the round is discarded; the lanes that have finished stay finished. -/
def Issue.invDrop (x : Issue) (s : State) (c : Trap) : Act :=
  .trapIn (x.modF (x.invBack s) (fun f =>
    { f with mask := x.frag.mask, pc := x.pc, st := .ready, todo := none, invIn := x.frag.invIn })) c

/-- R159: one pass. -/
def Issue.invPass (x : Issue) (w : InvWord) (run : InvRun) (done : Word) : Act :=
  let g := x.grp
  let lanes := laneList x.W run.lanes
  let t (l : Nat) : Nat := run.tgts.getD l 0
  let fresh := if x.frag.inInv.isSome then [] else lanes.filter (fun l => (g.bracket w.br l).status != bkRun)
  let cfg := Cells.get (0, 0) g.bcfg w.br
  if !fresh.isEmpty then
    let bad := fresh.filter (fun l =>
      let b := g.bracket w.br l
      w.nan b.lo.toNat || w.nan b.hi.toNat || w.nan (t l))
    let S := laneSet x.W (fun l => fresh.contains l && !bad.contains l)
    let nans := bad.map (fun l =>
      let b := g.bracket w.br l
      ({ b with iter := 0 } : Bracket).ends l bkNan b.lo.toNat 0 false)
    if S = 0 then x.invWrite w run done x.s nans
    else
      let r1 := x.bodyRun w.d S (fun l => (g.bracket w.br l).lo.toNat) w.body x.s
      match r1.2 with
      | some c => x.invDrop r1.1 c
      | none =>
        let yl (l : Nat) : Nat := x.yOf r1.1 w.a l
        let r2 := x.bodyRun w.d S (fun l => (g.bracket w.br l).hi.toNat) w.body r1.1
        match r2.2 with
        | some c => x.invDrop r2.1 c
        | none =>
          x.invWrite w run done r2.1
            (nans ++ (laneList x.W S).map (fun l => w.endLane (g.bracket w.br l) (t l) l (yl l) (x.yOf r2.1 w.a l)))
  else
    let tops := (lanes.filter (fun l => (g.bracket w.br l).status == bkRun)).map (fun l =>
      (l, w.topLane (g.bracket w.br l) cfg.1.toNat cfg.2.toNat (t l) l))
    let ends := tops.filterMap (fun p => match p.2 with | .inl e => some e | .inr _ => none)
    let pts := tops.filterMap (fun p => match p.2 with | .inl _ => none | .inr q => some (p.1, q))
    if pts.isEmpty then x.invWrite w run done x.s ends
    else
      let S := laneSet x.W (fun l => pts.any (fun p => p.1 == l))
      let r := x.bodyRun w.d S (fun l => ((pts.find? (fun p => p.1 == l)).map Prod.snd).getD 0) w.body x.s
      match r.2 with
      | some c => x.invDrop r.1 c
      | none =>
        x.invWrite w run done r.1
          (ends ++ pts.map (fun p => w.roundLane (g.bracket w.br p.1) (t p.1) p.1 p.2 (x.yOf r.1 w.a p.1)))

/-- A fault of an instruction fetch of the fragment that issues: it parks, or MEMF. -/
def Issue.fetchFault (x : Issue) (s : State) (va : Word) (sub : Nat) : Act :=
  if replayable sub then .block (x.park s x.lanes [⟨va, false, true, false, sub, x.gi⟩])
  else .trapIn (x.modF s (fun f => { f with pc := x.pc })) { code := cMEMF, sub := sub, tval := va, tpc := some x.pc }

/-- R159, R162: an inv as it issues: MODE.IMT and the targets are read, and its lanes are those whose condition is true but MONO lanes and,
when it issues again after a trap or a restore, lanes that have finished, until a bkset writes them. -/
def Issue.invIssue (x : Issue) (br : Nat) (b : Opr) (body : List (Word × Instr)) : InvRun :=
  let old : Lanes := ((x.frag.invIn.filter (fun r => r.br == br)).map InvRun.fin).getD 0
  let lanes := laneSet x.W (fun l =>
    let st := (x.grp.bracket br l).status
    x.lanes.getLsbD l && st != bkMono && !(old.getLsbD l && st != bkNone))
  { pc := x.pc, br := br, lanes := lanes, imt := modeImt x.grp.mode, tgts := (List.range x.W).map (x.opnd 32 b), fin := old &&& ~~~lanes,
    body := body, again := false }

/-- R159: inv. One that is in progress goes on with the lanes it has taken up and the words it has decoded. -/
def execInv (h : Hdr) (d a : Fin 192) (b : Opr) (len : BitVec 5) (br : BitVec 3) (meth : InvMeth) (dec isInt : Bool) (s : State) :
    Outcome State Fault Refusal :=
  word (.inv h d a b len br meth dec isInt) s fun x =>
    let done := x.pc + BitVec.ofNat 64 (8 * (len.toNat + 1))
    let go (s : State) (run : InvRun) : Act :=
      if run.lanes = 0 then .done (x.modF s (fun f => { f with pc := done }))
      else if x.bracketBusy br.toNat ||
          x.grp.interlocked (run.body.flatMap (fun p => guardRefs p.2 ++ (p.2.shape x.W).reads ++ (p.2.shape x.W).writes)) then .wait
      else Issue.invPass { x with s := s } ⟨d, a, b, br.toNat, meth, dec, isInt, h.stall.toNat, run.body⟩ run done
    match x.frag.inInv with
    | some run => go x.s run
    | none =>
    match State.fetchBody x.space x.W x.la.r.vregs len.toNat (nextPc x.pc) x.s with
    | (s, .error e) => x.fetchFault s e.1 e.2
    | (s, .ok ws) =>
      match ws.find? (fun p => p.2.2.isNone), ws.find? (fun p => !((p.2.2.map (fun i => bodyOk i x.W d b)).getD false)) with
      | some p, _ => .trap { code := cILL, tval := p.2.1 }
      | none, some p => .trap { code := cINVBODY, tval := p.2.1 }
      | none, none => go s (x.invIssue br.toNat b (ws.filterMap (fun p => p.2.2.map (fun i => (p.1, i)))))

end Sys2Proof.Machine
end

