-- ==== Sys2Proof/Machine/Dispatch.lean ====
section
/-! DEFINITION. The dispatch of every instruction and event to its meaning, one arm per constructor of Instr. -/

namespace Sys2Proof.Machine

def exec (i : Instr) (s : State) : Host.Outcome State Fault Refusal :=
  match i with
  | .nop h => Sys2Proof.Machine.execNop h s
  | .mov h d a ty => Sys2Proof.Machine.execMov h d a ty s
  | .movi h d imm => Sys2Proof.Machine.execMovi h d imm s
  | .movh h d q imm => Sys2Proof.Machine.execMovh h d q imm s
  | .sel h d a b p neg ty => Sys2Proof.Machine.execSel h d a b p neg ty s
  | .iadd h d a b ty => Sys2Proof.Machine.execIadd h d a b ty s
  | .isub h d a b ty => Sys2Proof.Machine.execIsub h d a b ty s
  | .imul h d a b ty => Sys2Proof.Machine.execImul h d a b ty s
  | .imulh h d a b ty => Sys2Proof.Machine.execImulh h d a b ty s
  | .imad h d a b c ty => Sys2Proof.Machine.execImad h d a b c ty s
  | .imin h d a b ty => Sys2Proof.Machine.execImin h d a b ty s
  | .imax h d a b ty => Sys2Proof.Machine.execImax h d a b ty s
  | .iabs h d a ty => Sys2Proof.Machine.execIabs h d a ty s
  | .ineg h d a ty => Sys2Proof.Machine.execIneg h d a ty s
  | .isat h d a tgt ty => Sys2Proof.Machine.execIsat h d a tgt ty s
  | .idiv h d a b ty => Sys2Proof.Machine.execIdiv h d a b ty s
  | .irem h d a b ty => Sys2Proof.Machine.execIrem h d a b ty s
  | .and h d a b ty => Sys2Proof.Machine.execAnd h d a b ty s
  | .or h d a b ty => Sys2Proof.Machine.execOr h d a b ty s
  | .xor h d a b ty => Sys2Proof.Machine.execXor h d a b ty s
  | .andn h d a b ty => Sys2Proof.Machine.execAndn h d a b ty s
  | .not h d a ty => Sys2Proof.Machine.execNot h d a ty s
  | .shl h d a b ty => Sys2Proof.Machine.execShl h d a b ty s
  | .shr h d a b ty => Sys2Proof.Machine.execShr h d a b ty s
  | .sar h d a b ty => Sys2Proof.Machine.execSar h d a b ty s
  | .rot h d a b ty => Sys2Proof.Machine.execRot h d a b ty s
  | .bfe h d a b ty => Sys2Proof.Machine.execBfe h d a b ty s
  | .bfi h d a b c ty => Sys2Proof.Machine.execBfi h d a b c ty s
  | .popc h d a ty => Sys2Proof.Machine.execPopc h d a ty s
  | .clz h d a ty => Sys2Proof.Machine.execClz h d a ty s
  | .brev h d a ty => Sys2Proof.Machine.execBrev h d a ty s
  | .icmp h p a b cond ty => Sys2Proof.Machine.execIcmp h p a b cond ty s
  | .lea h d a b sh ty => Sys2Proof.Machine.execLea h d a b sh ty s
  | .fadd h d a b ty rnd => Sys2Proof.Machine.execFadd h d a b ty rnd s
  | .fsub h d a b ty rnd => Sys2Proof.Machine.execFsub h d a b ty rnd s
  | .fmul h d a b ty rnd => Sys2Proof.Machine.execFmul h d a b ty rnd s
  | .ffma h d a b ty rnd => Sys2Proof.Machine.execFfma h d a b ty rnd s
  | .fmin h d a b ty => Sys2Proof.Machine.execFmin h d a b ty s
  | .fmax h d a b ty => Sys2Proof.Machine.execFmax h d a b ty s
  | .fcmp h p a b ty => Sys2Proof.Machine.execFcmp h p a b ty s
  | .fclass h d a ty => Sys2Proof.Machine.execFclass h d a ty s
  | .frcp h d a ty => Sys2Proof.Machine.execFrcp h d a ty s
  | .frsq h d a ty => Sys2Proof.Machine.execFrsq h d a ty s
  | .fsqrt h d a ty rnd => Sys2Proof.Machine.execFsqrt h d a ty rnd s
  | .fdiv h d a b ty rnd => Sys2Proof.Machine.execFdiv h d a b ty rnd s
  | .fexp2 h d a ty => Sys2Proof.Machine.execFexp2 h d a ty s
  | .flog2 h d a ty => Sys2Proof.Machine.execFlog2 h d a ty s
  | .fsin h d a ty => Sys2Proof.Machine.execFsin h d a ty s
  | .fcos h d a ty => Sys2Proof.Machine.execFcos h d a ty s
  | .ftanh h d a ty => Sys2Proof.Machine.execFtanh h d a ty s
  | .fsig h d a ty => Sys2Proof.Machine.execFsig h d a ty s
  | .fround h d a ty rnd => Sys2Proof.Machine.execFround h d a ty rnd s
  | .fscale h d a b ty rnd => Sys2Proof.Machine.execFscale h d a b ty rnd s
  | .cvt h d src rnd => Sys2Proof.Machine.execCvt h d src rnd s
  | .bfpk h d a w desc ty rnd => Sys2Proof.Machine.execBfpk h d a w desc ty rnd s
  | .bfup h d a w desc ty rnd => Sys2Proof.Machine.execBfup h d a w desc ty rnd s
  | .bfscl h d a w desc ty rnd => Sys2Proof.Machine.execBfscl h d a w desc ty rnd s
  | .fdot2 h d a b c rnd => Sys2Proof.Machine.execFdot2 h d a b c rnd s
  | .bra h off rc => Sys2Proof.Machine.execBra h off rc s
  | .jmp h a => Sys2Proof.Machine.execJmp h a s
  | .call h off rc => Sys2Proof.Machine.execCall h off rc s
  | .ret h => Sys2Proof.Machine.execRet h s
  | .regang h mask => Sys2Proof.Machine.execRegang h mask s
  | .exit h => Sys2Proof.Machine.execExit h s
  | .inv h d a b len br meth dec isInt => Sys2Proof.Machine.execInv h d a b len br meth dec isInt s
  | .bkset h br a b maxit tol isInt => Sys2Proof.Machine.execBkset h br a b maxit tol isInt s
  | .bkget h d br fld => Sys2Proof.Machine.execBkget h d br fld s
  | .prm h d a b mode w64 => Sys2Proof.Machine.execPrm h d a b mode w64 s
  | .vote h d p => Sys2Proof.Machine.execVote h d p s
  | .lred h d a op rnd => Sys2Proof.Machine.execLred h d a op rnd s
  | .lscan h d a excl op rnd => Sys2Proof.Machine.execLscan h d a excl op rnd s
  | .rdlane h d a b w64 => Sys2Proof.Machine.execRdlane h d a b w64 s
  | .plop h d a b tt => Sys2Proof.Machine.execPlop h d a b tt s
  | .p2r h d => Sys2Proof.Machine.execP2r h d s
  | .r2p h a mask => Sys2Proof.Machine.execR2p h a mask s
  | .ld h d m sz ofs => Sys2Proof.Machine.execLd h d m sz ofs s
  | .st h d m sz ofs => Sys2Proof.Machine.execSt h d m sz ofs s
  | .ldl h d m sz ofs => Sys2Proof.Machine.execLdl h d m sz ofs s
  | .stl h d m sz ofs => Sys2Proof.Machine.execStl h d m sz ofs s
  | .lds h d m sz win ofs => Sys2Proof.Machine.execLds h d m sz win ofs s
  | .sts h d m sz win ofs => Sys2Proof.Machine.execSts h d m sz win ofs s
  | .pf h m sz ofs => Sys2Proof.Machine.execPf h m sz ofs s
  | .bred h d m sz op ofs => Sys2Proof.Machine.execBred h d m sz op ofs s
  | .bupd h d m sz op ofs => Sys2Proof.Machine.execBupd h d m sz op ofs s
  | .qinit h a b => Sys2Proof.Machine.execQinit h a b s
  | .qenq h d m sz wait p ofs => Sys2Proof.Machine.execQenq h d m sz wait p ofs s
  | .qdeq h d m sz wait p ofs => Sys2Proof.Machine.execQdeq h d m sz wait p ofs s
  | .atom h d m sz op ord => Sys2Proof.Machine.execAtom h d m sz op ord s
  | .lda h d m sz ofs => Sys2Proof.Machine.execLda h d m sz ofs s
  | .str h d m sz ofs => Sys2Proof.Machine.execStr h d m sz ofs s
  | .fence h kind => Sys2Proof.Machine.execFence h kind s
  | .barInit h a nb ring => Sys2Proof.Machine.execBarInit h a nb ring s
  | .barArrive h d nb => Sys2Proof.Machine.execBarArrive h d nb s
  | .barWait h a nb => Sys2Proof.Machine.execBarWait h a nb s
  | .barSync h d nb => Sys2Proof.Machine.execBarSync h d nb s
  | .barDrop h d nb => Sys2Proof.Machine.execBarDrop h d nb s
  | .barExpect h a nb => Sys2Proof.Machine.execBarExpect h a nb s
  | .barBind h nb lvl => Sys2Proof.Machine.execBarBind h nb lvl s
  | .tlwait h a tl => Sys2Proof.Machine.execTlwait h a tl s
  | .tlread h d tl => Sys2Proof.Machine.execTlread h d tl s
  | .yield h cont b on => Sys2Proof.Machine.execYield h cont b on s
  | .gang h a => Sys2Proof.Machine.execGang h a s
  | .mma h t a b mode => Sys2Proof.Machine.execMma h t a b mode s
  | .acczero h t => Sys2Proof.Machine.execAcczero h t s
  | .accld h t a => Sys2Proof.Machine.execAccld h t a s
  | .accst h t a => Sys2Proof.Machine.execAccst h t a s
  | .acccvt h t a fmt rnd => Sys2Proof.Machine.execAcccvt h t a fmt rnd s
  | .scfg h a b dch kind => Sys2Proof.Machine.execScfg h a b dch kind s
  | .srun h => Sys2Proof.Machine.execSrun h s
  | .scin h => Sys2Proof.Machine.execScin h s
  | .scout h => Sys2Proof.Machine.execScout h s
  | .sfix h => Sys2Proof.Machine.execSfix h s
  | .cpy h d a b s2g bar => Sys2Proof.Machine.execCpy h d a b s2g bar s
  | .lrmk h d a b => Sys2Proof.Machine.execLrmk h d a b s
  | .gxch h d a b st nb be k32 => Sys2Proof.Machine.execGxch h d a b st nb be k32 s
  | .shmul h d a b st k => Sys2Proof.Machine.execShmul h d a b st k s
  | .shtrunc h d a st f k => Sys2Proof.Machine.execShtrunc h d a st f k s
  | .shsign h d a st k => Sys2Proof.Machine.execShsign h d a st k s
  | .shopen h d a st k => Sys2Proof.Machine.execShopen h d a st k s
  | .shin h d own st k => Sys2Proof.Machine.execShin h d own st k s
  | .send h a b len => Sys2Proof.Machine.execSend h a b len s
  | .recv h d a b len anyt anys => Sys2Proof.Machine.execRecv h d a b len anyt anys s
  | .mprobe h d a len anyt anys => Sys2Proof.Machine.execMprobe h d a len anyt anys s
  | .trap h code => Sys2Proof.Machine.execTrap h code s
  | .rtt h => Sys2Proof.Machine.execRtt h s
  | .brkp h code => Sys2Proof.Machine.execBrkp h code s
  | .rdsr h d sr => Sys2Proof.Machine.execRdsr h d sr s
  | .wrsr h a sr => Sys2Proof.Machine.execWrsr h a sr s
  | .mark h a id => Sys2Proof.Machine.execMark h a id s
  | .lnch h d a => Sys2Proof.Machine.execLnch h d a s
  | .ldep h a b tl => Sys2Proof.Machine.execLdep h a b tl s
  | .lwait h a b tl => Sys2Proof.Machine.execLwait h a b tl s
  | .lsig h a b tl => Sys2Proof.Machine.execLsig h a b tl s
  | .pairedNop stall a b => Sys2Proof.Machine.execPairedNop stall a b s
  | .pairedMov stall a b => Sys2Proof.Machine.execPairedMov stall a b s
  | .pairedMovi stall a b => Sys2Proof.Machine.execPairedMovi stall a b s
  | .pairedIadd stall a b => Sys2Proof.Machine.execPairedIadd stall a b s
  | .pairedIsub stall a b => Sys2Proof.Machine.execPairedIsub stall a b s
  | .pairedAnd stall a b => Sys2Proof.Machine.execPairedAnd stall a b s
  | .pairedOr stall a b => Sys2Proof.Machine.execPairedOr stall a b s
  | .pairedXor stall a b => Sys2Proof.Machine.execPairedXor stall a b s
  | .pairedShl stall a b => Sys2Proof.Machine.execPairedShl stall a b s
  | .pairedShr stall a b => Sys2Proof.Machine.execPairedShr stall a b s
  | .pairedSar stall a b => Sys2Proof.Machine.execPairedSar stall a b s
  | .pairedImin stall a b => Sys2Proof.Machine.execPairedImin stall a b s
  | .pairedImax stall a b => Sys2Proof.Machine.execPairedImax stall a b s
  | .pairedIneg stall a b => Sys2Proof.Machine.execPairedIneg stall a b s
  | .pairedNot stall a b => Sys2Proof.Machine.execPairedNot stall a b s
  | .pairedFadd stall a b => Sys2Proof.Machine.execPairedFadd stall a b s
  | .pairedFsub stall a b => Sys2Proof.Machine.execPairedFsub stall a b s
  | .pairedFmul stall a b => Sys2Proof.Machine.execPairedFmul stall a b s
  | .pairedFmin stall a b => Sys2Proof.Machine.execPairedFmin stall a b s
  | .pairedFmax stall a b => Sys2Proof.Machine.execPairedFmax stall a b s
  | .pairedFneg stall a b => Sys2Proof.Machine.execPairedFneg stall a b s
  | .pairedFabs stall a b => Sys2Proof.Machine.execPairedFabs stall a b s
  | .pairedIaddZ16 stall a b => Sys2Proof.Machine.execPairedIaddZ16 stall a b s
  | .pairedIsubZ16 stall a b => Sys2Proof.Machine.execPairedIsubZ16 stall a b s
  | .pairedIaddZ32 stall a b => Sys2Proof.Machine.execPairedIaddZ32 stall a b s
  | .pairedIsubZ32 stall a b => Sys2Proof.Machine.execPairedIsubZ32 stall a b s
  | .fixedLatencyResult t g => Sys2Proof.Machine.execFixedLatencyResult t g s
  | .pendingResultWrite t g k => Sys2Proof.Machine.execPendingResultWrite t g k s
  | .storeRegistration k => Sys2Proof.Machine.execStoreRegistration k s
  | .homeBankOperation k => Sys2Proof.Machine.execHomeBankOperation k s
  | .joinArrival t g e => Sys2Proof.Machine.execJoinArrival t g e s
  | .comparatorFire p n t g e => Sys2Proof.Machine.execComparatorFire p n t g e s
  | .barstall t idx => Sys2Proof.Machine.execBarstall t idx s
  | .combinerArrival k => Sys2Proof.Machine.execCombinerArrival k s
  | .combinerRelease k => Sys2Proof.Machine.execCombinerRelease k s
  | .matrixOperationComplete t k => Sys2Proof.Machine.execMatrixOperationComplete t k s
  | .copyTransferComplete t k => Sys2Proof.Machine.execCopyTransferComplete t k s
  | .scanOperationComplete t => Sys2Proof.Machine.execScanOperationComplete t s
  | .carryDelivery t => Sys2Proof.Machine.execCarryDelivery t s
  | .straitWordArrival k => Sys2Proof.Machine.execStraitWordArrival k s
  | .abort k => Sys2Proof.Machine.execAbort k s
  | .hand t k => Sys2Proof.Machine.execHand t k s
  | .gateTimeout t k => Sys2Proof.Machine.execGateTimeout t k s
  | .handDeal pair st => Sys2Proof.Machine.execHandDeal pair st s
  | .entropyHealthFailure => Sys2Proof.Machine.execEntropyHealthFailure s
  | .messageArrival k => Sys2Proof.Machine.execMessageArrival k s
  | .teamRetirement t => Sys2Proof.Machine.execTeamRetirement t s
  | .launchRetirement seq => Sys2Proof.Machine.execLaunchRetirement seq s
  | .launchReady seq => Sys2Proof.Machine.execLaunchReady seq s
  | .dispatch die => Sys2Proof.Machine.execDispatch die s
  | .aging seq => Sys2Proof.Machine.execAging seq s
  | .priorityPreemption die => Sys2Proof.Machine.execPriorityPreemption die s
  | .spanIdle seq span => Sys2Proof.Machine.execSpanIdle seq span s
  | .linkShareWindow began => Sys2Proof.Machine.execLinkShareWindow began s
  | .drainExpiry seq span => Sys2Proof.Machine.execDrainExpiry seq span s
  | .saveComplete seq span => Sys2Proof.Machine.execSaveComplete seq span s
  | .flushComplete seq span => Sys2Proof.Machine.execFlushComplete seq span s
  | .parkLimitExpiry t g e => Sys2Proof.Machine.execParkLimitExpiry t g e s
  | .coreScrubComplete die core => Sys2Proof.Machine.execCoreScrubComplete die core s
  | .replicaInvalidation k die => Sys2Proof.Machine.execReplicaInvalidation k die s
  | .collapseComplete k => Sys2Proof.Machine.execCollapseComplete k s
  | .smpcWrite st v path => Sys2Proof.Machine.execSmpcWrite st v path s
  | .preempt st v => Sys2Proof.Machine.execPreempt st v s
  | .kill st v => Sys2Proof.Machine.execKill st v s
  | .restoreNow st v => Sys2Proof.Machine.execRestoreNow st v s
  | .pfqhWrite p v path => Sys2Proof.Machine.execPfqhWrite p v path s
  | .pgdone p v path => Sys2Proof.Machine.execPgdone p v path s
  | .tlbInvalidate p v path => Sys2Proof.Machine.execTlbInvalidate p v path s
  | .invalidationComplete p => Sys2Proof.Machine.execInvalidationComplete p s
  | .wayMaskWrite die n v path => Sys2Proof.Machine.execWayMaskWrite die n v path s
  | .wayMaskChangeComplete die n => Sys2Proof.Machine.execWayMaskChangeComplete die n s
  | .keyCreate p path => Sys2Proof.Machine.execKeyCreate p path s
  | .keyImport p path => Sys2Proof.Machine.execKeyImport p path s
  | .keyRetire p path => Sys2Proof.Machine.execKeyRetire p path s
  | .scrub p path => Sys2Proof.Machine.execScrub p path s
  | .scrubComplete p => Sys2Proof.Machine.execScrubComplete p s
  | .streamOpen p path => Sys2Proof.Machine.execStreamOpen p path s
  | .streamClose p path => Sys2Proof.Machine.execStreamClose p path s
  | .streamQuery p path => Sys2Proof.Machine.execStreamQuery p path s
  | .hqtailWrite p v path => Sys2Proof.Machine.execHqtailWrite p v path s
  | .hqcfgWrite p v path => Sys2Proof.Machine.execHqcfgWrite p v path s
  | .descriptorFetch p err => Sys2Proof.Machine.execDescriptorFetch p err s
  | .descriptorComplete p k => Sys2Proof.Machine.execDescriptorComplete p k s
  | .configCommit path => Sys2Proof.Machine.execConfigCommit path s
  | .configRead path => Sys2Proof.Machine.execConfigRead path s
  | .lockInterface p link => Sys2Proof.Machine.execLockInterface p link s
  | .startInterface p => Sys2Proof.Machine.execStartInterface p s
  | .stopInterface p => Sys2Proof.Machine.execStopInterface p s
  | .linkDown link => Sys2Proof.Machine.execLinkDown link s
  | .functionLevelReset p link => Sys2Proof.Machine.execFunctionLevelReset p link s
  | .ideIntegrityFailure link => Sys2Proof.Machine.execIdeIntegrityFailure link s
  | .ideKeyExpiry link => Sys2Proof.Machine.execIdeKeyExpiry link s
  | .kSetGo link => Sys2Proof.Machine.execKSetGo link s
  | .getVersion path => Sys2Proof.Machine.execGetVersion path s
  | .getCapabilities path => Sys2Proof.Machine.execGetCapabilities path s
  | .negotiateAlgorithms path => Sys2Proof.Machine.execNegotiateAlgorithms path s
  | .getDigests path => Sys2Proof.Machine.execGetDigests path s
  | .getCertificate path slot => Sys2Proof.Machine.execGetCertificate path slot s
  | .challenge path => Sys2Proof.Machine.execChallenge path s
  | .getMeasurements path signed idx => Sys2Proof.Machine.execGetMeasurements path signed idx s
  | .keyExchange path => Sys2Proof.Machine.execKeyExchange path s
  | .finish on => Sys2Proof.Machine.execFinish on s
  | .keyUpdate on => Sys2Proof.Machine.execKeyUpdate on s
  | .heartbeat on => Sys2Proof.Machine.execHeartbeat on s
  | .endSession on => Sys2Proof.Machine.execEndSession on s
  | .vendorDefinedRequest p off wr v => Sys2Proof.Machine.execVendorDefinedRequest p off wr v s
  | .peerRequest req => Sys2Proof.Machine.execPeerRequest req s
  | .peerLinkFailure link => Sys2Proof.Machine.execPeerLinkFailure link s
  | .hostPhysicalRead loc n => Sys2Proof.Machine.execHostPhysicalRead loc n s
  | .hostPhysicalWrite loc bytes => Sys2Proof.Machine.execHostPhysicalWrite loc bytes s
  | .dbgattWrite p v path => Sys2Proof.Machine.execDbgattWrite p v path s
  | .stop p path => Sys2Proof.Machine.execStop p path s
  | .stopEffect p => Sys2Proof.Machine.execStopEffect p s
  | .dbgContinue p path => Sys2Proof.Machine.execDbgContinue p path s
  | .dbgStep p path => Sys2Proof.Machine.execDbgStep p path s
  | .regrd p path => Sys2Proof.Machine.execRegrd p path s
  | .regwr p path => Sys2Proof.Machine.execRegwr p path s
  | .memrd p path => Sys2Proof.Machine.execMemrd p path s
  | .memwr p path => Sys2Proof.Machine.execMemwr p path s
  | .cntcfgWrite p n v path => Sys2Proof.Machine.execCntcfgWrite p n v path s
  | .regionDefine p path => Sys2Proof.Machine.execRegionDefine p path s
  | .regionClose p path => Sys2Proof.Machine.execRegionClose p path s
  | .regionCloseComplete r => Sys2Proof.Machine.execRegionCloseComplete r s
  | .regionImport p path => Sys2Proof.Machine.execRegionImport p path s
  | .regionCommit p path => Sys2Proof.Machine.execRegionCommit p path s
  | .regionQuery p path => Sys2Proof.Machine.execRegionQuery p path s
  | .periodicCommit p => Sys2Proof.Machine.execPeriodicCommit p s
  | .singleBitError loc => Sys2Proof.Machine.execSingleBitError loc s
  | .uncorrectableError loc => Sys2Proof.Machine.execUncorrectableError loc s
  | .patrolScrub pa => Sys2Proof.Machine.execPatrolScrub pa s
  | .dieReset v path => Sys2Proof.Machine.execDieReset v path s
  | .transitDrainLimit die => Sys2Proof.Machine.execTransitDrainLimit die s
  | .dieResetComplete die => Sys2Proof.Machine.execDieResetComplete die s
  | .fieldSwap v path => Sys2Proof.Machine.execFieldSwap v path s
  | .packageReset => Sys2Proof.Machine.execPackageReset s
  | .packageResetRequest v path => Sys2Proof.Machine.execPackageResetRequest v path s
  | .powerStateEntry n => Sys2Proof.Machine.execPowerStateEntry n s
  | .islandWake n => Sys2Proof.Machine.execIslandWake n s
  | .wakeComplete n => Sys2Proof.Machine.execWakeComplete n s
  | .frequencyLevelChange die lvl => Sys2Proof.Machine.execFrequencyLevelChange die lvl s
  | .withheldRead path blk off => Sys2Proof.Machine.execWithheldRead path blk off s
  | .alcmdLevel2 code path => Sys2Proof.Machine.execAlcmdLevel2 code path s
  | .alcmdLevel3 code path => Sys2Proof.Machine.execAlcmdLevel3 code path s
  | .tamperMeshBroken => Sys2Proof.Machine.execTamperMeshBroken s
  | .voltageClockFault => Sys2Proof.Machine.execVoltageClockFault s
  | .registerWrite path blk off v => Sys2Proof.Machine.execRegisterWrite path blk off v s
  | .tdiConfigurationChange p => Sys2Proof.Machine.execTdiConfigurationChange p s
  | .linkLevelRetry kind die unit part => Sys2Proof.Machine.execLinkLevelRetry kind die unit part s
  | .domainFormation links => Sys2Proof.Machine.execDomainFormation links s

end Sys2Proof.Machine
end

