-- ==== Sys2Proof/Machine/Due.lean ====
section
/-! DEFINITION. Which event the machine brings about next by itself: the first, in a fixed order, of the table's events whose
condition holds now. Events that only the outside world or an engine's free timing can bring about come in State.inbox. -/

namespace Sys2Proof.Machine

/-- The first fragment, with its group and team, of which f answers. -/
def State.findFrag {α : Type} (s : State) (f : Team → Nat → Group → Frag → Option α) : Option α :=
  s.teams.findSome? (fun t => t.groups.zipIdx.findSome? (fun g => g.1.frags.findSome? (fun x => f t g.2 g.1 x)))

/-- An event, if its condition holds. -/
def dueIf (c : Bool) (i : Instr) : Option Instr := if c then some i else none

/-! ### Results and accesses -/

/-- R30, R32: the results of a group, or of a stream, that are ready to be written. -/
def Group.dueResult (g : Group) (now t gi : Nat) : Option Instr :=
  ((g.flights.head?).bind (fun f => dueIf (decide (f.ready ≤ now)) (.fixedLatencyResult t gi))).or
    ((g.pend.find? (fun p => p.left == 0 && decide (p.due ≤ now))).map (fun p => .pendingResultWrite t gi p.id))

def State.dueResult (s : State) : Option Instr :=
  (s.teams.findSome? (fun t => t.groups.zipIdx.findSome? (fun g => g.1.dueResult s.clock t.id g.2))).or
    (s.streams.zipIdx.findSome? (fun x => x.1.asGroup.dueResult s.clock (streamTeam x.2) 0))

/-- R284, R286: an access reaches its home. -/
def State.dueHome (s : State) : Option Instr :=
  (s.homeOps.find? (fun p => decide (p.due ≤ s.clock) && s.landReady p)).map (fun p =>
    if p.fn.registers then .storeRegistration p.id else .homeBankOperation p.id)

/-! ### Engines, barriers, chain, exchanges and messages -/

/-- R212, R226, R236: an engine operation of a team completes, unless a breakpoint or a missing page holds it. -/
def State.dueEngine (s : State) (t : Team) : Option Instr :=
  (s.launch? t.seq).bind (fun l =>
    ((t.mats.find? (fun m => decide (m.due ≤ s.clock) && t.matFirst m && !s.afKeeps t m && !s.cmdHeld l 2 m.num)).map (fun m =>
        .matrixOperationComplete t.id m.num.toNat)).or
      (((t.xfers.head?.filter (fun x => decide (x.due ≤ s.clock) && x.waiting.isEmpty && !s.cmdHeld l 1 x.num)).map (fun x =>
          .copyTransferComplete t.id x.num.toNat)).or
        ((t.scanq.head?).bind (fun o => dueIf (decide (o.due ≤ s.clock) && !s.cmdHeld l 3 o.num) (.scanOperationComplete t.id)))))

/-- R268: a message between combiners arrives. -/
def State.dueComb (s : State) : Option Instr :=
  (s.combMsgs.find? (fun m => decide (m.due ≤ s.clock))).map (fun m =>
    if m.to_.isRelease then .combinerRelease m.id else .combinerArrival m.id)

/-- R239, R243, R244, R316: words of the Strait, its timeouts, and the Dealer. -/
def State.dueStrait (s : State) : Option Instr :=
  ((s.words.find? (fun w => !w.arrived && decide (w.due ≤ s.clock))).map (fun w => if w.abort then .abort w.id else .straitWordArrival w.id)).or
    ((s.teams.findSome? (fun t => (t.exchs.find? (fun x => (s.lateSerial x).isSome)).map (fun x => .gateTimeout t.id x.id))).or
      ((s.findFrag (fun t gi _ f =>
          match f.st with
          | .blocked (.hand since pair st n) =>
            dueIf (t.res == .resident && decide (since + s.straitTimeout pair < s.clock) &&
              (match (s.launch? t.seq).bind (fun l => s.partyOf l.part) with
               | some p => s.handShort pair st p.2 n
               | none => false)) (.hand t.id (64 * gi + f.ent))
          | _ => none)).or
        (s.nextHand.map (fun p => .handDeal p.1 p.2))))

/-- R246: a message arrives. -/
def State.dueMessage (s : State) : Option Instr :=
  (s.msgs.find? (fun m => decide (m.due ≤ s.clock) && s.msgFirst m)).map (fun m => .messageArrival m.id)

/-! ### Teams, spans and launches -/

/-- R336: a request for a span would start, or hasten, an action. -/
def State.requestActs (s : State) (l : Launch) (sp L : Nat) (why : SaveWhy) : Bool :=
  decide ((s.request l.seq (some sp) L why).launch? l.seq ≠ some l)

/-- R358: a switch-out of the team's span can begin. -/
def State.canSwitch (s : State) (t : Team) : Bool := decide ((s.switchOut t).launch? t.seq ≠ s.launch? t.seq)

/-- R335, R338: what a span of a launch is due for. -/
def State.dueSpan (s : State) (l : Launch) (p : Span) : Option Instr :=
  match p.action with
  | some (.drain u _) => dueIf (decide (u < s.clock)) (.drainExpiry l.seq p.idx)
  | some .save => dueIf (s.saveReady l p) (.saveComplete l.seq p.idx)
  | some .flush => dueIf (s.flushReady l p) (.flushComplete l.seq p.idx)
  | none =>
    dueIf (p.st == .resident && s.spanIdle l p.idx && s.idleWanted l p.idx && s.requestActs l p.idx l.r.plat .idle) (.spanIdle l.seq p.idx)

/-- R329, R330, R332: what a launch is due for. -/
def State.dueLaunch (s : State) (l : Launch) : Option Instr :=
  (dueIf (s.launchOver l) (.launchRetirement l.seq)).or
    ((dueIf (l.st == .waiting && s.depsMet l) (.launchReady l.seq)).or
      ((dueIf (s.ages l) (.aging l.seq)).or (l.spans.findSome? (s.dueSpan l))))

/-- R331, R336, R441: what a die's dispatcher does. -/
def State.dueDie (s : State) (die : Nat) : Option Instr :=
  (dueIf (s.passDue die) (.dispatch die)).or
    ((match s.priorityRequest die with
      | some (l, p) => dueIf (s.requestActs l p.idx l.r.plat .asked) (.priorityPreemption die)
      | none => none).or
      (dueIf (s.islandSt (3 * die) != 0 && ((s.islands[3 * die]?).bind Island.waking).isNone && (s.candidate die).isSome)
        (.islandWake (3 * die))))

/-- R196, R261, R358, R379: what a team is due for. -/
def State.dueTeam (s : State) (t : Team) : Option Instr :=
  (dueIf (s.teamOver t) (.teamRetirement t.id)).or
    (((List.range 18).find? (fun k => (s.stalled t k).isSome)).map (fun k => .barstall t.id k))

def State.duePark (s : State) : Option Instr :=
  s.findFrag (fun t gi _ f => dueIf (s.parkExpired t f && s.canSwitch t) (.parkLimitExpiry t.id gi f.ent))

def State.dueCore (s : State) : Option Instr :=
  (s.sec.scrubCore.find? (fun c => decide (c.2.2.2 ≤ s.clock) && s.islandSt (3 * c.1) == 0)).map (fun c => .coreScrubComplete c.1 c.2.1)

/-! ### Memory system and the host's commands -/

/-- R289, R365: a collapse goes on. -/
def State.dueCollapse (s : State) : Option Instr :=
  (s.replicas.find? Replica.collapse).map (fun r =>
    match r.acks with
    | d :: _ => .replicaInvalidation r.id d
    | [] => .collapseComplete r.id)

/-- R353, R368, R378: an invalidation, a way-mask change or a scrub ends. -/
def State.dueXlat (s : State) : Option Instr :=
  ((s.invals.find? s.invalReady).map (fun i => .invalidationComplete i.part)).or
    (((s.wayChanges.head?).map (fun c => .wayMaskChangeComplete c.1 c.2.1)).or
      ((s.sec.scrubs.find? s.scrubReady).map (fun x => .scrubComplete x.part)))

/-- R400, R403: a descriptor whose checks can be made, or whose writes register. -/
def State.descReady (s : State) (p : Nat) (d : CinDesc) : Bool :=
  !d.done && (if d.status.isNone then !s.cinHeld p d else decide (d.due ≤ s.clock))

/-- R398-R403: what a copy-in queue does next. A host that answers with an error does so through State.inbox. -/
def State.dueQueue (s : State) (p : Nat) (q : CinQueue) : Option Instr :=
  ((q.descs.find? (fun d => s.descReady p d && q.descs.find? (fun e => e.k == d.k && !e.done) == some d)).map (fun d =>
      .descriptorComplete p d.k)).or (dueIf (s.mayFetch p q) (.descriptorFetch p .none))

/-- R394, R411, R427, R431: what the security unit and the debug blocks do next. -/
def State.dueUnit (s : State) : Option Instr :=
  ((s.sec.stopping.find? s.stopDone).map (fun p => .stopInterface p)).or
    ((((List.range 4).find? s.stopReady).map (fun p => .stopEffect p)).or
      (((s.sec.regions.find? s.closeReady).map (fun r => .regionCloseComplete r.id)).or
        (((List.range 4).find? (fun p => s.hreg .sec (mreg p + 0x30) != 0 && decide (s.periodDue p ≤ s.clock))).map (fun p =>
          .periodicCommit p))))

/-! ### Dies and power -/

/-- R439: a die reset goes on. -/
def State.dueReset (s : State) : Option Instr :=
  s.dieResets.findSome? (fun r =>
    if r.drained then dueIf (decide (r.due ≤ s.clock)) (.dieResetComplete r.die)
    else dueIf (decide (r.drain ≤ s.clock)) (.transitDrainLimit r.die))

/-- R441: an island rests, is asked for, or is awake again. -/
def State.dueIsland (s : State) (i : Nat) : Option Instr :=
  match s.islands[i]? with
  | none => none
  | some x =>
    match x.waking with
    | some c => dueIf (decide (c ≤ s.clock)) (.wakeComplete i)
    | none =>
      (dueIf (s.restState i).isSome (.powerStateEntry i)).or (dueIf (24 ≤ i && i < 26 && x.st != 0 && !s.idleNow i) (.islandWake i))

/-- What is due in the cores, between them, and in their memory system. -/
def State.dueInside (s : State) : Option Instr :=
  s.dueResult <|> s.dueHome <|> s.dueComb <|> s.teams.findSome? s.dueEngine <|>
    (s.teams.find? s.carryReady).map (fun t => .carryDelivery t.id) <|> s.dueStrait <|> s.dueMessage

/-- What is due in dispatch and in the units around the cores. -/
def State.dueAround (s : State) : Option Instr :=
  dueIf s.windowOver (.linkShareWindow s.winAt) <|> s.dueCollapse <|> s.teams.findSome? s.dueTeam <|> s.launches.findSome? s.dueLaunch <|> (List.range 8).findSome? s.dueDie <|>
    s.duePark <|> s.dueCore <|> s.dueXlat <|> s.sec.queues.zipIdx.findSome? (fun q => s.dueQueue q.2 q.1) <|> s.dueUnit <|>
    s.dueReset <|> (List.range 26).findSome? s.dueIsland

/-- The event that happens next by itself, if any is due at the present cycle. -/
def State.due (s : State) : Option Instr := s.dueInside <|> s.dueAround

end Sys2Proof.Machine
end

