-- ==== Sys2Proof/Machine/Wake.lean ====
section
/-! DEFINITION. What the machine resumes by itself when no event is due and nothing issues: blocked fragments whose condition holds
(R192, R197, R199, R251, R289, R357), waiting streams (R252), exchanges that failed or were held (R243, R414), regions whose invalidation is complete (R427), switch-outs (R358)
and the end of a debugger's step (R416). -/

namespace Sys2Proof.Machine

/-! ### Blocked fragments -/

/-- R168: a parked or held-back word issues again. -/
def State.reissue (s : State) (t : Team) (gi ent : Nat) : State :=
  s.modFrag t.id gi ent (fun f => { f with st := .ready, wake := s.clock + 1 })

/-- R34, R250: a trap that waited for the group's issued work, or for the handler, is delivered; one that a debugger holds (R417) is not. -/
def State.deliverTrap (s : State) (t : Team) (gi : Nat) (g : Group) (l : Launch) (f : Frag) (c : Trap) (tpc : Word) : Option State :=
  if !s.holdsFault l t gi && !g.trapWaits l f.ent c.code && !s.dbg.any (fun d => d.susp.any (fun y => y.1 == t.id && y.2.1 == gi)) then
    some (s.settleTrap l t gi g f.ent c tpc)
  else none

/-- The state in which a blocked fragment goes on, if what it waits for has come. -/
def State.resumeFrag (s : State) (t : Team) (gi : Nat) (g : Group) (l : Launch) (f : Frag) : Option State :=
  match f.st with
  | .blocked (.bar nb p) | .blocked (.sync nb p) => if (t.bar nb).passed p then some (s.goOn t gi f.ent (nextPc f.pc)) else none
  | .blocked (.yieldBar nb p) => if (t.bar nb).passed p then some (s.goOn t gi f.ent f.pc) else none
  | .blocked (.tl i v) => if s.reached l i v then some (s.goOn t gi f.ent (nextPc f.pc)) else none
  | .blocked (.yieldTl i v) => if s.reached l i v then some (s.goOn t gi f.ent f.pc) else none
  | .blocked (.parked ..) => if s.waitOver t gi g l f then some (s.reissue t gi f.ent) else none
  | .blocked .collapse => if s.replicas.any (fun r => r.asid == l.asid && r.collapse) then none else some (s.reissue t gi f.ent)
  | .blocked (.trap code sub tpc tval) => s.deliverTrap t gi g l f { code := code, sub := sub, tval := tval } tpc
  | _ => none

/-- R411, R425: a stopped launch's blocked fragments stay as they are; until the stop takes effect a trap of an issued word is still
delivered. -/
def State.resumeOne (s : State) (t : Team) (gi : Nat) (g : Group) (f : Frag) : Option State :=
  match if t.res == .resident then s.launch? t.seq else none with
  | none => none
  | some l =>
    if s.debugHolds t gi f.ent && (!f.trapped || s.faultHeld l t) then none
    else
      (s.resumeFrag t gi g l f).map (fun s' =>
        let moved := match (s'.team? t.id).bind (fun t => (t.groups[gi]?).bind (fun g => g.frag? f.ent)) with
          | some y => y.pc != f.pc
          | none => true
        let me : Sel := (t.span, t.idx, gi, f.ent)
        if moved && ((s.dbgOf l).bind Dbg.step) == some me then s.afterStep s' l.part else s')

/-- R169, R250: a fault that waited for its group's issued work terminates the team. -/
def State.resumeFault (s : State) (t : Team) : Option State :=
  match if t.res == .resident then s.launch? t.seq else none with
  | none => none
  | some l => if t.heldFaults.any (fun x => !s.holdsFault l t x.1) then some (s.releaseFaults t) else none

/-! ### Streams, exchanges and switch-outs -/

/-- R252: a stream whose lwait is satisfied goes on after an acquire. -/
def State.resumeStream (s : State) (n : Nat) (x : Stream) : Option State :=
  match x.st with
  | .waiting c tl v =>
    if v.toNat ≤ (s.timeline c tl).toNat then
      some ((s.acquire (576 + n)).modStream n (fun x => { x with st := .running, pc := nextPc x.pc, wake := max x.wake (s.clock + 1) }))
    else none
  | _ => none

/-- R239, R242, R243, R414: an exchange of a team on its core that has failed traps, one whose send was held sends, and a gxch
completes its output area. -/
def State.resumeExch (s : State) (t : Team) (x : Exch) : Option State :=
  if x.whole.isSome then (if t.here && decide (x.whole.getD 0 ≤ s.clock) && t.areaFree x == x.parts then some (s.closeArea t.id x) else none)
  else if t.res != .resident then none
  else if x.fail.isSome then
    (match (t.groups[x.grp]?).bind x.trapFrag with
     | some f => if s.debugHolds t x.grp f.ent then none else s.gateTrap t.id x
     | none => s.gateTrap t.id x)
  else
    match s.launch? t.seq with
    | some l =>
      if x.rounds = 0 && !s.cmdHeld l 4 x.num && !(x.kind == .mat && s.cmdHeld l 1 x.num1) then
        some ((s.sendRound t.id x).advanceExch 8 t.id x.id)
      else none
    | none => none

/-- R358: a team with a parked fragment and no ready one is switched out, if a save can begin. -/
def State.switchStuck (s : State) (t : Team) : Option State :=
  if t.stuck && !s.stoppedNow t.seq && s.canSwitch t then some (s.switchOut t) else none

/-! ### Single step (R416) -/

/-- R416: a step whose fragment cannot act ends with REASON 7; one whose fragment is gone ended with its team. -/
def State.stuckStep (s : State) (p : Nat) : Option State :=
  match s.attached p with
  | some (d, l) =>
    match d.step, d.stepEnd with
    | some x, none =>
      match s.selFrag l x with
      | none => some (s.modDbg p (fun d => { d with stepEnd := some 9 }))
      | some (_, g, f) =>
        let acts := match f.st with
          | .ready => g.free f
          | .blocked (.hand ..) => true
          | _ => false
        if acts then none else some (s.modDbg p (fun d => { d with stepEnd := some 7, fsel := some x }))
    | _, _ => none
  | none => none

/-- What goes on by itself when no event is due and nothing issues. -/
def State.resume (s : State) : Option State :=
  s.findFrag s.resumeOne <|> s.teams.findSome? s.resumeFault <|> s.streams.zipIdx.findSome? (fun x => s.resumeStream x.2 x.1) <|>
    s.teams.findSome? (fun t => t.exchs.findSome? (s.resumeExch t)) <|> s.teams.findSome? s.switchStuck <|>
    s.finishRegion <|> (List.range 4).findSome? (fun p => if s.stepOver p then some (s.endStep p) else none) <|> (List.range 4).findSome? s.stuckStep

end Sys2Proof.Machine
end

