-- ==== Sys2Proof/Machine/Run.lean ====
section
/-! DEFINITION. Which fragment or stream acts next (R11, R255, R257) and what it does: an arrival (R143), a comparator
(R412), or the fetch, decoding and execution of its word (R38, R355). -/

namespace Sys2Proof.Machine

open Host (Outcome)

/-! ### The choice -/

/-- Who acts next. -/
inductive Pick where
  | frag (t : Team) (gi : Nat) (g : Group) (f : Frag)
  | stream (n : Nat) (x : Stream)

/-- R257: of a group, the fragment whose last issue lies furthest back, the lower AGE first. -/
def State.pickFrag (s : State) (t : Team) (gi : Nat) (g : Group) : Option Frag :=
  let fs := g.frags.filter (s.mayAct t gi g)
  fs.find? (fun f => fs.all (fun k => decide (f.last < k.last) || (f.last == k.last && decide (f.age ≤ k.age))))

/-- A fragment that may act, with the place of its group in the order of R257: the cycle of the group's last issue, then launch, span,
team and group (log entry 26). -/
def State.candidates (s : State) : List (List Nat × Pick) :=
  s.teams.flatMap (fun t =>
    if t.res != .resident then []
    else t.groups.zipIdx.filterMap (fun g =>
      (s.pickFrag t g.2 g.1).map (fun f => ([g.1.last, t.seq, t.span, t.idx, g.2], Pick.frag t g.2 g.1 f))))

/-- R322: a running stream whose stall has run out. -/
def State.pickStream (s : State) : Option Pick :=
  s.streams.zipIdx.findSome? (fun x => if x.1.st == .running && decide (x.1.wake ≤ s.clock) then some (.stream x.2 x.1) else none)

/-- R257: the group whose last issue lies furthest back, among those with a fragment that may act, is tried first; a word that is not ready or
finds no free unit lets the next be tried. -/
def State.pick (s : State) : Option Pick :=
  let cs := s.candidates
  ((cs.find? (fun x => cs.all (fun y => listLe x.1 y.1))).map Prod.snd).or s.pickStream

/-! ### Running a word -/

/-- What follows a step that ends with a next state. -/
def andThen (r : Outcome State Fault Refusal) (k : State → State) : Outcome State Fault Refusal :=
  match r with
  | .next s => .next (k s)
  | r => r

/-- R415, R416: after a fragment has acted: the word it stopped at has issued once unchecked, and a step is judged. -/
def State.acted (s0 : State) (l : Launch) (x : Sel) (s1 : State) : State :=
  let s1 := { s1 with cur := .none }
  match s0.dbgOf l with
  | none => s1
  | some d =>
    let moved := match s0.selFrag l x, s1.selFrag l x with
      | some (_, _, f0), some (_, _, f1) => f0.last != f1.last || f0.pc != f1.pc || f1.inInv.isSome
      | _, _ => true
    let s1 := if d.pass == some x && moved then s1.modDbg l.part (fun d => { d with pass := none }) else s1
    if d.step == some x then s0.afterStep s1 l.part else s1

/-- R168, R356: a fetch that meets a replayable fault parks its fragment. -/
def State.parkFetch (s : State) (t : Team) (gi : Nat) (l : Launch) (f : Frag) (sub : Nat) : State :=
  (s.missPage t.id l ⟨f.pc, false, true, false, sub, gi⟩).modFrag t.id gi f.ent (fun f =>
    { f with st := .blocked (.parked s.clock [pageOf f.pc.toNat]) })

/-- R441: the die a fetch is homed on sleeps. -/
def State.coldHome (s : State) (c : Loc) : Bool := c.peer == 0 && inDram c.pa && s.asleep (homeDie c.pa)

/-- R38, R355: a fragment fetches, decodes and issues its word. -/
def State.runFrag (s : State) (t : Team) (gi : Nat) (l : Launch) (f : Frag) : Outcome State Fault Refusal :=
  let who : Who := .frag t.id gi f.ent
  match s.reach1 (l.space t.die) .fetch true false 8 f.pc with
  | (s, .error e) =>
    .next (if replayable e then s.parkFetch t gi l f e else s.takeTrap who { code := cMEMF, sub := e, tval := f.pc })
  | (s, .ok (c, _)) =>
    let s := { s with cur := who }
    if s.coldHome c then .next (s.wakeDie (homeDie c.pa)).retry
    else
      let w : Word := BitVec.ofNat 64 (leNat (s.homeBytes c 8))
      match decode w with
      | .error _ => .next (s.takeTrap who { code := cILL, tval := w })
      | .ok i => exec i s

/-- R323: a stream fetches, decodes and issues its word; it has no handler and no page that can be serviced. -/
def State.runStream (s : State) (n : Nat) (x : Stream) : Outcome State Fault Refusal :=
  let who : Who := .stream n
  match s.reach1 ⟨x.asid, x.part, 0, 8, none⟩ .fetch true false 8 x.pc with
  | (s, .error e) => .next (s.takeTrap who { code := cMEMF, sub := e, tval := x.pc })
  | (s, .ok (c, _)) =>
    let s := { s with cur := who }
    if s.coldHome c then .next (s.wakeDie (homeDie c.pa)).retry
    else
      let w : Word := BitVec.ofNat 64 (leNat (s.homeBytes c 8))
      match decode w with
      | .error _ => .next (s.takeTrap who { code := cILL, tval := w })
      | .ok i => exec i s

/-- What the chosen fragment or stream does. -/
def State.runPick (s : State) : Pick → Outcome State Fault Refusal
  | .stream n x => andThen (s.runStream n x) (fun s => { s with cur := .none })
  | .frag t gi g f =>
    match s.launch? t.seq with
    | none => .next s
    | some l =>
      let r :=
        if g.atRc f then exec (.joinArrival t.id gi f.ent) s
        else
          match s.comparator t gi f with
          | some (p, i) => exec (.comparatorFire p i t.id gi f.ent) s
          | none => s.runFrag t gi l f
      andThen r (s.acted l (t.span, t.idx, gi, f.ent))

/-- R236, R242, R293, R403: the units that copies, exchanges and descriptors move in this cycle. -/
def State.moveSome (s : State) : State :=
  let s := s.teams.foldl (fun s t => s.copySome t) s
  let s := s.teams.foldl (fun s t => s.areaSome t) s
  s.sec.queues.zipIdx.foldl (fun s q => s.cinSome q.2 q.1) s

/-- Nothing can happen at this cycle: the clock advances (R96), with the units that transfers move (R293), the counts of R423, the
samples of R421 and the idle times of R441. -/
def State.tick (s : State) : State :=
  let s := (List.range 4).foldl State.postSamples s.moveSome.tickIslands.tickCounts
  { s with clock := s.clock + 1 }

end Sys2Proof.Machine
end

