-- ==== Sys2Proof/Machine/Load.lean ====
section
/-! DEFINITION. Which table rows are events, and a launch with one instruction that stands ready to issue: what a host, a control
program and the dispatcher would have brought about, put in place at once for State.withFetchWord. -/

namespace Sys2Proof.Machine

/-- A row that is no instruction word: it has neither the header of a full-form word nor that of a paired one. -/
def isEvent (i : Instr) : Bool := i.hdr?.isNone && i.pair?.isNone

/-- R252: a word that only a control-core stream issues. -/
def forStream (i : Instr) : Bool :=
  match i with
  | .lnch .. | .ldep .. | .lwait .. | .lsig .. => true
  | _ => false

/-- Where the word stands, in an address space whose first GiB is mapped to the same physical addresses. -/
def loadAt : Nat := 0x8000

/-- The word's bits as 64: the bits above the given ones are zero. -/
def loadBits (nbits w : Nat) : Nat := w % 2 ^ min nbits 64

/-- R342, R346: address space 1 with one leaf of 1 GiB over frame 0, readable, writable and executable, and the word. -/
def State.loadMemory (s : State) (w : Nat) : State :=
  ((((s.writePhys 0 ((s.hreg .xlat 0).toNat + 8) (leBytes 8 0x1001)).writePhys 0 0x1000 (leBytes 8 0x2001)).writePhys 0 0x2000
    (leBytes 8 0x3001)).writePhys 0 0x3000 (leBytes 8 0x60F)).writePhys 0 loadAt (leBytes 8 w)

/-- R327: a record of one span of one team of one group of 64 lanes, with every v register and the whole scratchpad. -/
def loadRec : Rec :=
  { Rec.blank with entry := BitVec.ofNat 64 loadAt, lanes := 64, wc := 2, vregs := 192, scr := 2048, lmem := 15 }

/-- The launch of the loaded word, resident on core 0 of die 0. -/
def loadLaunch (seq now : Nat) : Launch :=
  { Launch.blank with
    seq := seq, asid := 1, r := loadRec, argv := List.replicate 8 0, st := .ready, placedAt := some now,
    spans := [⟨0, .resident, none, 0, .asked, none, none⟩], started := true }

/-- Its team: one group of the role the word needs. -/
def loadTeam (id seq now : Nat) (role : Role) : Team :=
  let t := (loadLaunch seq now).startTeam now id 0 0 0 0 0
  { t with groups := t.groups.map (fun g => { g with role := role }) }

/-- The word as the next one that issues: by stream 0 if it is one that streams issue, and otherwise by the first fragment of a new
team, in the cycle after its placement. -/
def State.loadWord (s : State) (w : Nat) : State :=
  let i := decodeTableWord 64 w
  let s := { s.loadMemory w with clock := s.clock + 1, inbox := [] }
  if (i.map forStream).getD false then
    s.modStream 0 (fun x => { x with st := .running, pc := BitVec.ofNat 64 loadAt, asid := 1, part := 0, wake := s.clock })
  else
    let role := (i.bind (fun i => (i.shape 64).role)).getD .c
    { s with
      launches := s.launches ++ [loadLaunch s.nextSeq (s.clock - 1)], nextSeq := s.nextSeq + 1
      teams := s.teams ++ [loadTeam s.nextId s.nextSeq (s.clock - 1) role], nextId := s.nextId + 1 }

end Sys2Proof.Machine
end

