-- ==== Sys2Proof/Machine/Step.lean ====
section
/-! DEFINITION. One step of the machine. -/

namespace Sys2Proof.Machine

open Host (Outcome)

/-- One step: lines that were replaced leave the caches; then the next event of State.inbox; else the first event that is due; else the fragment or stream whose turn it is
acts; else what waits for nothing more goes on; else the clock advances by one cycle. -/
def step (s0 : State) : Outcome State Fault Refusal :=
  let s := ({ s0 with nonce := s0.nonce + 1, cur := .none } : State).evict
  match s.inbox with
  | i :: rest =>
    let s := { s with inbox := rest }
    if isEvent i then exec i s else .next s
  | [] =>
    match s.due with
    | some i => exec i s
    | none =>
      match s.pick with
      | some p => s.runPick p
      | none =>
        match s.resume with
        | some s => .next s
        | none => .next s.tick

/-- The state with one instruction word of nbits bits placed where the next step fetches and issues it. -/
def State.withFetchWord (s : State) (nbits w : Nat) : State := s.loadWord (loadBits nbits w)

end Sys2Proof.Machine
end

