-- ==== Sys2Proof/Safety.lean ====
section
/-! DEFINITION. What claims are stated in: a word that issues, a step that goes on, what a word leaves unchanged and what its result
registers read, and the memory invariant. -/

namespace Sys2Proof.Machine

open Host (Outcome)

/-- The word of an instruction issues in a state: the checks of R38-R40, the interlocks of R32 and R213 and the condition of
R14 let it through. x is what it issues with. -/
def Issues (i : Instr) (s : State) (x : Issue) : Prop := issue i s = .go x

/-- An outcome that neither stops nor refuses. -/
def GoesOn (o : Outcome State Fault Refusal) : Prop := ∃ t, o = .next t

/-- Memory is in its canonical form: DRAM, host memory, the key slot each DRAM line is stored under (R376) and the bytes that an
uncorrectable error left bad (R436). -/
structure State.MemOk (s : State) : Prop where
  mem      : Memory.wf s.mem = true
  hostMem  : Memory.wf s.hostMem = true
  slotOf   : Cells.wf 0 s.slotOf = true
  poisoned : Cells.wf 0 s.poisoned = true

/-- A step keeps a property of the state. -/
def StepKeeps (P : State → Prop) : Prop := ∀ s t, P s → step s = .next t → P t

/-! ### Registers after a word -/

/-- The issuing group in a state; a stream's registers seen as a group's (R323). -/
def Issue.groupAfter (x : Issue) (t : State) : Option Group :=
  match x.who with
  | .frag tid gi _ | .body tid gi _ => (t.team? tid).bind (fun y => y.groups[gi]?)
  | .stream n => (t.streams[n]?).map Stream.asGroup
  | .none => none

/-- What the registers of a destination of width w hold in one lane: the whole v register, a v pair at width 64, the whole s
register. -/
def Group.dstVal (g : Group) (now nonce w : Nat) (d : Opr) (l : Nat) : Nat :=
  match d with
  | .v n =>
    if w = 64 then (g.read now nonce (.v n.val l)).toNat + 2 ^ 32 * (g.read now nonce (.v (n.val + 1) l)).toNat
    else (g.read now nonce (.v n.val l)).toNat
  | .s n => (g.read now nonce (.s n.val)).toNat

/-- R65, R99: what a destination of width w holds once a value is written to it: the value modulo 2^w, zero-extended to the register,
but in an s register a signed 32-bit value is sign-extended. -/
def writtenAs (w : Nat) (sg : Bool) (d : Opr) (v : Int) : Int :=
  if d.isS && sg && w == 32 then v.bmod (2 ^ 32) % 2 ^ 64 else v % 2 ^ w

/-- The register cells of a destination at width w in a list of lanes. -/
def cellsOf (w : Nat) (d : Opr) (lanes : List Nat) (k : Key) : Prop :=
  match d with
  | .v n => ∃ l ∈ lanes, k = .v n.val l ∨ (w = 64 ∧ k = .v (n.val + 1) l)
  | .s n => k = .s n.val

/-- R99: the w-bit pattern of Opnd. -/
def Issue.pat (x : Issue) (w : Nat) (o : Opr) (l : Nat) : BitVec w := BitVec.ofNat w (x.opnd w o l)

/-- R99: the w-bit pattern of a source that may be an accumulator fragment. -/
def Issue.patA (x : Issue) (w : Nat) (a : ASrc) (l : Nat) : BitVec w := BitVec.ofNat w (x.asrc w a l)

/-- R99: a pattern read by a type's kind: SInt for i types, UInt for n types. -/
def ITy.num (ty : ITy) (a : BitVec ty.width) : Int := if ty.signed then a.toInt else a.toNat

/-- R112: the field of len bits at pos of a pattern extended by its type's kind. -/
def fieldNum (ty : ITy) (a : BitVec ty.width) (pos len : Nat) : Int :=
  let f := BitVec.ofInt len (ITy.num ty a / 2 ^ pos)
  if ty.signed then f.toInt else f.toNat

/-! ### Floating results -/

/-- R60: the magnitude of a finite pattern without its sign, in units of the smallest subnormal, 2^(-126 - fraction width); the
pattern of infinity counts as the first value beyond the range. -/
def FFmt.mag (f : FFmt) (p : Nat) : Nat :=
  if p < 2 ^ f.frac then p else (2 ^ f.frac + p % 2 ^ f.frac) * 2 ^ (p / 2 ^ f.frac - 1)

/-- R70, R71: p is the number of the representable magnitude that N/d rounds to under a code, where mag p is the p-th magnitude: the
nearest, with ties to the even number or away from zero, the neighbour towards zero or away from it, or the one that the dither
chooses. -/
def Nearest (mag : Nat → Nat) (r : Rounding) (neg : Bool) (N d p : Nat) : Prop :=
  let towards := mag p * d ≤ N ∧ N < mag (p + 1) * d
  let away := N ≤ mag p * d ∧ (p = 0 ∨ mag (p - 1) * d < N)
  match r.rm with
  | .dyn | .rne =>
    (2 * N ≤ (mag p + mag (p + 1)) * d ∧ (2 * N = (mag p + mag (p + 1)) * d → p % 2 = 0)) ∧
      (p = 0 ∨ (mag (p - 1) + mag p) * d ≤ 2 * N ∧ ((mag (p - 1) + mag p) * d = 2 * N → p % 2 = 0))
  | .rna => 2 * N < (mag p + mag (p + 1)) * d ∧ (p = 0 ∨ (mag (p - 1) + mag p) * d ≤ 2 * N)
  | .rtz => towards
  | .rdn => if neg then away else towards
  | .rup => if neg then towards else away
  | .sr =>
    mag p * d = N ∨
    if neg then
      (∃ q, mag q * d < N ∧ N < mag (q + 1) * d ∧
        p = if 256 ≤ (mag (q + 1) * d - N) * 256 / ((mag (q + 1) - mag q) * d) + r.dith then q else q + 1)
    else
      (∃ q, mag q * d < N ∧ N < mag (q + 1) * d ∧
        p = if 256 ≤ (N - mag q * d) * 256 / ((mag (q + 1) - mag q) * d) + r.dith then q + 1 else q)

/-- R61, R63, R119: a + b, rounded once. -/
def addRule (f : FFmt) (r : Rounding) (a b : FVal) : Nat × BitVec 6 :=
  match a, b with
  | .nan u, b => (f.nan, flagIf (u || b.isSnan) fNV)
  | _, .nan v => (f.nan, flagIf v fNV)
  | .inf u, .inf v => if u = v then (f.inf u, 0) else (f.nan, fNV)
  | .inf u, _ => (f.inf u, 0)
  | _, .inf v => (f.inf v, 0)
  | .zero u, .zero v => (f.sign (if u = v then u else r.rm = .rdn), 0)
  | .zero _, .num v n d => roundTo f r v n d
  | .num u n d, .zero _ => roundTo f r u n d
  | .num u n d, .num v n' d' =>
    let N : Int := (if u then -(n : Int) else n) * d' + (if v then -(n' : Int) else n') * d
    if N = 0 then (f.sign (r.rm = .rdn), 0) else roundTo f r (decide (N < 0)) N.natAbs (d * d')

/-- R61, R119: a · b, rounded once. -/
def mulRule (f : FFmt) (r : Rounding) (a b : FVal) : Nat × BitVec 6 :=
  match a, b with
  | .nan u, b => (f.nan, flagIf (u || b.isSnan) fNV)
  | _, .nan v => (f.nan, flagIf v fNV)
  | .inf _, .zero _ => (f.nan, fNV)
  | .zero _, .inf _ => (f.nan, fNV)
  | .inf u, b => (f.inf (u != b.neg), 0)
  | a, .inf v => (f.inf (a.neg != v), 0)
  | .zero u, b => (f.sign (u != b.neg), 0)
  | a, .zero v => (f.sign (a.neg != v), 0)
  | .num u n d, .num v n' d' => roundTo f r (u != v) (n * n') (d * d')

/-- R119: a · b + c, rounded once: the exact product joins the sum. -/
def fmaRule (f : FFmt) (r : Rounding) (a b c : FVal) : Nat × BitVec 6 :=
  let fl := flagIf (a.isSnan || b.isSnan || c.isSnan) fNV
  match a.mul b with
  | none => (f.nan, fNV)
  | some p =>
    let y := addRule f r p c
    (y.1, y.2 ||| fl)

/-- R120: the lesser of two values, or the greater: a NaN yields to the other value, and -0 lies below +0. -/
def minRule (f : FFmt) (_ : Rounding) (u v : FVal) : Nat × BitVec 6 :=
  let pick := if u.isNan then v else if v.isNan then u else if v.lt u || (v = .zero true && u = .zero false) then v else u
  ((pick.round f ⟨.rne, 0, false, .byCode⟩).1, flagIf (u.isSnan || v.isSnan) fNV)

def maxRule (f : FFmt) (_ : Rounding) (u v : FVal) : Nat × BitVec 6 :=
  let pick := if u.isNan then v else if v.isNan then u else if u.lt v || (u = .zero true && v = .zero false) then v else u
  ((pick.round f ⟨.rne, 0, false, .byCode⟩).1, flagIf (u.isSnan || v.isSnan) fNV)

/-- R121: a / b, rounded once. -/
def divRule (f : FFmt) (r : Rounding) (a b : FVal) : Nat × BitVec 6 :=
  match a, b with
  | .nan u, b => (f.nan, flagIf (u || b.isSnan) fNV)
  | _, .nan v => (f.nan, flagIf v fNV)
  | .inf _, .inf _ => (f.nan, fNV)
  | .zero _, .zero _ => (f.nan, fNV)
  | .inf u, b => (f.inf (u != b.neg), 0)
  | a, .inf v => (f.sign (a.neg != v), 0)
  | .num u _ _, .zero v => (f.inf (u != v), fDZ)
  | .zero u, b => (f.sign (u != b.neg), 0)
  | .num u n d, .num v n' d' => roundTo f r (u != v) (n * d') (d * n')

/-- R125: the number of a pattern's class. -/
def classRule (f : FFmt) (p : Nat) : Nat :=
  let neg := decide (2 ^ (f.frac + 8) ≤ p)
  let m := p % 2 ^ (f.frac + 8)
  if 255 * 2 ^ f.frac < m then (if m < 255 * 2 ^ f.frac + 2 ^ (f.frac - 1) then 0 else 1)
  else if m = 255 * 2 ^ f.frac then (if neg then 2 else 9)
  else if 2 ^ f.frac ≤ m then (if neg then 3 else 8)
  else if m ≠ 0 then (if neg then 4 else 7)
  else if neg then 5 else 6

/-- R124: when a condition is true of two values, and whether the comparison sets NV. -/
def cmpRule (c : FCond) (a b : FVal) : Bool × BitVec 6 :=
  let un := a.isNan || b.isNan
  let holds :=
    match c with
    | .eq => !un && !a.lt b && !b.lt a
    | .ne => un || a.lt b || b.lt a
    | .lt => !un && a.lt b
    | .le => !un && !b.lt a
    | .gt => !un && b.lt a
    | .ge => !un && !a.lt b
    | .ord => !un
    | .uno => un
  let signals := c = .lt || c = .le || c = .gt || c = .ge
  (holds, flagIf (a.isSnan || b.isSnan || (un && signals)) fNV)

/-- R77, R126: a floating value to an integer of w bits: the value and the flags. -/
def toIntRule (w : Nat) (signed : Bool) (r : Rounding) (a : FVal) : Int × BitVec 6 :=
  let lo : Int := if signed then -2 ^ (w - 1) else 0
  let hi : Int := if signed then 2 ^ (w - 1) - 1 else 2 ^ w - 1
  match a with
  | .nan _ => (0, fNV)
  | .inf u => (if u then lo else hi, fNV)
  | .zero _ => (0, 0)
  | .num u n d =>
    let m := roundInt r.rm r.dith u n d
    let v : Int := if u then -m.1 else m.1
    (min (max v lo) hi, if v < lo ∨ hi < v then fNV else flagIf m.2 fNX)

/-- R67, R76: the code of a live element at a scale: the value over the element step, rounded once and kept in the range of w bits. -/
def codeRule (w e : Nat) (rm : Rnd) (phase i : Nat) (a : FVal) : Int :=
  match a with
  | .num u n d =>
    let k : Int := (e : Int) - 127 - (w - 1)
    let m := (roundInt rm (dither i phase) u (if 0 ≤ k then n else n * 2 ^ (-k).toNat) (if 0 ≤ k then d * 2 ^ k.toNat else d)).1
    min (max (if u then -(m : Int) else m) (-2 ^ (w - 1))) (2 ^ (w - 1) - 1)
  | _ => 0

/-- R76: the magnitude n/d is at least 2^k. -/
def atLeastPow (n d : Nat) (k : Int) : Prop := if 0 ≤ k then d * 2 ^ k.toNat ≤ n else d ≤ n * 2 ^ (-k).toNat

/-- A rule of one or two operands as an operation on the values of its operands. -/
def rule1 (g : FFmt → Rounding → FVal → Nat × BitVec 6) (f : FFmt) (r : Rounding) (xs : List FVal) : Nat × BitVec 6 :=
  g f r (xs.getD 0 (.zero false))

def rule2 (g : FFmt → Rounding → FVal → FVal → Nat × BitVec 6) (f : FFmt) (r : Rounding) (xs : List FVal) : Nat × BitVec 6 :=
  g f r (xs.getD 0 (.zero false)) (xs.getD 1 (.zero false))

/-- What a word that acts on its own group, or a stream on itself, leaves unchanged: t is the state after it. Performance counters may
count (R423) where a debugger is attached, and the word takes a unit of its core (R255); nothing else changes: no other team, group or stream, no byte of memory, no control
register. -/
structure Issue.Within (x : Issue) (s t : State) : Prop where
  state : { t with teams := s.teams, streams := s.streams, dbg := s.dbg, pipes := s.pipes } = s
  bytes : ∀ slot a, t.byteAt slot a = s.byteAt slot a
  count : s.dbg.all (fun d => !d.att) = true → t.dbg = s.dbg
  teams : ∀ id, (∀ gi e, x.who ≠ .frag id gi e ∧ x.who ≠ .body id gi e) → t.team? id = s.team? id
  team  : ∀ id gi e, x.who = .frag id gi e ∨ x.who = .body id gi e →
    ∀ y z, s.team? id = some y → t.team? id = some z →
      { z with groups := y.groups } = y ∧ ∀ k, k ≠ gi → z.groups[k]? = y.groups[k]?
  strms : ∀ n, x.who ≠ .stream n → t.streams[n]? = s.streams[n]?

/-- What a word that only produces register results leaves unchanged: beside that, g is its group after it and dst says which register
cells it writes. The issuer moves on (its fragment or stream), and no other register cell changes. -/
structure Issue.Frame (x : Issue) (s t : State) (g : Group) (dst : Key → Prop) : Prop extends x.Within s t where
  strm  : ∀ n, x.who = .stream n → ∀ y z, s.streams[n]? = some y → t.streams[n]? = some z →
    { z with flights := y.flights, pend := y.pend, pc := y.pc, wake := y.wake } = y
  regs  : ∀ now nonce k, ¬ dst k → g.read now nonce k = x.grp.read now nonce k
  group : { g with flights := x.grp.flights, pend := x.grp.pend, frags := x.grp.frags, last := x.grp.last, pipeAt := x.grp.pipeAt, afWait := x.grp.afWait } = x.grp

/-- R30, R99: the word completes with a result of fixed latency: from lat cycles after it on D holds, in every lane the word acts
on, val written at width w (sg: as a signed value); fl joins the sticky flags (R75); the rest is unchanged. -/
def Completes (i : Instr) (s : State) (x : Issue) (lat w : Nat) (sg : Bool) (d : Opr) (fl : BitVec 6) (val : Nat → Int) : Prop :=
  ∃ t g, exec i s = .next t ∧ x.groupAfter t = some g ∧
    (∀ now nonce l, x.s.clock + lat ≤ now → l ∈ x.dstLanes d → (g.dstVal now nonce w d l : Int) = writtenAs w sg d (val l)) ∧
    g.settle.flags = x.grp.settle.flags ||| fl ∧ x.Frame s t g (cellsOf w d (x.dstLanes d))

/-- R115-R117: a floating word of fixed latency completes: each element of D is what the rule gives of the elements of the sources. -/
def CompletesF (i : Instr) (s : State) (x : Issue) (lat : Nat) (ty : FTy) (rnd : Rnd) (d : Opr) (srcs : Nat → List Nat)
    (rule : FFmt → Rounding → List FVal → Nat × BitVec 6) : Prop :=
  let res (l : Nat) := fpApply ty (x.rounding rnd) l (fun f r xs => rule f r (xs.map (unpack f r.ftz))) (srcs l)
  Completes i s x lat 32 false d (orAll ((x.dstLanes d).map (fun l => (res l).2))) (fun l => (res l).1)

/-- The same for a predicate result. -/
def CompletesP (i : Instr) (s : State) (x : Issue) (lat : Nat) (p : BitVec 3) (fl : BitVec 6) (val : Nat → Bool) : Prop :=
  ∃ t g, exec i s = .next t ∧ x.groupAfter t = some g ∧
    (∀ now nonce l, x.s.clock + lat ≤ now → l ∈ x.lanesList → (g.read now nonce (.p p.toNat l) != 0) = val l) ∧
    g.settle.flags = x.grp.settle.flags ||| fl ∧ x.Frame s t g (fun k => ∃ l ∈ x.lanesList, k = .p p.toNat l)

/-- The word completes with given register writes of fixed latency: from lat cycles after it on each cell reads what is written
to it; the rest is unchanged. -/
def CompletesW (i : Instr) (s : State) (x : Issue) (lat : Nat) (ws : List RegWrite) (fl : BitVec 6) : Prop :=
  ∃ t g, exec i s = .next t ∧ x.groupAfter t = some g ∧
    (∀ now nonce k v, x.s.clock + lat ≤ now → (ws.find? (fun w => w.key == k)).map RegWrite.val = some v → g.read now nonce k = v) ∧
    g.settle.flags = x.grp.settle.flags ||| fl ∧ x.Frame s t g (fun k => ∃ w ∈ ws, w.key = k)

/-- R26, R27: what a slot's operation gives of D and S in one lane, with its flags. -/
def Issue.slotRule (x : Issue) (p : PSlot) (l : Nat) : Int × BitVec 6 :=
  let w := if p.arg.d.isS then 64 else 32
  let u := x.pat w p.arg.d l
  let v := x.pat w p.arg.s l
  let k := p.arg.aux.toNat
  let fp (f : FFmt → Rounding → FVal → FVal → Nat × BitVec 6) : Int × BitVec 6 :=
    let r := x.rounding .dyn l
    let y := f .f32 r (unpack .f32 r.ftz u.toNat) (unpack .f32 r.ftz v.toNat)
    (y.1, y.2)
  match p.op with
  | .nop => (0, 0)
  | .mov => (v.toNat, 0)
  | .movi => (p.arg.aux.toInt, 0)
  | .iadd | .iaddZ16 | .iaddZ32 => ((u.toNat : Int) + v.toNat, 0)
  | .isub | .isubZ16 | .isubZ32 => ((u.toNat : Int) - v.toNat, 0)
  | .and => ((u &&& v).toNat, 0)
  | .or => ((u ||| v).toNat, 0)
  | .xor => ((u ^^^ v).toNat, 0)
  | .shl => ((u <<< k).toNat, 0)
  | .shr => ((u >>> k).toNat, 0)
  | .sar => ((u.sshiftRight k).toNat, 0)
  | .imin => (min u.toInt v.toInt, 0)
  | .imax => (max u.toInt v.toInt, 0)
  | .ineg => (-(v.toNat : Int), 0)
  | .not => ((~~~v).toNat, 0)
  | .fadd => fp addRule
  | .fsub => fp (fun f r a b => addRule f r a b.flip)
  | .fmul => fp mulRule
  | .fmin => fp (fun f _ a b => fpMinMax f true a b)
  | .fmax => fp (fun f _ a b => fpMinMax f false a b)
  | .fneg => ((v ^^^ BitVec.ofNat w (2 ^ 31)).toNat, 0)
  | .fabs => ((v &&& BitVec.ofNat w (2 ^ 31 - 1)).toNat, 0)

/-- R14, R27: the lanes in which a slot writes: those of the word for which its guard is true; an s destination is written once if
there is any. -/
def Issue.slotDst (x : Issue) (p : PSlot) : List Nat :=
  let on := x.lanesList.filter (fun l => x.preg p.arg.gi l ^^ p.arg.gn)
  if p.op = .nop then [] else if p.arg.d.isS then (if on = [] then [] else [0]) else on

/-- R26: the width at which a slot writes its destination. -/
def slotWide (p : PSlot) : Nat :=
  match p.op with
  | .iaddZ16 | .isubZ16 => 16
  | .iaddZ32 | .isubZ32 => 32
  | _ => if p.arg.d.isS then 64 else 32

/-- R26-R28: a paired word completes: each slot's destination holds what its operation gives of the registers as they stood before
the word, 4 or 5 cycles later; both slots' flags join; the rest is unchanged. -/
def CompletesPair (i : Instr) (s : State) (x : Issue) (a b : PSlot) : Prop :=
  ∃ t g, exec i s = .next t ∧ x.groupAfter t = some g ∧
    (∀ p, p = a ∨ p = b → ∀ now nonce l, x.s.clock + (if p.op.isFp then 5 else 4) ≤ now → l ∈ x.slotDst p →
      (g.dstVal now nonce (slotWide p) p.arg.d l : Int) = (x.slotRule p l).1 % 2 ^ slotWide p) ∧
    g.settle.flags = x.grp.settle.flags ||| orAll ((x.slotDst a).map (fun l => (x.slotRule a l).2)) |||
      orAll ((x.slotDst b).map (fun l => (x.slotRule b l).2)) ∧
    x.Frame s t g (fun k => cellsOf (slotWide a) a.arg.d (x.slotDst a) k ∧ x.slotDst a ≠ [] ∨ cellsOf (slotWide b) b.arg.d (x.slotDst b) k ∧ x.slotDst b ≠ [])

/-- R32: the word completes with a result of variable latency: D becomes pending, the result is due lat cycles later, and it will
write val at width w (sg: as a signed value) in every lane the word acts on, with flags fl (R75); the rest is unchanged. -/
def Pends (i : Instr) (s : State) (x : Issue) (lat w : Nat) (sg : Bool) (d : Opr) (fl : BitVec 6) (val : Nat → Int) : Prop :=
  ∃ t g, exec i s = .next { t with nextId := s.nextId + 1 } ∧ t.nextId = s.nextId ∧ x.groupAfter t = some g ∧
    g.pend = x.grp.pend ++ [⟨s.nextId, x.frag.mask, pendRegs x.lanes (d.ref (if w = 64 then 2 else 1)),
      (x.dstLanes d).flatMap (fun l => putInt w sg d l (wrap w (val l))), fl, 0, x.s.clock + lat, false⟩] ∧
    g.flags = x.grp.flags ∧ x.Frame s t g (fun _ => False)

/-! ### Control -/

/-- R22: the address off words from the next word. -/
def Issue.rel (x : Issue) {n : Nat} (off : BitVec n) : Word := x.pc + 8 + BitVec.ofInt 64 (8 * off.toInt)

/-- R145: a fragment or a held item of a group holds a set of lanes at an address with a join record. -/
def Group.standsAt (g : Group) (m : Lanes) (pc : Word) (j : Option Nat) : Prop :=
  (∃ f ∈ g.frags, f.mask = m ∧ f.pc = pc ∧ f.join = j ∧ f.st = .ready) ∨ (∃ k ∈ g.held, k.mask = m ∧ k.pc = pc ∧ k.join = j)

/-- A lane of a group stands at an address. -/
def Group.laneAt (g : Group) (l : Nat) (pc : Word) : Prop :=
  (∃ f ∈ g.frags, f.mask.getLsbD l = true ∧ f.pc = pc) ∨ (∃ k ∈ g.held, k.mask.getLsbD l = true ∧ k.pc = pc)

/-- A group with the split table, join table and held queue of another, the cycle it last issued in and holds a pipe until, and the words that wait for a
tile (R213). -/
def Group.withSplit (g h : Group) : Group := { g with frags := h.frags, joins := h.joins, held := h.held, last := h.last, pipeAt := h.pipeAt, afWait := h.afWait }

/-- R140-R145, R148: the fragment divides: the lanes not taken keep its entry at the next word, the taken lanes stand at the target; a
branch record for rc is made where rc differs from the record the fragment belongs to. g0 is the group but for its split table. -/
def Issue.Diverges (x : Issue) (t : State) (g0 : Group) (target : Word) (rc : Option Word) : Prop :=
  ∃ g j, x.groupAfter t = some g ∧
    (∃ f ∈ g.frags, f.ent = x.frag.ent ∧ f.mask = x.frag.mask &&& ~~~x.lanes ∧ f.pc = x.pc + 8 ∧ f.join = j) ∧
    g.standsAt x.lanes target j ∧
    (if rc = none ∨ rc = (x.frag.join.bind x.grp.join?).map Join.rc then j = x.frag.join ∧ g.joins = x.grp.joins
     else ∃ id, j = some id ∧ g.joins = x.grp.joins ++ [⟨id, false, rc.getD 0, x.frag.mask, 0, x.frag.join⟩]) ∧
    g.withSplit x.grp = g0.withSplit x.grp

/-- R145: n parts can be placed in free entries and the held queue. -/
def Group.fits (g : Group) (n : Nat) : Prop :=
  n ≤ ((List.range 8).filter (fun e => !(g.frags.any (fun f => f.ent == e)))).length + (8 - g.held.length)

/-- R140, R142: the entries of a split table are distinct, and so are the ranks, which count from 0. -/
def Group.splitOk (g : Group) : Bool :=
  decide (g.frags.map Frag.ent).Nodup && decide g.ages.Nodup && g.ages.all (fun a => decide (a < g.frags.length + g.held.length))

/-! ### Accesses to memory -/

/-- R334, R344-R354, R364, R421, R424: what translating a word's addresses may change: accessed and dirty bits in the tables, cached
translations and lines, the directory of read-mostly pages, what is known of a peer's memory, counters and samples. -/
def Walked (s t : State) : Prop :=
  { t with mem := s.mem, slotOf := s.slotOf, poisoned := s.poisoned, tlb := s.tlb, walks := s.walks, l1 := s.l1, slices := s.slices,
           replicas := s.replicas, nextId := s.nextId, peerMem := s.peerMem, shared := s.shared, flits := s.flits, dbg := s.dbg } = s

/-- R168: the checks of a word that names global memory let every participant of ps through: each address is aligned, no watchpoint
fires (R413), each translates without an error, no home sleeps (R441), no earlier device access is on its way (R280), and no write
meets a replicated page (R289). ok holds where the participants land, and s1 is the state with the translations made and the requests
counted. -/
structure Issue.Reaches (x : Issue) (a : Access) (rd queueWord : Bool) (n kind : Nat) (ps : List (Nat × Word)) (s1 : State)
    (ok : List (Nat × Loc × Tr)) : Prop where
  present : ps ≠ []
  aligned : ∀ p ∈ ps, p.2.toNat % n = 0
  watch   : x.watchHit 0 (fun l => (0, 0, ((ps.find? (fun p => p.1 == l)).map (fun p => p.2.toNat)).getD 0)) n ps (watchKinds kind rd).1 (watchKinds kind rd).2 = none
  lanes   : ok.map Prod.fst = ps.map Prod.fst
  reach   : ∃ s0, State.reach x.space a rd queueWord n x.s ps = (s0, (ps.zip ok).map (fun y => (y.1, .ok y.2.2))) ∧
    (∀ c ∈ ok, c.2.1.peer = 0 → inDram c.2.1.pa = true → s0.asleep (homeDie c.2.1.pa) = false) ∧
    (a = .write → ∀ c ∈ ok, c.2.2.rm = true → s0.replica? c.2.1.asid c.2.1.va = none) ∧
    s1 = x.sample kind n ok (ok.foldl (fun s c => s.countRequest x.la.part x.la.seq x.coreIx n c.2.1 (x.level s0 kind n c.2.1 c.2.2) c.2.2.found) s0)
  device  : ∀ c ∈ ok, c.2.1.mt = 2 → x.busy (fun q => q.loc.mt == 2) = false

/-- Participants in one 64-byte line of addresses land in one line of memory; only device addresses lie in the register windows. -/
def Coherent (ok : List (Nat × Loc × Tr)) : Prop :=
  ∀ p ∈ ok, p.2.1.pa % 64 = p.2.1.va % 64 ∧ (inWindow p.2.1.pa = true → p.2.1.mt = 2) ∧
    ∀ q ∈ ok, p.2.1.va / 64 = q.2.1.va / 64 → p.2.1.asid = q.2.1.asid → p.2.1.pa / 64 = q.2.1.pa / 64 ∧ p.2.1.key = q.2.1.key ∧
      p.2.1.mt = q.2.1.mt ∧ p.2.1.peer = q.2.1.peer

/-- R32, R170: the word completes with pending results that hold, for each participant of ok, the little-endian value of its bytes as
they are registered at its home, with the issuer's own stores on their way laid over them; a load that an unowned copy of the core may
serve (R283) may give the copy's bytes instead. Every byte of memory reads as in s1, and nothing else of the group changes. -/
def CompletesLoad (i : Instr) (s : State) (x : Issue) (s1 : State) (d : Opr) (sz : Sz) (ok : List (Nat × Loc × Tr)) (once plain : Bool) : Prop :=
  let own (p : Nat × Loc × Tr) (bs : List Byte) : Nat := leNat (s1.ownBytes x.agent x.gi (x.agentLanes once p.1) p.2.1 bs)
  ∃ t g k due vs, exec i s = .next t ∧ x.groupAfter t = some g ∧ vs.length = ok.length ∧
    g.pend = x.grp.pend ++ [⟨k, x.frag.mask, pendRegs (laneSet 64 (fun l => ok.any (fun p => p.1 == l))) (d.ref sz.regs),
      (ok.zip vs).flatMap (fun y => loadWrites sz d y.1.1 y.2), 0, 0, due, false⟩] ∧
    { g with pend := x.grp.pend, frags := x.grp.frags, last := x.grp.last, pipeAt := x.grp.pipeAt, afWait := x.grp.afWait } = x.grp ∧
    (∀ slot a, t.byteAt slot a = s1.byteAt slot a) ∧ t.homeOps = s1.homeOps ∧
    (plain = false → (∀ y ∈ ok.zip vs, y.2 = own y.1 (s1.homeBytes y.1.2.1 sz.bytes)) ∧ ∀ y ∈ t.l1, y.core ≠ x.coreIx) ∧
    (plain = true → Coherent ok → ∀ y ∈ ok.zip vs, y.2 = own y.1 (s1.homeBytes y.1.2.1 sz.bytes) ∨
      ∃ c ∈ s1.l1, c.core = x.coreIx ∧ c.asid = y.1.2.1.asid ∧ c.va = y.1.2.1.va / 64 * 64 ∧
        y.2 = own y.1 ((c.bytes.drop (y.1.2.1.va % 64)).take sz.bytes))

/-- R284, R436, R376: bytes written at their home: in memory they read back under the key they are written with, and every other byte
reads as before, but that the rest of a line that was stored under another key, or is read under another, changes with it; to the register window
they are a register write; to a peer package they go out over the link that the line takes (R405). -/
def WritesHome (s t : State) (c : Loc) (bs : List Byte) : Prop :=
  (c.peer ≠ 0 → t.out = s.out ++ [.peerSend (s.peerRoute c.peer c.pa)
    ⟨field (s.hreg .peer 0) 4 0, field (s.hreg .peer (8 * c.peer)) 20 16, 0, c.pa, bs.length, .write bs⟩]) ∧ (c.peer = 0 → t.out = s.out) ∧
  (c.peer ≠ 0 ∨ inWindow c.pa = true → t.mem = s.mem ∧ t.slotOf = s.slotOf ∧ t.poisoned = s.poisoned) ∧
  (c.peer = 0 → inWindow c.pa = false → s.MemOk →
    (∀ j, j < bs.length → t.byteAt c.key (c.pa + j) = bs.getD j 0) ∧
    ∀ slot a, a < c.pa ∨ c.pa + bs.length ≤ a →
      ((a / 64 < c.pa / 64 ∨ (c.pa + bs.length - 1) / 64 < a / 64) ∨ (Cells.get 0 s.slotOf (a / 64) = c.key ∧ slot = c.key)) →
        t.byteAt slot a = s.byteAt slot a)

/-- What an access at its home changes of the state beside what its rule gives: it leaves the accesses on their way; memory, copies,
groups, what is known of a peer's memory, what goes out and register writes to come may change. -/
def LandsAt (s t : State) (p : HomeOp) : Prop :=
  { t with homeOps := s.homeOps, mem := s.mem, slotOf := s.slotOf, poisoned := s.poisoned, l1 := s.l1, teams := s.teams, out := s.out,
           peerMem := s.peerMem, inbox := s.inbox } = s ∧
    t.homeOps = s.homeOps.filter (fun q => q.id != p.id)

/-- A pending result of a group receives writes from one participant (R169). -/
def GivesResult (s t : State) (p : HomeOp) (ws : List RegWrite) : Prop :=
  ∀ k y g, p.pend = some k → s.team? p.team = some y → y.groups[p.grp]? = some g → ∃ y' g', t.team? p.team = some y' ∧ y'.groups[p.grp]? = some g' ∧
    g' = { g with pend := g.pend.map (fun q => if q.id = k then { q with writes := q.writes ++ ws, left := q.left - 1 } else q) }

/-- R280, R281: an earlier access q of its group holds back a store p: they meet, whatever their lanes (log entry 29); p is a release of
the lanes of q, or q still has to obtain a value for one of its lanes; q is a fence of one of its lanes; or both are device accesses of one lane. -/
def HomeOp.Before (q p : HomeOp) : Prop :=
  let meet := q.lanes &&& p.lanes ≠ 0
  (q.loc.asid = p.loc.asid ∧ q.fn ≠ .mark ∧ q.loc.va < p.loc.va + p.n ∧ p.loc.va < q.loc.va + q.n) ∨
  (q.word ≠ p.word ∧ (q.lanes &&& p.rel ≠ 0 ∨ q.pend ≠ none ∧ meet)) ∨ (q.fn = .mark ∧ meet) ∨ (q.loc.mt = 2 ∧ p.loc.mt = 2 ∧ meet)

/-- R169, R436, R439: the fault of an access that cannot be performed: its result lacks it no longer, and it ends its team, or traps in its
stream, with a MEMF. -/
def State.lost (s : State) (p : HomeOp) (sub : Nat) : State :=
  let s1 := s.giveResult p []
  if p.team < 2 ^ 32 then s1.terminate p.team p.grp p.ent 0x06 sub p.pc (BitVec.ofNat 64 p.loc.va)
  else s1.takeTrap (.stream (p.team - 2 ^ 32)) { code := 0x06, sub := sub, tval := BitVec.ofNat 64 p.loc.va, tpc := some p.pc }

/-! ### Traps and waiting -/

/-- R93, R250: a word ends by taking a trap, with none of its own effect. -/
def Traps (i : Instr) (s : State) (c : Trap) : Prop := exec i s = .next (s.takeTrap s.cur c)

/-- R202, R208: each descriptor, with the n bytes it names and whether its scales are used, is aligned, names a team that is there, and
stays within the scratchpad. -/
def Issue.descsOk (x : Issue) (ds : List (Word × Nat × Bool)) : Prop :=
  ∀ d ∈ ds, (descOfs d.1 % 64 = 0 ∧ (d.2.2 = true → descScale d.1 % 64 = 0)) ∧ x.s.descTeam x.team d.1 ≠ none ∧
    descOfs d.1 + d.2.1 ≤ 256 * x.la.r.scr ∧ (d.2.2 = true → descScale d.1 + 64 ≤ 256 * x.la.r.scr)

/-! ### Registers of the window -/

/-- R388, R393, R394: a write through a path is taken by a register: the path reaches it and it is not locked. -/
def State.Takes (s : State) (path : Path) (b : Blk) (off : Nat) : Prop :=
  s.reaches path b off = true ∧ ∀ p, s.lockOf b off = some p → s.isLocked p = false

/-- R3: a register of the window with the bits of a mask written. -/
def State.put (s : State) (b : Blk) (off : Nat) (mask v : Word) : State :=
  s.setHreg b off ((s.hreg b off &&& ~~~mask) ||| (v &&& mask))

/-- A command register's STAT, in bits [55:48], and BUSY, bit [63], as a command leaves them. -/
def State.ended (s : State) (b : Blk) (off stat : Nat) (busy : Bool) : State :=
  s.put b off 0x80FF000000000000 (BitVec.ofNat 64 ((if busy then 2 ^ 63 else 0) + stat * 2 ^ 48))

end Sys2Proof.Machine
end

