-- ==== Sys2Proof/Certificates/Slice0/Obligations.lean ====
section
/-! DEFINITION. The statements for the provers. -/

open Sys2Proof Sys2Proof.Machine

/-! ### Class 0 -/

/-- R37, R104: nop only advances its issuer; mov, movi, movh and sel write what the table of R104 gives. -/
def Obligations.MovesWriteTheirSource : Prop := ∀ s x,
  (∀ h, Issues (.nop h) s x → ∃ g, exec (.nop h) s = .next x.s ∧ x.groupAfter x.s = some g ∧ x.Frame s x.s g (fun _ => False)) ∧
  (∀ h d a ty, Issues (.mov h d a ty) s x →
    Completes (.mov h d a ty) s x (srcLat a 4) ty.width ty.signed d 0 (fun l => (x.patA ty.width a l).toNat)) ∧
  (∀ h d imm, Issues (.movi h d imm) s x →
    Completes (.movi h d imm) s x 4 (if d.isS then 64 else 32) false d 0 (fun _ => imm.toInt)) ∧
  (∀ h d q imm, Issues (.movh h d q imm) s x →
    Completes (.movh h d q imm) s x 4 (if d.isS then 64 else 32) false d 0 (fun l =>
      let a := x.opnd (if d.isS then 64 else 32) d l
      (a : Int) - (a / 2 ^ (16 * q.toNat) % 2 ^ 16 * 2 ^ (16 * q.toNat) : Nat) + (imm.toNat * 2 ^ (16 * q.toNat) : Nat))) ∧
  (∀ h d a b p neg ty, Issues (.sel h d a b p neg ty) s x →
    Completes (.sel h d a b p neg ty) s x 4 ty.width ty.signed (.v d) 0 (fun l =>
      if (x.preg p l ^^ neg) then (x.pat ty.width a l).toNat else (x.pat ty.width b l).toNat))

/-- R105: iadd, isub, imul, imulh and imad.
R106, R107: imin, imax, iabs, ineg and isat. -/
def Obligations.IntegerArithmetic : Prop :=
  (∀ s x,
    (∀ h d a b ty, Issues (.iadd h d a b ty) s x →
      Completes (.iadd h d a b ty) s x (srcLat a 4) ty.width ty.signed d 0 (fun l => (x.asrc ty.width a l : Int) + x.opnd ty.width b l)) ∧
    (∀ h d a b ty, Issues (.isub h d a b ty) s x →
      Completes (.isub h d a b ty) s x (srcLat a 4) ty.width ty.signed d 0 (fun l => (x.asrc ty.width a l : Int) - x.opnd ty.width b l)) ∧
    (∀ h d a b ty, Issues (.imul h d a b ty) s x →
      Completes (.imul h d a b ty) s x 4 ty.width ty.signed d 0 (fun l => (x.opnd ty.width a l : Int) * x.opnd ty.width b l)) ∧
    (∀ h d a b ty, Issues (.imulh h d a b ty) s x →
      Completes (.imulh h d a b ty) s x 4 ty.width ty.signed d 0 (fun l =>
        ITy.num ty (x.pat ty.width a l) * ITy.num ty (x.pat ty.width b l) / 2 ^ ty.width)) ∧
    (∀ h d a b c ty, Issues (.imad h d a b c ty) s x →
      Completes (.imad h d a b c ty) s x 4 ty.width ty.signed d 0 (fun l =>
        (x.opnd ty.width a l : Int) * x.opnd ty.width b l + x.opnd ty.width c l))) ∧
  (∀ s x,
    (∀ h d a b ty, Issues (.imin h d a b ty) s x →
      Completes (.imin h d a b ty) s x 4 ty.width ty.signed d 0 (fun l =>
        min (ITy.num ty (x.pat ty.width a l)) (ITy.num ty (x.pat ty.width b l)))) ∧
    (∀ h d a b ty, Issues (.imax h d a b ty) s x →
      Completes (.imax h d a b ty) s x 4 ty.width ty.signed d 0 (fun l =>
        max (ITy.num ty (x.pat ty.width a l)) (ITy.num ty (x.pat ty.width b l)))) ∧
    (∀ h d a ty, Issues (.iabs h d a ty) s x →
      Completes (.iabs h d a ty) s x 4 ty.width ty.signed d 0 (fun l => (x.pat ty.width a l).toInt.natAbs)) ∧
    (∀ h d a ty, Issues (.ineg h d a ty) s x →
      Completes (.ineg h d a ty) s x 4 ty.width ty.signed d 0 (fun l => -(x.opnd ty.width a l : Int))) ∧
    (∀ h d a tgt ty, Issues (.isat h d a tgt ty) s x →
      Completes (.isat h d a tgt ty) s x 4 ty.width ty.signed d 0 (fun l =>
        let v := ITy.num ty (x.pat ty.width a l)
        match tgt with
        | .i8 => min (max v (-128)) 127
        | .n8 => min (max v 0) 255
        | .i16 => min (max v (-32768)) 32767
        | .n16 => min (max v 0) 65535
        | .i32 => min (max v (-2147483648)) 2147483647
        | .n32 => min (max v 0) 4294967295)))

/-- R108, R32: idiv and irem: the quotient truncated towards zero and its remainder; a divisor of 0 gives all ones and the
dividend. The cycle in which they may be written is the model's choice of R108's typical times (log entry 25). -/
def Obligations.Division : Prop := ∀ s x,
  (∀ h d a b ty, Issues (.idiv h d a b ty) s x →
    Pends (.idiv h d a b ty) s x (if ty.width = 64 then 34 else 18) ty.width ty.signed d 0 (fun l =>
      if ITy.num ty (x.pat ty.width b l) = 0 then -1
      else (ITy.num ty (x.pat ty.width a l)).tdiv (ITy.num ty (x.pat ty.width b l)))) ∧
  (∀ h d a b ty, Issues (.irem h d a b ty) s x →
    Pends (.irem h d a b ty) s x (if ty.width = 64 then 34 else 18) ty.width ty.signed d 0 (fun l =>
      if ITy.num ty (x.pat ty.width b l) = 0 then ITy.num ty (x.pat ty.width a l)
      else ITy.num ty (x.pat ty.width a l) -
        (ITy.num ty (x.pat ty.width a l)).tdiv (ITy.num ty (x.pat ty.width b l)) * ITy.num ty (x.pat ty.width b l)))

/-- R109, R110: and, or, xor, andn, not, shl, shr, sar and rot. -/
def Obligations.LogicAndShifts : Prop := ∀ s x,
  (∀ h d a b ty, Issues (.and h d a b ty) s x →
    Completes (.and h d a b ty) s x (srcLat a 4) ty.width ty.signed d 0 (fun l => (x.patA ty.width a l &&& x.pat ty.width b l).toNat)) ∧
  (∀ h d a b ty, Issues (.or h d a b ty) s x →
    Completes (.or h d a b ty) s x (srcLat a 4) ty.width ty.signed d 0 (fun l => (x.patA ty.width a l ||| x.pat ty.width b l).toNat)) ∧
  (∀ h d a b ty, Issues (.xor h d a b ty) s x →
    Completes (.xor h d a b ty) s x (srcLat a 4) ty.width ty.signed d 0 (fun l => (x.patA ty.width a l ^^^ x.pat ty.width b l).toNat)) ∧
  (∀ h d a b ty, Issues (.andn h d a b ty) s x →
    Completes (.andn h d a b ty) s x 4 ty.width ty.signed d 0 (fun l => (x.pat ty.width a l &&& ~~~(x.pat ty.width b l)).toNat)) ∧
  (∀ h d a ty, Issues (.not h d a ty) s x →
    Completes (.not h d a ty) s x 4 ty.width ty.signed d 0 (fun l => (~~~(x.pat ty.width a l)).toNat)) ∧
  (∀ h d a b ty, Issues (.shl h d a b ty) s x →
    Completes (.shl h d a b ty) s x 4 ty.width ty.signed d 0 (fun l => (x.pat ty.width a l <<< (x.amt b l % ty.width)).toNat)) ∧
  (∀ h d a b ty, Issues (.shr h d a b ty) s x →
    Completes (.shr h d a b ty) s x 4 ty.width ty.signed d 0 (fun l => (x.pat ty.width a l >>> (x.amt b l % ty.width)).toNat)) ∧
  (∀ h d a b ty, Issues (.sar h d a b ty) s x →
    Completes (.sar h d a b ty) s x 4 ty.width ty.signed d 0 (fun l => ((x.pat ty.width a l).sshiftRight (x.amt b l % ty.width)).toNat)) ∧
  (∀ h d a b ty, Issues (.rot h d a b ty) s x →
    Completes (.rot h d a b ty) s x 4 ty.width ty.signed d 0 (fun l => ((x.pat ty.width a l).rotateLeft (x.amt b l % ty.width)).toNat))

/-- R111, R112: bfe, bfi, popc, clz and brev.
R113, R114: icmp and lea. -/
def Obligations.FieldsCountsAndComparisons : Prop :=
  (∀ s x,
    (∀ h d a b ty, Issues (.bfe h d a b ty) s x →
      Completes (.bfe h d a b ty) s x 4 ty.width ty.signed d 0 (fun l =>
        fieldNum ty (x.pat ty.width a l) (x.amt b l % 256) (min (x.amt b l / 256 % 256) ty.width))) ∧
    (∀ h d a b c ty, Issues (.bfi h d a b c ty) s x → ∃ y : Nat → BitVec ty.width,
      Completes (.bfi h d a b c ty) s x 4 ty.width ty.signed d 0 (fun l => (y l).toNat) ∧ ∀ l j, j < ty.width → (y l).getLsbD j =
        (if x.amt c l % 256 ≤ j ∧ j < x.amt c l % 256 + x.amt c l / 256 % 256 then (x.pat ty.width b l).getLsbD (j - x.amt c l % 256)
        else (x.pat ty.width a l).getLsbD j)) ∧
    (∀ h d a ty, Issues (.popc h d a ty) s x →
      Completes (.popc h d a ty) s x 4 32 false d 0 (fun l =>
        ((List.range ty.width).filter (fun j => (x.pat ty.width a l).getLsbD j)).length)) ∧
    (∀ h d a ty, Issues (.clz h d a ty) s x →
      ∃ n : Nat → Nat, Completes (.clz h d a ty) s x 4 32 false d 0 (fun l => n l) ∧ ∀ l, n l ≤ ty.width ∧
        (∀ j, ty.width - n l ≤ j → (x.pat ty.width a l).getLsbD j = false) ∧
        (n l < ty.width → (x.pat ty.width a l).getLsbD (ty.width - 1 - n l) = true)) ∧
    (∀ h d a ty, Issues (.brev h d a ty) s x → ∃ y : Nat → BitVec ty.width,
      Completes (.brev h d a ty) s x 4 ty.width ty.signed d 0 (fun l => (y l).toNat) ∧
        ∀ l j, j < ty.width → (y l).getLsbD j = (x.pat ty.width a l).getLsbD (ty.width - 1 - j))) ∧
  (∀ s x,
    (∀ h p a b cond ty, Issues (.icmp h p a b cond ty) s x →
      CompletesP (.icmp h p a b cond ty) s x 4 p 0 (fun l =>
        match cond with
        | .eq => decide (x.pat ty.width a l = x.pat ty.width b l)
        | .ne => decide (x.pat ty.width a l ≠ x.pat ty.width b l)
        | .lt => decide (ITy.num ty (x.pat ty.width a l) < ITy.num ty (x.pat ty.width b l))
        | .le => decide (ITy.num ty (x.pat ty.width a l) ≤ ITy.num ty (x.pat ty.width b l))
        | .gt => decide (ITy.num ty (x.pat ty.width b l) < ITy.num ty (x.pat ty.width a l))
        | .ge => decide (ITy.num ty (x.pat ty.width b l) ≤ ITy.num ty (x.pat ty.width a l)))) ∧
    (∀ h d a b sh ty, Issues (.lea h d a b sh ty) s x →
      Completes (.lea h d a b sh ty) s x 4 64 false d 0 (fun l =>
        (x.opnd 64 a l : Int) + (if ty = .i32 then (x.pat 32 b l).toInt else x.opnd ty.width b l) * 2 ^ sh.toNat)))

/-! ### Class 1 -/

/-- R60, R62, R63, R70, R71, R78: one rounding to an integer or to a format gives the value its code names, with the sticky flags; an overflow
and a flushed subnormal give what their rules say, an overflow of the matrix engine what MODE.SAT says. -/
def Obligations.OneRoundingGivesTheNearestValue : Prop :=
  (∀ (r : Rounding) (neg : Bool) (n d : Nat), 0 < d → r.dith < 256 →
    let m := roundInt r.rm r.dith neg n d
    Nearest id r neg n d m.1 ∧ m.2 = decide (n % d ≠ 0)) ∧
  (∀ (f : FFmt) (r : Rounding) (neg : Bool) (n d : Nat),
    0 < n → 0 < d → r.dith < 256 → ∃ p, Nearest f.mag r neg (n * 2 ^ (126 + f.frac)) d p ∧
      let y := roundTo f r neg n d
      let inexact := decide (f.mag p * d ≠ n * 2 ^ (126 + f.frac))
      (255 * 2 ^ f.frac ≤ p → y.2 = fOF ||| fNX ∧ y.1 =
        match r.ovf, r.rm with
        | .toTop, _ => f.top neg
        | .toInf, _ => f.inf neg
        | .byCode, .rtz => f.top neg
        | .byCode, .rdn => if neg then f.inf neg else f.top neg
        | .byCode, .rup => if neg then f.top neg else f.inf neg
        | .byCode, .dyn | .byCode, .rne | .byCode, .rna | .byCode, .sr => f.inf neg) ∧
      (p < 2 ^ f.frac → p ≠ 0 → r.ftz = true → y = (f.sign neg, fUF ||| fNX)) ∧
      (p < 2 ^ f.frac → p = 0 ∨ r.ftz = false → y = (f.sign neg + p, flagIf inexact (fUF ||| fNX))) ∧
      (2 ^ f.frac < p → p < 255 * 2 ^ f.frac → y = (f.sign neg + p, flagIf inexact fNX)) ∧
      (p = 2 ^ f.frac → y.1 = f.sign neg + p ∧ (y.2 = flagIf inexact fNX ∨ y.2 = flagIf inexact (fUF ||| fNX))))

/-- R119: fadd, fsub, fmul and ffma round the exact sum, difference, product and sum of product and addend once; with an accumulator
fragment ffma reads the addend from D (R118). -/
def Obligations.FloatSumsAndProducts : Prop := ∀ s x,
  (∀ h d a b ty rnd, Issues (.fadd h d a b ty rnd) s x →
    CompletesF (.fadd h d a b ty rnd) s x (srcLat a 5) ty rnd d (fun l => [x.fsrc a l, x.fopnd b l]) (rule2 addRule)) ∧
  (∀ h d a b ty rnd, Issues (.fsub h d a b ty rnd) s x →
    CompletesF (.fsub h d a b ty rnd) s x (srcLat a 5) ty rnd d (fun l => [x.fsrc a l, x.fopnd b l])
      (rule2 (fun f r u v => addRule f r u v.flip))) ∧
  (∀ h d a b ty rnd, Issues (.fmul h d a b ty rnd) s x →
    CompletesF (.fmul h d a b ty rnd) s x (srcLat a 5) ty rnd d (fun l => [x.fsrc a l, x.fopnd b l]) (rule2 mulRule)) ∧
  (∀ h d a c b ty rnd, Issues (.ffma h d (.reg a c) b ty rnd) s x →
    CompletesF (.ffma h d (.reg a c) b ty rnd) s x 5 ty rnd d (fun l => [x.fopnd a l, x.fopnd b l, x.fopnd c l])
      (fun f r xs => fmaRule f r (xs.getD 0 (.zero false)) (xs.getD 1 (.zero false)) (xs.getD 2 (.zero false)))) ∧
  (∀ h d fr b ty rnd, Issues (.ffma h d (.acc fr) b ty rnd) s x →
    CompletesF (.ffma h d (.acc fr) b ty rnd) s x 8 ty rnd d (fun l => [x.accElem fr l, x.fopnd b l, x.fopnd d l])
      (fun f r xs => fmaRule f r (xs.getD 0 (.zero false)) (xs.getD 1 (.zero false)) (xs.getD 2 (.zero false))))

/-- R119, R121, R122: fscale, fround, fdot2, fdiv, fsqrt and frcp; a square root is the rounding of the root found to 128 binary
places with a last bit that says whether the rest is zero. The cycle in which fdiv and fsqrt may be written is the model's choice of R121's
typical times (log entry 25), and so is the flag of fdot2's invalid sum beside a NaN (log entry 71). -/
def Obligations.FloatScaleRoundDivideRoot : Prop := ∀ s x,
  (∀ h d a b ty rnd, Issues (.fscale h d a b ty rnd) s x →
    let res (l : Nat) := fpApply ty (x.rounding rnd) l (fun f r xs =>
      match unpack f r.ftz (xs.getD 0 0) with
      | .nan u => (f.nan, flagIf u fNV)
      | .inf u => (f.inf u, 0)
      | .zero u => (f.sign u, 0)
      | .num u n e =>
        let k := max (-1000) (min 1000 (BitVec.ofNat 32 (x.amt b l)).toInt)
        if 0 < k then roundTo f r u (n * 2 ^ k.toNat) e else roundTo f r u n (e * 2 ^ (-k).toNat)) [x.fopnd a l]
    Completes (.fscale h d a b ty rnd) s x 5 32 false d (orAll ((x.dstLanes d).map (fun l => (res l).2))) (fun l => (res l).1)) ∧
  (∀ h d a ty rnd, Issues (.fround h d a ty rnd) s x →
    CompletesF (.fround h d a ty rnd) s x 5 ty rnd d (fun l => [x.fopnd a l]) (rule1 (fun f r u =>
      match u with
      | .nan v => (f.nan, flagIf v fNV)
      | .inf v => (f.inf v, 0)
      | .zero v => (f.sign v, 0)
      | .num v n e =>
        let m := roundInt r.rm r.dith v n e
        ((roundTo f { r with rm := .rne } v m.1 1).1, flagIf m.2 fNX)))) ∧
  (∀ h d a b c rnd, Issues (.fdot2 h d a b c rnd) s x →
    let res (l : Nat) :=
      let r := x.rounding rnd l
      let half (o : Opr) (k : Nat) : FVal := unpack .bf16 r.ftz (x.fopnd o l / 2 ^ (16 * k) % 2 ^ 16)
      fpDot .f32 r [(half a 0, half b 0), (half a 1, half b 1)] (unpack .f32 r.ftz (x.fopnd c l))
    Completes (.fdot2 h d a b c rnd) s x 5 32 false d (orAll ((x.dstLanes d).map (fun l => (res l).2))) (fun l => (res l).1)) ∧
  (∀ h d a b ty rnd, Issues (.fdiv h d a b ty rnd) s x →
    let res (l : Nat) := fpApply ty (x.rounding rnd) l (fun f r xs => rule2 divRule f r (xs.map (unpack f r.ftz))) [x.fopnd a l, x.fopnd b l]
    Pends (.fdiv h d a b ty rnd) s x (if ty = .f32 then 24 else 14) 32 false d (orAll ((x.dstLanes d).map (fun l => (res l).2)))
      (fun l => (res l).1)) ∧
  (∀ h d a ty rnd, Issues (.fsqrt h d a ty rnd) s x →
    let res (l : Nat) := fpApply ty (x.rounding rnd) l (fun f r xs =>
      match unpack f r.ftz (xs.getD 0 0) with
      | .nan u => (f.nan, flagIf u fNV)
      | .inf u => if u then (f.nan, fNV) else (f.inf false, 0)
      | .zero u => (f.sign u, 0)
      | .num u n e =>
        if u then (f.nan, fNV)
        else
          let q := Nat.sqrt (n * 4 ^ 128 / e)
          roundTo f r false (2 * q + if q * q * e = n * 4 ^ 128 then 0 else 1) (2 ^ 129)) [x.fopnd a l]
    Pends (.fsqrt h d a ty rnd) s x (if ty = .f32 then 24 else 14) 32 false d (orAll ((x.dstLanes d).map (fun l => (res l).2)))
      (fun l => (res l).1)) ∧
  (∀ h d a ty, Issues (.frcp h d a ty) s x →
    CompletesF (.frcp h d a ty) s x 12 ty .rne d (fun l => [x.fopnd a l]) (rule1 (fun f r u =>
      match u with
      | .nan v => (f.nan, flagIf v fNV)
      | .inf v => (f.sign v, 0)
      | .zero v => (f.inf v, fDZ)
      | .num v n e => roundTo f ⟨.rne, 0, r.ftz, .byCode⟩ v e n)))

/-- R122, R123: the other transcendental words complete with what their function gives of each element, and at NaN, infinities, zeros
and negative operands that is what the table of R123 gives. -/
def Obligations.TranscendentalWords : Prop :=
  (∀ s x h d a ty,
    let done (i : Instr) (g : TransFn) := Issues i s x →
      let res (l : Nat) := fpApply ty (x.rounding .rne) l (fun f r xs => transcend g f r.ftz (xs.getD 0 0)) [x.fopnd a l]
      Completes i s x 12 32 false d (orAll ((x.dstLanes d).map (fun l => (res l).2))) (fun l => (res l).1)
    done (.frsq h d a ty) .rsq ∧ done (.fexp2 h d a ty) .exp2 ∧ done (.flog2 h d a ty) .log2 ∧ done (.fsin h d a ty) .sin ∧
      done (.fcos h d a ty) .cos ∧ done (.ftanh h d a ty) .tanh ∧ done (.fsig h d a ty) .sig) ∧
  (∀ f ftz p,
    let one := 127 * 2 ^ f.frac
    (∀ u g, unpack f ftz p = .nan u → transcend g f ftz p = (f.nan, flagIf u fNV)) ∧
    (∀ u, unpack f ftz p = .zero u →
      transcend .rsq f ftz p = (f.inf u, fDZ) ∧ transcend .exp2 f ftz p = (one, 0) ∧ transcend .log2 f ftz p = (f.inf true, fDZ) ∧
      transcend .sin f ftz p = (f.sign u, 0) ∧ transcend .cos f ftz p = (one, 0) ∧ transcend .tanh f ftz p = (f.sign u, 0) ∧
      transcend .sig f ftz p = (126 * 2 ^ f.frac, 0)) ∧
    (unpack f ftz p = .inf false →
      transcend .rsq f ftz p = (0, 0) ∧ transcend .exp2 f ftz p = (f.inf false, 0) ∧ transcend .log2 f ftz p = (f.inf false, 0) ∧
      transcend .sin f ftz p = (f.nan, fNV) ∧ transcend .cos f ftz p = (f.nan, fNV) ∧ transcend .tanh f ftz p = (one, 0) ∧
      transcend .sig f ftz p = (one, 0)) ∧
    (unpack f ftz p = .inf true →
      transcend .rsq f ftz p = (f.nan, fNV) ∧ transcend .exp2 f ftz p = (0, 0) ∧ transcend .log2 f ftz p = (f.nan, fNV) ∧
      transcend .sin f ftz p = (f.nan, fNV) ∧ transcend .cos f ftz p = (f.nan, fNV) ∧ transcend .tanh f ftz p = (f.sign true + one, 0) ∧
      transcend .sig f ftz p = (0, 0)) ∧
    (∀ n d, unpack f ftz p = .num true n d → transcend .rsq f ftz p = (f.nan, fNV) ∧ transcend .log2 f ftz p = (f.nan, fNV)))

/-- R120, R124, R125: fmin, fmax, fcmp and fclass. -/
def Obligations.FloatOrderAndClass : Prop := ∀ s x,
  (∀ h d a b ty, Issues (.fmin h d a b ty) s x →
    CompletesF (.fmin h d a b ty) s x (srcLat a 5) ty .rne d (fun l => [x.fsrc a l, x.fopnd b l]) (rule2 minRule)) ∧
  (∀ h d a b ty, Issues (.fmax h d a b ty) s x →
    CompletesF (.fmax h d a b ty) s x (srcLat a 5) ty .rne d (fun l => [x.fsrc a l, x.fopnd b l]) (rule2 maxRule)) ∧
  (∀ h p a c b ty, Issues (.fcmp h p (.reg a c) b ty) s x →
    let f := if ty = .f32 then FFmt.f32 else .bf16
    let res (l : Nat) := cmpRule c (unpack f (modeFtz x.grp.mode) (x.fopnd a l % 2 ^ (f.frac + 9)))
      (unpack f (modeFtz x.grp.mode) (x.fopnd b l % 2 ^ (f.frac + 9)))
    CompletesP (.fcmp h p (.reg a c) b ty) s x 5 p (orAll (x.lanesList.map (fun l => (res l).2))) (fun l => (res l).1)) ∧
  (∀ h p fr c b ty, Issues (.fcmp h p (.acc fr c) b ty) s x →
    let res (l : Nat) := cmpRule c (unpack .f32 (modeFtz x.grp.mode) (x.accElem fr l)) (unpack .f32 (modeFtz x.grp.mode) (x.fopnd b l))
    CompletesP (.fcmp h p (.acc fr c) b ty) s x 8 p (orAll (x.lanesList.map (fun l => (res l).2))) (fun l => (res l).1)) ∧
  (∀ h d a ty, Issues (.fclass h d a ty) s x →
    let f := if ty = .f32 then FFmt.f32 else .bf16
    Completes (.fclass h d a ty) s x 5 32 false d 0 (fun l => (2 ^ classRule f (x.fopnd a l % 2 ^ (f.frac + 9)) : Nat)))

/-- R77, R126: cvt between its types: to an integer by one rounding and the nearer end out of range, to a float by one rounding, between
integers and to rings modulo the width. That the range is tested on the rounded integer is the model's choice (log entry 71), as is Sext for
an i32 result in an s register (R65; R117 says Zext: log entry 83). -/
def Obligations.Conversions : Prop := ∀ s x,
  (∀ h d a src dst rnd, Issues (.cvt h d (.reg a src dst) rnd) s x →
    let pat (l : Nat) := x.opnd (if cvtWidth src = 64 then 64 else 32) a l
    let p (l : Nat) := if src = .bf16h then pat l / 2 ^ 16 else pat l % 2 ^ cvtWidth src
    let num (l : Nat) : Int := if src = .i32 ∨ src = .i64 then (BitVec.ofNat (cvtWidth src) (pat l)).toInt else p l
    let v (l : Nat) := unpack (cvtFmt src) (modeFtz x.grp.mode) (p l)
    let w := if cvtWidth dst = 64 then 64 else 32
    (src.isFloat → dst.isInt →
      let res (l : Nat) := toIntRule (cvtWidth dst) (dst = .i32 ∨ dst = .i64) (x.rounding rnd l) (v l)
      Completes (.cvt h d (.reg a src dst) rnd) s x 5 w (dst = .i32) d (orAll ((x.dstLanes d).map (fun l => (res l).2))) (fun l => (res l).1)) ∧
    (src.isFloat → dst.isFloat →
      let res (l : Nat) :=
        let y := (v l).round (cvtFmt dst) (x.rounding rnd l)
        (y.1, flagIf (v l).isSnan fNV ||| y.2)
      Completes (.cvt h d (.reg a src dst) rnd) s x 5 w false d (orAll ((x.dstLanes d).map (fun l => (res l).2))) (fun l => (res l).1)) ∧
    (¬ src.isFloat → dst.isFloat →
      let res (l : Nat) := roundTo (cvtFmt dst) (x.rounding rnd l) (decide (num l < 0)) (num l).natAbs 1
      Completes (.cvt h d (.reg a src dst) rnd) s x 5 w false d (orAll ((x.dstLanes d).map (fun l => (res l).2))) (fun l => (res l).1)) ∧
    (src.isFloat → dst.isRing →
      Completes (.cvt h d (.reg a src dst) rnd) s x 5 w false d 0 (fun l => (p l % 2 ^ cvtWidth dst : Nat))) ∧
    (¬ src.isFloat → ¬ dst.isFloat →
      Completes (.cvt h d (.reg a src dst) rnd) s x 5 w (dst = .i32) d 0 (fun l => num l % 2 ^ cvtWidth dst))) ∧
  (∀ h d a b rnd, Issues (.cvt h d (.pair a b) rnd) s x →
    let half (o : Opr) (k l : Nat) :=
      let u := unpack .f32 (modeFtz x.grp.mode) (x.fopnd o l)
      let y := u.round .bf16 (x.rounding rnd (2 * l + k))
      (y.1, flagIf u.isSnan fNV ||| y.2)
    Completes (.cvt h d (.pair a b) rnd) s x 5 32 false d (orAll ((x.dstLanes d).map (fun l => (half a 0 l).2 ||| (half b 1 l).2)))
      (fun l => ((half a 0 l).1 + 2 ^ 16 * (half b 1 l).1 : Nat))) ∧
  (∀ h d fr dst rnd, Issues (.cvt h d (.acc fr dst) rnd) s x →
    let res (l : Nat) := cvtVal (x.rounding rnd l) .f32 dst (x.accElem fr l)
    Completes (.cvt h d (.acc fr dst) rnd) s x 8 (if cvtWidth dst = 64 then 64 else 32) (dst = .i32) d
      (orAll ((x.dstLanes d).map (fun l => (res l).2))) (fun l => (res l).1))

/-- R67, R69, R76: the scale of a block and its codes: a NaN or infinity makes the NaN block; otherwise the scale puts the greatest live
magnitude in [0.5, 1) as far as its range allows, and each live element takes its code, each tail element 0. That a NaN block sets NV and no
other flag is the model's choice (log entry 71). -/
def Obligations.BlockScaleAndCodes : Prop := ∀ (w : Nat) (rm : Rnd) (phase : Nat) (xs : List (Option FVal)), 2 ≤ w → w ≤ 8 →
  (∀ u n d, some (FVal.num u n d) ∈ xs → 0 < n ∧ 0 < d) →
  let y := packBlock w rm phase xs
  y.2.1.length = xs.length ∧
  ((∃ v, some v ∈ xs ∧ (v.isNan ∨ v.isInf)) → y = (0xFF, xs.map (fun _ => 0), fNV)) ∧
  ((∀ v, some v ∈ xs → ¬ v.isNan ∧ ¬ v.isInf) → y.1 ≤ 0xFE ∧
    (∀ u n d, some (FVal.num u n d) ∈ xs → y.1 < 0xFE → ¬ atLeastPow n d ((y.1 : Int) - 127)) ∧
    (0 < y.1 → ∃ u n d, some (FVal.num u n d) ∈ xs ∧ atLeastPow n d ((y.1 : Int) - 128)) ∧
    (∀ i : Nat, xs[i]? = some none → y.2.1[i]? = some 0) ∧
    (∀ (i : Nat) v, xs[i]? = some (some v) → y.2.1[i]? = some (codeRule w y.1 rm phase i v)) ∧
    (y.2.2.getLsbD 5 = true ↔ ∃ u n d, some (FVal.num u n d) ∈ xs ∧ atLeastPow n d 127))

/-- R127-R129, R73: bfpk, bfscl and bfup; an element whose code lies in part in a never-launched lane is a tail element (the model's
choice where only a part does: log entry 71). The flags of bfscl at a NaN scale or of a NaN or infinite element, and the SR position of
bfup's results, are the model's choice too (log entry 71). -/
def Obligations.BlockWords : Prop := ∀ s x,
  (∀ h d a w desc ty rnd, Issues (.bfpk h d a w desc ty rnd) s x →
    let n := min ((x.sreg desc).toNat / 2 ^ 16 % 2 ^ 9) 256
    let y := packBlock (w.toNat + 1) (effRnd rnd x.grp.mode) (modeDph x.grp.mode) (x.valueImage ty a.val n)
    exec (.bfpk h d a w desc ty rnd) s = .next (x.modG (x.fixed 5 (x.packedWrites d.val (w.toNat + 1) (packCodes (w.toNat + 1) y.2.1) ++
      [⟨.s desc.val, BitVec.ofNat 64 ((x.sreg desc).toNat / 256 * 256 + y.1)⟩]) y.2.2)
      (fun g => if effRnd rnd g.mode = .sr ∧ g.mode.getLsbD 5 then { g with mode := advanceDph g.mode } else g))) ∧
  (∀ h d a w desc ty rnd, Issues (.bfscl h d a w desc ty rnd) s x →
    let n := min ((x.sreg desc).toNat / 2 ^ 16 % 2 ^ 9) 256
    let e := (x.sreg desc).toNat % 256
    let xs := x.valueImage ty a.val n
    let y := packAt (w.toNat + 1) e (effRnd rnd x.grp.mode) (modeDph x.grp.mode) xs
    exec (.bfscl h d a w desc ty rnd) s = .next (x.modG (x.fixed 5 (x.packedWrites d.val (w.toNat + 1) (packCodes (w.toNat + 1) y.1)) y.2)
      (fun g => if effRnd rnd g.mode = .sr ∧ g.mode.getLsbD 5 then { g with mode := advanceDph g.mode } else g)) ∧
    (e = 0xFF → y = (xs.map (fun _ => 0), flagIf (xs.any Option.isSome) fNV)) ∧
    (e ≠ 0xFF → ∀ (i : Nat) v, xs[i]? = some (some v) → ¬ v.isNan → ¬ v.isInf →
      y.1[i]? = some (codeRule (w.toNat + 1) e (effRnd rnd x.grp.mode) (modeDph x.grp.mode) i v))) ∧
  (∀ h d a w desc ty rnd, Issues (.bfup h d a w desc ty rnd) s x →
    let n := min ((x.sreg desc).toNat / 2 ^ 16 % 2 ^ 9) 256
    let e := (x.sreg desc).toNat % 256
    let f := if ty = .f32 then FFmt.f32 else .bf16
    let elem (i : Nat) : Nat × BitVec 6 :=
      let m := (BitVec.ofNat (w.toNat + 1) (x.packedImage a.val (w.toNat + 1) / 2 ^ ((w.toNat + 1) * i))).toInt
      if n ≤ i ∨ (List.range (w.toNat + 1)).any (fun k => !x.grp.launched.getLsbD (((w.toNat + 1) * i + k) / 32 % x.W)) then (0, 0)
      else if e = 0xFF then (f.nan, 0)
      else if m = 0 then (0, 0)
      else
        let k : Int := (e : Int) - 127 - w.toNat
        roundTo f (x.rounding rnd i) (decide (m < 0)) (if 0 ≤ k then m.natAbs * 2 ^ k.toNat else m.natAbs) (if 0 ≤ k then 1 else 2 ^ (-k).toNat)
    CompletesW (.bfup h d a w desc ty rnd) s x 5
      ((List.range 256).filterMap (fun i =>
        let p := valuePlace ty x.W i
        if x.lanes.getLsbD p.2.1 then some ⟨.v (d.val + p.1) p.2.1, BitVec.ofNat 64 (elem i).1⟩ else none))
      (orAll ((List.range 256).map (fun i => (elem i).2))))

/-! ### Class 2: across lanes, and predicates -/

/-- R83, R131, R132, R134: prm and rdlane move the values of the lanes they name; a never-launched lane reads zero and sets GSTAT.PZ, or under MODE.PRT the
word traps PRMZ with the lowest such lane. -/
def Obligations.LaneMoves : Prop := ∀ s x,
  (∀ h d a b mode w64, Issues (.prm h d a b mode w64) s x →
    let k (l : Nat) := x.amt b l
    let src (l : Nat) : Nat :=
      match mode with
      | .idx => k l % x.W
      | .xor => Nat.xor l (k l % x.W)
      | .up => if k l ≤ l then l - k l else l
      | .down => if l + k l < x.W then l + k l else l
      | .rot => (l + k l) % x.W
    let w := if w64 then 64 else 32
    ((∀ l ∈ x.lanesList, x.grp.launched.getLsbD (src l) = true) →
      Completes (.prm h d a b mode w64) s x 6 w false (.v d) 0 (fun l => x.opnd w (.v a) (src l))) ∧
    (∀ l ∈ x.lanesList, x.grp.launched.getLsbD (src l) = false → x.grp.mode.getLsbD 8 = false →
      exec (.prm h d a b mode w64) s = .next ({ x with s := x.modG x.s (fun g => { g with pz := true }) }.fixed 6
        (x.lanesList.flatMap (fun l => putInt w false (.v d) l (if x.grp.launched.getLsbD (src l) then x.opnd w (.v a) (src l) else 0))) 0)) ∧
    (∀ l ∈ x.lanesList, x.grp.launched.getLsbD (src l) = false → x.grp.mode.getLsbD 8 = true →
      ∃ j ∈ x.lanesList, x.grp.launched.getLsbD (src j) = false ∧
        (∀ i ∈ x.lanesList, x.grp.launched.getLsbD (src i) = false → src j ≤ src i) ∧
        exec (.prm h d a b mode w64) s = .next (s.takeTrap s.cur { code := cPRMZ, tval := BitVec.ofNat 64 (src j) }))) ∧
  (∀ h d a b w64, Issues (.rdlane h d a b w64) s x →
    let k := (x.sreg b).toNat % x.W
    let w := if w64 then 64 else 32
    (x.grp.launched.getLsbD k = true →
      CompletesW (.rdlane h d a b w64) s x 6 [⟨.s d.val, BitVec.ofNat 64 (x.opnd w (.v a) k)⟩] 0) ∧
    (x.grp.launched.getLsbD k = false → x.grp.mode.getLsbD 8 = false →
      exec (.rdlane h d a b w64) s = .next ({ x with s := x.modG x.s (fun g => { g with pz := true }) }.fixed 6
        [⟨.s d.val, 0⟩] 0)) ∧
    (x.grp.launched.getLsbD k = false → x.grp.mode.getLsbD 8 = true →
      exec (.rdlane h d a b w64) s = .next (s.takeTrap s.cur { code := cPRMZ, tval := BitVec.ofNat 64 k })))

/-- R135-R137: lred and lscan: each operation's combination of two values and its identity; lred combines the participants' values in the
rounds of R136's tree, and an integer reduction is their combination in any grouping; lscan combines each participant's value with the
result before it. The SR position of a combination whose left value was passed on, and the flags of an exclusive scan's last combination,
are the model's choice (log entry 71). -/
def Obligations.LaneReductions : Prop := ∀ s x,
  (∀ h d a op rnd, Issues (.lred h d a op rnd) s x →
    (∃ val : Nat → Nat → Option Nat, ∃ fl : Nat → Nat → BitVec 6,
      (∀ j, val 0 j = if j < x.W ∧ x.lanes.getLsbD j = true then some (x.opnd (redWidth op) (.v a) j) else none) ∧
      (∀ r j, x.W ≤ j → val r j = none) ∧
      (∀ r j, j < x.W → j % 2 ^ (r + 1) = 0 → (val (r + 1) j, fl r j) =
        match val r j, val r (j + 2 ^ r) with
        | some u, some v => let y := redCombine op (x.rounding rnd j) u v; (some y.1, y.2)
        | some u, none => (some u, 0)
        | none, v => (v, 0)) ∧
      CompletesW (.lred h d a op rnd) s x 6 [⟨.s d.val, redToS op ((val (Nat.log2 x.W) 0).getD 0)⟩]
        (orAll ((List.range (Nat.log2 x.W)).flatMap (fun r => ((List.range x.W).filter (fun j => j % 2 ^ (r + 1) == 0)).map (fl r))))) ∧
    (x.lanesList ≠ [] → op ≠ .fadd → op ≠ .fmin → op ≠ .fmax →
      CompletesW (.lred h d a op rnd) s x 6
        [⟨.s d.val, redToS op ((x.lanesList.map (fun l => x.opnd (redWidth op) (.v a) l)).foldl
          (fun u v => (redCombine op ⟨.rne, 0, false, .byCode⟩ u v).1) (redIdentity op))⟩] 0)) ∧
  (∀ h d a excl op rnd, Issues (.lscan h d a excl op rnd) s x →
    let lane (j : Nat) := x.lanesList.getD j 0
    let v (j : Nat) := x.opnd (redWidth op) (.v a) (lane j)
    ∃ inc : Nat → Nat, ∃ fl : Nat → BitVec 6, inc 0 = v 0 ∧ fl 0 = 0 ∧
      (∀ j, (inc (j + 1), fl (j + 1)) = redCombine op (x.rounding rnd (lane j)) (inc j) (v (j + 1))) ∧
      CompletesW (.lscan h d a excl op rnd) s x 6
        ((List.range x.lanesList.length).flatMap (fun j => putInt (redWidth op) false (.v d) (lane j)
          (if excl then (if j = 0 then redIdentity op else inc (j - 1)) else inc j)))
        (orAll ((List.range x.lanesList.length).map fl))) ∧
  (∀ (r : Rounding) u v, u < 2 ^ 32 → v < 2 ^ 32 →
    let i (y : Nat) : Int := (BitVec.ofNat 32 y).toInt
    let fp (f : FFmt → Rounding → FVal → FVal → Nat × BitVec 6) : Nat × BitVec 6 := f .f32 r (unpack .f32 r.ftz u) (unpack .f32 r.ftz v)
    redCombine .addI32 r u v = ((u + v) % 2 ^ 32, 0) ∧ redCombine .addZ32 r u v = ((u + v) % 2 ^ 32, 0) ∧
    redCombine .addZ16 r u v = ((u + v) % 2 ^ 16, 0) ∧
    i (redCombine .minI32 r u v).1 = min (i u) (i v) ∧ i (redCombine .maxI32 r u v).1 = max (i u) (i v) ∧
    (redCombine .minI32 r u v).2 = 0 ∧ (redCombine .maxI32 r u v).2 = 0 ∧
    redCombine .minN32 r u v = (min u v, 0) ∧ redCombine .maxN32 r u v = (max u v, 0) ∧
    redCombine .and r u v = (u &&& v, 0) ∧ redCombine .or r u v = (u ||| v, 0) ∧ redCombine .xor r u v = (u ^^^ v, 0) ∧
    redCombine .fadd r u v = fp addRule ∧ redCombine .fmin r u v = fp minRule ∧ redCombine .fmax r u v = fp maxRule) ∧
  (∀ (r : Rounding) u v, redCombine .addI64 r u v = ((u + v) % 2 ^ 64, 0)) ∧
  ([RedOp.addI32, .addZ32, .addZ16, .addI64, .minI32, .maxI32, .minN32, .maxN32, .and, .or, .xor, .fadd, .fmin, .fmax].map redIdentity =
    [0, 0, 0, 0, 2 ^ 31 - 1, 2 ^ 31, 2 ^ 32 - 1, 0, 2 ^ 32 - 1, 0, 0, 0, 0x7F800000, 0xFF800000]) ∧
  (∀ op v, redToS op v = if op = .addI32 ∨ op = .minI32 ∨ op = .maxI32 then (BitVec.ofNat 32 v).signExtend 64 else BitVec.ofNat 64 v)

/-- R133, R138: vote, plop, p2r and r2p. -/
def Obligations.VotesAndPredicates : Prop := ∀ s x,
  (∀ h q p, Issues (.vote h (.any q) p) s x →
    CompletesP (.vote h (.any q) p) s x 6 q 0 (fun _ => x.lanesList.any (fun l => x.preg p l))) ∧
  (∀ h q p, Issues (.vote h (.all q) p) s x →
    CompletesP (.vote h (.all q) p) s x 6 q 0 (fun _ => x.lanesList.all (fun l => x.preg p l))) ∧
  (∀ h q p, Issues (.vote h (.uni q) p) s x →
    CompletesP (.vote h (.uni q) p) s x 6 q 0 (fun _ =>
      x.lanesList.all (fun l => x.preg p l) || x.lanesList.all (fun l => !x.preg p l))) ∧
  (∀ h n p, Issues (.vote h (.ballot n) p) s x → ∃ m : Word,
    CompletesW (.vote h (.ballot n) p) s x 6 [⟨.s n.val, m⟩] 0 ∧
      ∀ l, l < 64 → m.getLsbD l = (decide (l ∈ x.lanesList) && x.preg p l)) ∧
  (∀ h d a b tt, Issues (.plop h d a b tt) s x →
    CompletesP (.plop h d a b tt) s x 4 d 0 (fun l => tt.getLsbD (2 * (x.preg a l).toNat + (x.preg b l).toNat))) ∧
  (∀ h n, Issues (.p2r h (.v n)) s x → ∃ y : Nat → BitVec 32,
    Completes (.p2r h (.v n)) s x 4 32 false (.v n) 0 (fun l => (y l).toNat) ∧
      ∀ l j, (y l).getLsbD j = (decide (j < 8) && x.preg (BitVec.ofNat 3 j) l)) ∧
  (∀ h n p, Issues (.p2r h (.s n p)) s x → ∃ m : Word,
    CompletesW (.p2r h (.s n p)) s x 4 [⟨.s n.val, m⟩] 0 ∧
      ∀ l, l < 64 → m.getLsbD l = (decide (l < x.W) && x.grp.launched.getLsbD l && x.preg p l)) ∧
  (∀ h a mask, Issues (.r2p h a mask) s x → ∃ ws : List RegWrite,
    CompletesW (.r2p h a mask) s x 4 ws 0 ∧
      (∀ k, (∃ w ∈ ws, w.key = k) ↔ ∃ j l, k = .p j l ∧ 1 ≤ j ∧ j < 8 ∧ mask.getLsbD j = true ∧ l ∈ x.lanesList) ∧
      ∀ j l, 1 ≤ j → j < 8 → mask.getLsbD j = true → l ∈ x.lanesList →
        (ws.find? (fun w => w.key == .p j l)).map RegWrite.val = some (if (x.amt a l).testBit j then 1 else 0))

/-! ### Paired words -/

/-- R25-R29: every paired word, by the operation of its slot A. -/
def Obligations.PairedWords : Prop := ∀ s x st a b,
  (Issues (.pairedNop st a b) s x → CompletesPair (.pairedNop st a b) s x ⟨.nop, a⟩ b) ∧
  (Issues (.pairedMov st a b) s x → CompletesPair (.pairedMov st a b) s x ⟨.mov, a⟩ b) ∧
  (Issues (.pairedMovi st a b) s x → CompletesPair (.pairedMovi st a b) s x ⟨.movi, a⟩ b) ∧
  (Issues (.pairedIadd st a b) s x → CompletesPair (.pairedIadd st a b) s x ⟨.iadd, a⟩ b) ∧
  (Issues (.pairedIsub st a b) s x → CompletesPair (.pairedIsub st a b) s x ⟨.isub, a⟩ b) ∧
  (Issues (.pairedAnd st a b) s x → CompletesPair (.pairedAnd st a b) s x ⟨.and, a⟩ b) ∧
  (Issues (.pairedOr st a b) s x → CompletesPair (.pairedOr st a b) s x ⟨.or, a⟩ b) ∧
  (Issues (.pairedXor st a b) s x → CompletesPair (.pairedXor st a b) s x ⟨.xor, a⟩ b) ∧
  (Issues (.pairedShl st a b) s x → CompletesPair (.pairedShl st a b) s x ⟨.shl, a⟩ b) ∧
  (Issues (.pairedShr st a b) s x → CompletesPair (.pairedShr st a b) s x ⟨.shr, a⟩ b) ∧
  (Issues (.pairedSar st a b) s x → CompletesPair (.pairedSar st a b) s x ⟨.sar, a⟩ b) ∧
  (Issues (.pairedImin st a b) s x → CompletesPair (.pairedImin st a b) s x ⟨.imin, a⟩ b) ∧
  (Issues (.pairedImax st a b) s x → CompletesPair (.pairedImax st a b) s x ⟨.imax, a⟩ b) ∧
  (Issues (.pairedIneg st a b) s x → CompletesPair (.pairedIneg st a b) s x ⟨.ineg, a⟩ b) ∧
  (Issues (.pairedNot st a b) s x → CompletesPair (.pairedNot st a b) s x ⟨.not, a⟩ b) ∧
  (Issues (.pairedFadd st a b) s x → CompletesPair (.pairedFadd st a b) s x ⟨.fadd, a⟩ b) ∧
  (Issues (.pairedFsub st a b) s x → CompletesPair (.pairedFsub st a b) s x ⟨.fsub, a⟩ b) ∧
  (Issues (.pairedFmul st a b) s x → CompletesPair (.pairedFmul st a b) s x ⟨.fmul, a⟩ b) ∧
  (Issues (.pairedFmin st a b) s x → CompletesPair (.pairedFmin st a b) s x ⟨.fmin, a⟩ b) ∧
  (Issues (.pairedFmax st a b) s x → CompletesPair (.pairedFmax st a b) s x ⟨.fmax, a⟩ b) ∧
  (Issues (.pairedFneg st a b) s x → CompletesPair (.pairedFneg st a b) s x ⟨.fneg, a⟩ b) ∧
  (Issues (.pairedFabs st a b) s x → CompletesPair (.pairedFabs st a b) s x ⟨.fabs, a⟩ b) ∧
  (Issues (.pairedIaddZ16 st a b) s x → CompletesPair (.pairedIaddZ16 st a b) s x ⟨.iaddZ16, a⟩ b) ∧
  (Issues (.pairedIsubZ16 st a b) s x → CompletesPair (.pairedIsubZ16 st a b) s x ⟨.isubZ16, a⟩ b) ∧
  (Issues (.pairedIaddZ32 st a b) s x → CompletesPair (.pairedIaddZ32 st a b) s x ⟨.iaddZ32, a⟩ b) ∧
  (Issues (.pairedIsubZ32 st a b) s x → CompletesPair (.pairedIsubZ32 st a b) s x ⟨.isubZ32, a⟩ b)

/-! ### Control -/

/-- R22, R145, R147-R149: bra and jmp to one target: a stream jumps, a whole fragment goes to the target, and otherwise the fragment
divides, or waits where its parts have no room (R145); a misaligned target of jmp traps ALIGN. -/
def Obligations.BranchesToOneTarget : Prop := ∀ s x,
  (∀ h off rc, Issues (.bra h off rc) s x →
    let rt := if rc = 0 then none else some (x.rel rc)
    (∀ n, x.who = .stream n → exec (.bra h off rc) s = .next (x.s.modStream n (fun y => { y with pc := x.rel off }))) ∧
    ((∀ n, x.who ≠ .stream n) → x.frag.mask &&& ~~~x.lanes = 0 →
      exec (.bra h off rc) s = .next (x.modF x.s (fun f => { f with pc := x.rel off }))) ∧
    ((∀ n, x.who ≠ .stream n) → x.frag.mask &&& ~~~x.lanes ≠ 0 →
      (x.grp.fits 1 → ∃ t, exec (.bra h off rc) s = .next t ∧ x.Within s t ∧ x.Diverges t x.grp (x.rel off) rt) ∧
      (¬ x.grp.fits 1 → exec (.bra h off rc) s = .next s.retry))) ∧
  (∀ h n, Issues (.jmp h (.s n)) s x →
    ((x.sreg n).toNat % 8 ≠ 0 → exec (.jmp h (.s n)) s = .next (s.takeTrap s.cur { code := cALIGN, tval := x.sreg n })) ∧
    ((x.sreg n).toNat % 8 = 0 →
      (∀ k, x.who = .stream k → exec (.jmp h (.s n)) s = .next (x.s.modStream k (fun y => { y with pc := x.sreg n }))) ∧
      ((∀ k, x.who ≠ .stream k) → x.frag.mask &&& ~~~x.lanes = 0 →
        exec (.jmp h (.s n)) s = .next (x.modF x.s (fun f => { f with pc := x.sreg n }))) ∧
      ((∀ k, x.who ≠ .stream k) → x.frag.mask &&& ~~~x.lanes ≠ 0 →
        (x.grp.fits 1 → ∃ t, exec (.jmp h (.s n)) s = .next t ∧ x.Within s t ∧ x.Diverges t x.grp (x.sreg n) none) ∧
        (¬ x.grp.fits 1 → exec (.jmp h (.s n)) s = .next s.retry))))

/-- R145, R149: jmp with a v register: each taken lane goes to its own target, or the fragment waits where its parts have no room; a
misaligned target traps ALIGN before any lane moves. -/
def Obligations.JumpsByLane : Prop := ∀ s x h n, Issues (.jmp h (.v n)) s x →
  let target (l : Nat) : Word := BitVec.ofNat 64 (x.opnd 64 (.v n) l)
  (∀ l ∈ x.lanesList, (target l).toNat % 8 ≠ 0 → ∃ j ∈ x.lanesList, (target j).toNat % 8 ≠ 0 ∧
    exec (.jmp h (.v n)) s = .next (s.takeTrap s.cur { code := cALIGN, tval := target j })) ∧
  (∀ ts : List Word, (∀ l ∈ x.lanesList, (target l).toNat % 8 = 0 ∧ target l ∈ ts) → x.grp.fits ts.length →
    ∃ t g, exec (.jmp h (.v n)) s = .next t ∧ x.Within s t ∧ x.groupAfter t = some g ∧
      (∀ l ∈ x.lanesList, g.laneAt l (target l)) ∧
      (x.frag.mask &&& ~~~x.lanes ≠ 0 → ∃ f ∈ g.frags, f.ent = x.frag.ent ∧ f.mask = x.frag.mask &&& ~~~x.lanes ∧ f.pc = x.pc + 8) ∧
      g.joins = x.grp.joins ∧ g.withSplit x.grp = x.grp) ∧
  (∀ ts : List Word, ts.Nodup → (∀ w, w ∈ ts ↔ ∃ l ∈ x.lanesList, target l = w) → (∀ w ∈ ts, w.toNat % 8 = 0) →
    ¬ x.grp.fits (ts.length - if x.frag.mask &&& ~~~x.lanes = 0 then 1 else 0) → exec (.jmp h (.v n)) s = .next s.retry)

/-- R145, R150, R151: call pushes the address of the next word for each taken lane and branches, or traps MEMF where a lane's stack is full;
ret takes the taken lanes back to what they pushed, and those at depth 0 exit, also where lanes of both kinds take part; a misaligned
address on a stack traps ALIGN before any lane moves; a word whose parts have no room waits. -/
def Obligations.CallsAndReturns : Prop := ∀ s x,
  (∀ h off rc, Issues (.call h off rc) s x →
    let L := x.la.r.lmemBytes
    let rt := if rc = 0 then none else some (x.rel rc)
    let pushed (g : Group) := x.lanesList.foldl (Group.push L (x.pc + 8)) g
    (∀ l ∈ x.lanesList, L / 8 ≤ x.grp.depthOf l → ∃ j ∈ x.lanesList, L / 8 ≤ x.grp.depthOf j ∧
      exec (.call h off rc) s = .next (s.takeTrap s.cur { code := cMEMF, sub := 1, tval := BitVec.ofNat 64 j })) ∧
    ((∀ l ∈ x.lanesList, x.grp.depthOf l < L / 8) → (∀ n, x.who ≠ .stream n) →
      (x.frag.mask &&& ~~~x.lanes = 0 →
        exec (.call h off rc) s = .next (x.modF (x.modG x.s pushed) (fun f => { f with pc := x.rel off }))) ∧
      (x.frag.mask &&& ~~~x.lanes ≠ 0 →
        (x.grp.fits 1 → ∃ t, exec (.call h off rc) s = .next t ∧ x.Within s t ∧ x.Diverges t (pushed x.grp) (x.rel off) rt) ∧
        (¬ x.grp.fits 1 → exec (.call h off rc) s = .next s.retry)))) ∧
  (∀ h, Issues (.ret h) s x →
    let L := x.la.r.lmemBytes
    let back (l : Nat) : Word := BitVec.ofNat 64 (leNat (x.grp.lmemBytes l (L - 8 * x.grp.depthOf l) 8))
    ∀ ts : List Word, (∀ l ∈ x.lanesList, x.grp.depthOf l ≠ 0 ∧ (back l).toNat % 8 = 0 ∧ back l ∈ ts) → x.grp.fits ts.length →
      ∃ t g, exec (.ret h) s = .next t ∧ x.Within s t ∧ x.groupAfter t = some g ∧ (∀ l ∈ x.lanesList, g.laneAt l (back l)) ∧
        g.exited = x.grp.exited ∧ g.lmem = x.grp.lmem ∧
        (Cells.wf 0 x.grp.depth = true → ∀ l ∈ x.lanesList, g.depthOf l = x.grp.depthOf l - 1)) ∧
  (∀ h, Issues (.ret h) s x → (∀ l ∈ x.lanesList, x.grp.depthOf l = 0) → x.grp.pendsLanes x.lanes = false →
    x.lanes &&& ~~~lanesBelow x.W = 0 →
      ∃ t g, exec (.ret h) s = .next t ∧ x.Within s t ∧ x.groupAfter t = some g ∧ g.exited = x.grp.exited ||| (x.lanes &&& x.grp.launched) ∧
        ∀ f ∈ g.frags, f.mask &&& x.lanes = 0) ∧
  (∀ h, Issues (.ret h) s x →
    let L := x.la.r.lmemBytes
    let back (l : Nat) : Word := BitVec.ofNat 64 (leNat (x.grp.lmemBytes l (L - 8 * x.grp.depthOf l) 8))
    let returns (l : Nat) : Prop := l ∈ x.lanesList ∧ x.grp.depthOf l ≠ 0
    let gone : Lanes := laneSet x.W (fun l => x.lanes.getLsbD l && x.grp.depthOf l == 0)
    (x.grp.pendsLanes gone = true → exec (.ret h) s = .next s.retry) ∧
    (x.grp.pendsLanes gone = false →
      (∀ l, returns l → (back l).toNat % 8 ≠ 0 → ∃ j, returns j ∧ (back j).toNat % 8 ≠ 0 ∧ Traps (.ret h) s { code := cALIGN, tval := back j }) ∧
      ((∀ l, returns l → (back l).toNat % 8 = 0) →
        (∀ ts : List Word, ts.Nodup → (∀ w, w ∈ ts ↔ ∃ l, returns l ∧ back l = w) →
          ¬ x.grp.fits (ts.length - if x.frag.mask &&& ~~~x.lanes = 0 then 1 else 0) → exec (.ret h) s = .next s.retry) ∧
        (∀ ts : List Word, (∀ l, returns l → back l ∈ ts) → x.grp.fits ts.length → x.grp.splitOk = true →
          ∃ t g, exec (.ret h) s = .next t ∧ x.Within s t ∧ x.groupAfter t = some g ∧ (∀ l, returns l → g.laneAt l (back l)) ∧
            g.exited = x.grp.exited ||| (gone &&& x.grp.launched) ∧ (∀ f ∈ g.frags, f.mask &&& gone = 0) ∧
            (∀ k ∈ g.held, k.mask &&& gone = 0) ∧ g.lmem = x.grp.lmem))))

/-- R144, R152, R153, R323: exit ends its lanes, or a stream, whose registers stay as they are (the model's choice: log entry 37); regang makes
its record or joins the one that stands at its word and, once every expected lane is there, the fragments that have come go on as one. -/
def Obligations.ExitAndRegang : Prop := ∀ s x,
  (∀ h, Issues (.exit h) s x →
    (∀ n, x.who = .stream n → exec (.exit h) s = .next (x.s.modStream n (fun y => { y with st := .idle, pc := x.pc }))) ∧
    ((∀ n, x.who ≠ .stream n) → x.grp.pendsLanes x.lanes = true → exec (.exit h) s = .next s.retry) ∧
    ((∀ n, x.who ≠ .stream n) → x.grp.pendsLanes x.lanes = false →
      ∃ t g, exec (.exit h) s = .next t ∧ x.Within s t ∧ x.groupAfter t = some g ∧
        g.exited = x.grp.exited ||| (x.lanes &&& x.grp.launched) ∧ (∀ f ∈ g.frags, f.mask &&& x.lanes = 0) ∧
        (∀ k ∈ g.held, k.mask &&& x.lanes = 0) ∧ (∀ j ∈ g.joins, j.expect &&& x.lanes = 0) ∧
        g.v = x.grp.v ∧ g.s = x.grp.s ∧ g.p = x.grp.p ∧ g.lmem = x.grp.lmem)) ∧
  (∀ h mask, Issues (.regang h mask) s x → (∀ n, x.who ≠ .stream n) →
    (x.grp.joins.any (fun j => j.regang && j.rc == x.pc)) = false →
    let live := x.grp.launched &&& ~~~x.grp.exited
    let want : Lanes := match mask with | some a => x.sreg a &&& live | none => live
    ∃ t g, exec (.regang h mask) s = .next t ∧ x.Within s t ∧ x.groupAfter t = some g ∧
      ((want ||| x.frag.mask) &&& ~~~x.frag.mask ≠ 0 → (∀ j ∈ x.grp.joins, j.id ≠ x.grp.freeJoin) →
        g.joins = x.grp.joins ++ [⟨x.grp.freeJoin, true, x.pc, want ||| x.frag.mask, x.frag.mask, none⟩] ∧
        ∃ f ∈ g.frags, f.ent = x.frag.ent ∧ f.mask = x.frag.mask ∧ f.pc = x.pc ∧ f.st = .atRegang) ∧
      (want &&& ~~~x.frag.mask = 0 → x.frag.mask ≠ 0 →
        (∀ j ∈ x.grp.joins, j.id ≠ x.grp.freeJoin) →
        (∀ f ∈ x.grp.frags, f = x.frag ∨ (f.ent ≠ x.frag.ent ∧ f.st ≠ .atRegang)) →
        ∃ f ∈ g.frags, f.ent = x.frag.ent ∧ f.mask = x.frag.mask ∧ f.pc = x.pc + 8 ∧ f.st = .ready)) ∧
  (∀ h mask j, Issues (.regang h mask) s x → (∀ n, x.who ≠ .stream n) → x.grp.joins.find? (fun j => j.regang && j.rc == x.pc) = some j →
    (x.grp.joins.map Join.id).Nodup → (x.grp.frags.map Frag.ent).Nodup → x.frag.mask ≠ 0 →
    let expect := j.expect ||| x.frag.mask
    let arrived := j.arrived ||| x.frag.mask
    ∃ t g, exec (.regang h mask) s = .next t ∧ x.Within s t ∧ x.groupAfter t = some g ∧
      (expect &&& ~~~arrived ≠ 0 →
        g.joins = x.grp.joins.map (fun k => if k.id = j.id then { k with expect := k.expect ||| x.frag.mask, arrived := k.arrived ||| x.frag.mask } else k) ∧
        ∃ f ∈ g.frags, f.ent = x.frag.ent ∧ f.mask = x.frag.mask ∧ f.pc = x.pc ∧ f.st = .atRegang) ∧
      (expect &&& ~~~arrived = 0 → (∀ k ∈ g.joins, k.id ≠ j.id) ∧
        ∃ f ∈ g.frags, f.pc = x.pc + 8 ∧ f.st = .ready ∧ ∀ l, f.mask.getLsbD l = true ↔ x.frag.mask.getLsbD l = true ∨
          ∃ y ∈ x.grp.frags, y.ent ≠ x.frag.ent ∧ y.st = .atRegang ∧ y.pc = x.pc ∧ y.mask.getLsbD l = true))

/-! ### Bracket registers and inv -/

/-- R155-R157: bkset orders the ends and clears each lane's y, count and status; bkget reads a field.
R40, R158-R162: inv decodes and checks its body as it issues, takes the lanes whose condition is true but MONO ones and, where it issues again
after a trap or a restore, those that have finished; it passes over the body when no lane takes part, and otherwise makes one pass; an inv in
progress makes the next pass with the words and lanes it has. That a fetch that faults is met only where no earlier body word is ILL, and
before INVBODY, is the model's choice (log entry 79). -/
def Obligations.BracketRegistersAndInvert : Prop :=
  (∀ s x,
    (∀ h br a b maxit tol isInt, Issues (.bkset h br a b maxit tol isInt) s x →
      let first (l : Nat) : Bool :=
        let u := BitVec.ofNat 32 (x.opnd 32 a l)
        let v := BitVec.ofNat 32 (x.opnd 32 b l)
        if isInt then decide (u.toInt ≤ v.toInt)
        else (unpack .f32 false u.toNat).isNan || (unpack .f32 false v.toNat).isNan ||
          (unpack .f32 false u.toNat).lt (unpack .f32 false v.toNat) || u = v ||
          ((unpack .f32 false u.toNat).isZero && (unpack .f32 false v.toNat).isZero && u.getLsbD 31)
      exec (.bkset h br a b maxit tol isInt) s = .next (x.modG x.s (fun g => x.lanesList.foldl (fun g l =>
        g.setBracket br.toNat l ⟨BitVec.ofNat 32 (x.opnd 32 (if first l then a else b) l),
          BitVec.ofNat 32 (x.opnd 32 (if first l then b else a) l), 0, 0, 0, 0⟩)
        { g with bcfg := Cells.set (0, 0) g.bcfg br.toNat (maxit, tol) }))) ∧
    (∀ h d br fld, Issues (.bkget h d br fld) s x →
      (∀ f ∈ x.grp.frags, f.ent ≠ x.frag.ent → f.invIn.map InvRun.br ≠ some br.toNat) →
      let w := if d.isS then 64 else 32
      let b (l : Nat) := x.grp.bracket br.toNat l
      let cfg := Cells.get (0, 0) x.grp.bcfg br.toNat
      Completes (.bkget h d br fld) s x 4 w false d 0 (fun l =>
        (([(b l).lo.toNat, (b l).hi.toNat, (b l).ylo.toNat, (b l).yhi.toNat, (b l).iter.toNat, (b l).status.toNat, cfg.1.toNat,
          cfg.2.toNat] : List Nat).getD fld.toNat 0 : Nat)))) ∧
  (∀ s x h d a b len br meth dec isInt, Issues (.inv h d a b len br meth dec isInt) s x →
    let i : Instr := .inv h d a b len br meth dec isInt
    let past : Word := x.pc + BitVec.ofNat 64 (8 * (len.toNat + 1))
    let goes (t : State) (run : InvRun) : Prop :=
      (run.lanes = 0 → exec i s = .next (x.modF t (fun f => { f with pc := past }))) ∧
      (run.lanes ≠ 0 → (∀ f ∈ x.grp.frags, f.ent ≠ x.frag.ent → f.invIn.map InvRun.br ≠ some br.toNat) →
        x.grp.interlocked (run.body.flatMap (fun p => guardRefs p.2 ++ (p.2.shape x.W).reads ++ (p.2.shape x.W).writes)) = false →
        exec i s = .next ((Issue.invPass { x with s := t } ⟨d, a, b, br.toNat, meth, dec, isInt, h.stall.toNat, run.body⟩ run past).after s))
    (∀ run, x.frag.invIn = some run → run.again = false → goes x.s run) ∧
    ((∀ run, x.frag.invIn = some run → run.again = true) →
      ∀ s1 ws, State.fetchBody x.space x.W x.la.r.vregs len.toNat (x.pc + 8) x.s = (s1, .ok ws) →
      let ended : Lanes := match x.frag.invIn with | some r => if r.br = br.toNat then r.fin else 0 | none => 0
      let lanes := laneSet x.W (fun l => x.lanes.getLsbD l && (x.grp.bracket br.toNat l).status != 6 &&
        !(ended.getLsbD l && (x.grp.bracket br.toNat l).status != 0))
      (∀ p ∈ ws, p.2.2 = none → ∃ q ∈ ws, q.2.2 = none ∧ exec i s = .next (s.takeTrap s.cur { code := cILL, tval := q.2.1 })) ∧
      ((∀ p ∈ ws, p.2.2 ≠ none) → ∀ p ∈ ws, (∀ k, p.2.2 = some k → bodyOk k x.W d b = false) →
        ∃ q ∈ ws, exec i s = .next (s.takeTrap s.cur { code := cINVBODY, tval := q.2.1 })) ∧
      ((∀ p ∈ ws, ∃ k, p.2.2 = some k ∧ bodyOk k x.W d b = true) →
        goes s1 ⟨x.pc, br.toNat, lanes, x.grp.mode.getLsbD 7, (List.range x.W).map (fun l => x.opnd 32 b l), ended &&& ~~~lanes,
          ws.filterMap (fun p => p.2.2.map (fun i => (p.1, i))), false⟩)))

/-- R159: a lane that an end check or a round leaves running keeps its target strictly between the y of its two ends; one that a round
finishes otherwise has found the target, left the order, or met a NaN. -/
def Obligations.InvertKeepsTheTargetBracketed : Prop := ∀ (w : InvWord) (k : Bracket) (t l p : Nat),
  (∀ yl yh, let e := w.endLane k t l yl yh
    e.fin = none → e.bk.status = 1 ∧ e.bk.lo = k.lo ∧ e.bk.hi = k.hi ∧ e.bk.iter = 0 ∧
      w.below e.bk.ylo.toNat t = true ∧ w.below t e.bk.yhi.toNat = true) ∧
  (∀ y, w.below k.ylo.toNat t = true → w.below t k.yhi.toNat = true → let e := w.roundLane k t l p y
    e.bk.iter = k.iter + 1 ∧
    (e.fin = none → e.bk.status = k.status ∧ w.below e.bk.ylo.toNat t = true ∧ w.below t e.bk.yhi.toNat = true ∧
      ((e.bk.lo = BitVec.ofNat 32 p ∧ e.bk.hi = k.hi) ∨ (e.bk.lo = k.lo ∧ e.bk.hi = BitVec.ofNat 32 p))) ∧
    (e.fin ≠ none → e.fin = some (p, y) ∧ (e.bk.status = 7 ∧ w.nan y = true ∨ e.bk.status = 6 ∧ e.mono = true ∨
      e.bk.status = 2 ∧ w.same y t = true)))

/-! ### Memory -/

/-- R164-R170, R278-R284: ld and lda complete once the checks of R168 let their participants through; a misaligned participant traps
ALIGN first; a datum is extended to its register as R166 says. -/
def Obligations.LoadsReturnMemory : Prop :=
  (∀ s x d m sz ofs,
    let n := sz.bytes
    let once := m.idx.isNone && d.isS
    let ps := x.parts once (x.addr m ofs.toInt n)
    x.acquiring = false → x.bankPending n ps = false →
    (∀ s1 ok, x.Reaches .read true false n 0 ps s1 ok → Walked x.s s1 ∧ (∀ p ∈ ok, p.2.1.va = (x.addr m ofs.toInt n p.1).toNat) ∧
      (∀ h, Issues (.ld h d m sz ofs) s x → CompletesLoad (.ld h d m sz ofs) s x s1 d sz ok once true)) ∧
    (∀ s1 ok, x.Reaches .read true false n 6 ps s1 ok → Walked x.s s1 ∧ (∀ p ∈ ok, p.2.1.va = (x.addr m ofs.toInt n p.1).toNat) ∧
      (∀ h, Issues (.lda h d m sz ofs) s x → x.busy HomeOp.syncs = false → CompletesLoad (.lda h d m sz ofs) s x s1 d sz ok once false)) ∧
    (∀ p ∈ ps, p.2.toNat % n ≠ 0 → ∃ q ∈ ps, q.2.toNat % n ≠ 0 ∧ (∀ h, Issues (.ld h d m sz ofs) s x →
      exec (.ld h d m sz ofs) s = .next (s.takeTrap s.cur { code := cALIGN, tval := q.2 })))) ∧
  (∀ k l v,
    loadWrites .i8 (.s k) l v = [⟨.s k.val, (BitVec.ofNat 8 v).signExtend 64⟩] ∧
    loadWrites .i16 (.s k) l v = [⟨.s k.val, (BitVec.ofNat 16 v).signExtend 64⟩] ∧
    (∀ sz, sz ≠ .i8 → sz ≠ .i16 → loadWrites sz (.s k) l v = [⟨.s k.val, BitVec.ofNat 64 v⟩])) ∧
  (∀ k l v,
    loadWrites .i8 (.v k) l v = [⟨.v k.val l, ((BitVec.ofNat 8 v).signExtend 32).setWidth 64⟩] ∧
    loadWrites .i16 (.v k) l v = [⟨.v k.val l, ((BitVec.ofNat 16 v).signExtend 32).setWidth 64⟩] ∧
    (∀ sz, sz ≠ .i8 → sz ≠ .i16 → loadWrites sz (.v k) l v =
      (List.range sz.regs).map (fun j => ⟨.v (k.val + j) l, BitVec.ofNat 64 (v / 2 ^ (32 * j) % 2 ^ 32)⟩)))

/-- R166, R170, R174, R175: st, str, bred and bupd send each participant's operation to the home of its address, a store one for each
naturally aligned unit of 8 bytes; until it lands there every byte of memory reads as before. When it is due there is the model's choice of
typical times (log entry 25). -/
def Obligations.StoresSetOutForTheirHome : Prop := ∀ s x (m : Mem) (sz : Sz),
  let n := sz.bytes
  let due (s1 : State) (c : Loc) : Nat := s1.clock + s1.homeTime x.space.die c
  let sent (i : Instr) (s1 : State) (vas : List Nat) (ops : List HomeOp) : Prop :=
    Issues i s x → exec i s = .next (s1.sendHome ops) ∧ ops.map (fun q => q.loc.va) = vas ∧
      (s1.sendHome ops).homeOps.map HomeOp.fn = s1.homeOps.map HomeOp.fn ++ ops.map HomeOp.fn ∧ Walked x.s s1 ∧
      ∀ slot a, (s1.sendHome ops).byteAt slot a = s1.byteAt slot a
  (∀ d (ofs : BitVec 9), x.acquiring = false →
    let once := m.idx.isNone && d.isS
    let ps := x.parts once (x.addr m ofs.toInt n)
    ∀ s1 ok, x.Reaches .write false false n 1 ps s1 ok → ∀ h,
      let units := (List.range ((n + 7) / 8)).map (fun j => 8 * j)
      let piece (p : Nat × Loc × Tr) (o : Nat) : List Byte := ((leBytes n (x.datum d n p.1)).drop o).take 8
      let ops (rel : Bool) := ok.flatMap (fun p => units.map (fun o =>
        x.homeOp once p.1 { p.2.1 with va := p.2.1.va + o, pa := p.2.1.pa + o } (piece p o).length (.store (piece p o)) rel false none (due s1 p.2.1)))
      let vas := ps.flatMap (fun p => units.map (fun o => p.2.toNat + o))
      sent (.st h d m sz ofs) s1 vas (ops false) ∧ (x.engineOps = false → sent (.str h d m sz ofs) s1 vas (ops true))) ∧
  (∀ d (ofs : BitVec 6) op, x.acquiring = false →
    let once := m.idx.isNone && d.isS
    let ps := x.parts once (x.addr m ofs.toInt n)
    ∀ s1 ok, x.Reaches .write true false n 3 ps s1 ok → ∀ h,
      sent (.bred h d m sz op ofs) s1 (ps.map (fun p => p.2.toNat))
        (ok.map (fun p => x.homeOp once p.1 p.2.1 n (.red op (x.datum d n p.1)) false false none (due s1 p.2.1 + 10)))) ∧
  (∀ (d : Fin 192) (ofs : BitVec 6) op, x.acquiring = false →
    let ps := x.parts false (x.addr m ofs.toInt 4)
    ∀ s1 ok, x.Reaches .write true false 4 3 ps s1 ok → ∀ h,
      sent (.bupd h d m sz op ofs) s1 (ps.map (fun p => p.2.toNat))
        (ok.map (fun p => x.homeOp false p.1 p.2.1 4 (.bfma op (x.vreg d.val p.1) (x.vreg (d.val + 1) p.1)) false false none
          (due s1 p.2.1 + 10))))

/-- R284, R289, R407: a store that nothing holds back is registered at its home, and a fence's mark leaves; one to a page that is
replicated starts the collapse first, and one whose peer has no link left ends with MEMF. R280, R281, R441: one whose home sleeps, or that an
earlier access of its group holds back, stays where it is; that an access of another lane to the same bytes does so is the model's choice (log
entry 29). -/
def Obligations.StoresRegisterAtTheirHome : Prop := ∀ s k p, s.homeOp? k = some p → p.due ≤ s.clock →
  (∀ bs, p.fn = .store bs →
    (s.mayLand p = true → s.replicaOf p = none → (p.loc.peer ≠ 0 → s.peerOk p.loc.peer = true) → ∃ t, exec (.storeRegistration k) s = .next t ∧ LandsAt s t p ∧
      WritesHome s t p.loc bs ∧ GivesResult s t p [] ∧
      (p.loc.peer = 0 → inWindow p.loc.pa = false → s.cacheable p.loc = true → ∃ c ∈ t.l1, c.core = p.core ∧ c.asid = p.loc.asid ∧
        c.va = p.loc.va / 64 * 64 ∧ c.bytes = t.readPhys p.loc.key (p.loc.pa / 64 * 64) 64)) ∧
    (∀ r, s.mayLand p = true → s.replicaOf p = some r → exec (.storeRegistration k) s = .next (if r.collapse then s else s.collapseAt p.loc.asid p.loc.va)) ∧
    (s.mayLand p = true → p.loc.peer ≠ 0 → s.peerOk p.loc.peer = false → exec (.storeRegistration k) s = .next ((s.landed p).lost p 0x40)) ∧
    (s.mayLand p = true ↔ (p.loc.peer ≠ 0 ∨ inDram p.loc.pa = false ∨ s.asleep (homeDie p.loc.pa) = false) ∧
      ∀ q ∈ s.homeOps, q.team = p.team → q.grp = p.grp → q.id < p.id → ¬ q.Before p)) ∧
  (p.fn = .mark → s.mayLand p = true → exec (.storeRegistration k) s = .next (s.landed p)) ∧
  (s.mayLand p = false → exec (.storeRegistration k) s = .next s)

/-- R174-R176, R181, R182, R286, R290: a bank operation reads its bytes at home, writes the new value there in the same moment, and an
atomic returns the old one; a peer's bank is asked for it; the values of the integer and floating operations.
R179, R180: an enqueue that finds room stores its value at TAIL and advances it, a dequeue that finds an entry takes it from HEAD and
advances it; one that does not answers 0, or with .wait stays; outside a live queue, or where its bank has to read a poisoned line (R436), an
operation ends with MEMF. -/
def Obligations.HomeUpdatesInPlace : Prop :=
  ((∀ s k p, s.homeOp? k = some p → p.due ≤ s.clock → s.mayLand p = true → s.replicaOf p = none →
      (p.loc.peer ≠ 0 → s.peerOk p.loc.peer = true) → (p.loc.peer = 0 → s.poisonedAt p.loc.pa p.n = false) →
      let m := leNat ((if p.loc.peer = 0 then s else s.peerTouch p.loc.peer p.loc.pa p.n).homeBytes p.loc p.n)
      let at_ (t : State) (new : Nat) : Prop := exec (.homeBankOperation k) s = .next t ∧ LandsAt s t p ∧
        (p.loc.peer = 0 → WritesHome s t p.loc (leBytes p.n new)) ∧
        (p.loc.peer ≠ 0 → t.mem = s.mem ∧ t.out = s.out ++ [.peerSend (s.peerRoute p.loc.peer p.loc.pa)
          ⟨field (s.hreg .peer 0) 4 0, field (s.hreg .peer (8 * p.loc.peer)) 20 16, 0, p.loc.pa, p.n, p.fn.peer⟩])
      (∀ op y, p.fn = .red op y → ∃ t, at_ t (bredNew op p.n m y)) ∧
      (∀ op y a, p.fn = .bfma op y a → ∃ t, at_ t (bupdNew op m y a)) ∧
      (∀ op y y2 ret d, p.fn = .atom op y y2 ret d → ∃ t, at_ t (atomNew op p.n m y y2) ∧
        (ret = true → GivesResult s t p ((match p.lane with | some l => [l] | none => laneList 64 p.lanes).flatMap (fun l =>
          if p.n = 8 then vPair d l m else [⟨.v d l, zext m 32⟩]))))) ∧
    (∀ n m y : Nat, 1 ≤ n → m < 2 ^ (8 * n) → y < 2 ^ (8 * n) →
      let i (v : Nat) : Int := (BitVec.ofNat (8 * n) v).toInt
      bredNew .add n m y = (m + y) % 2 ^ (8 * n) ∧ atomNew .add n m y 0 = (m + y) % 2 ^ (8 * n) ∧
      i (bredNew .smin n m y) = min (i m) (i y) ∧ i (bredNew .smax n m y) = max (i m) (i y) ∧
      bredNew .umin n m y = min m y ∧ bredNew .umax n m y = max m y ∧
      i (atomNew .smin n m y 0) = min (i m) (i y) ∧ i (atomNew .smax n m y 0) = max (i m) (i y) ∧
      atomNew .umin n m y 0 = min m y ∧ atomNew .umax n m y 0 = max m y) ∧
    (∀ n m y y2 : Nat,
      let r : Rounding := { rm := .rne, dith := 0, ftz := false }
      let v (u : Nat) := unpack .f32 false u
      let lo (u : Nat) := unpack .bf16 false (u % 2 ^ 16)
      let hi (u : Nat) := unpack .bf16 false (u / 2 ^ 16 % 2 ^ 16)
      atomNew .exch n m y y2 = y ∧ atomNew .cas n m y y2 = (if m = y then y2 else m) ∧
      atomNew .and n m y y2 = m &&& y ∧ atomNew .or n m y y2 = m ||| y ∧ atomNew .xor n m y y2 = m ^^^ y ∧
      atomNew .fadd n m y y2 = (addRule .f32 r (v m) (v y)).1 ∧ bredNew .fadd n m y = (addRule .f32 r (v m) (v y)).1 ∧
      bredNew .bfadd n m y = (addRule .bf16 r (lo m) (lo y)).1 + 2 ^ 16 * (addRule .bf16 r (hi m) (hi y)).1 ∧
      bupdNew .f32 m y y2 = (fmaRule .f32 r (v m) (v y2) (v y)).1 ∧
      bupdNew .bf16x2 m y y2 = (fmaRule .bf16 r (lo m) (lo y2) (lo y)).1 + 2 ^ 16 * (fmaRule .bf16 r (hi m) (hi y2) (hi y)).1 ∧
      bupdNew .z32 m y y2 = (m * y2 + y) % 2 ^ 32)) ∧
  (∀ s k p, s.homeOp? k = some p → p.due ≤ s.clock → s.mayLand p = true → s.replicaOf p = none → p.loc.peer = 0 →
    let s0 := s.landed p
    let after (wait : Bool) (t : State) : State := if wait then t.served p else t
    (∀ q, s.queueAt p.loc = some q → s.poisonedAt (q.place 0).1 64 = false → ∀ y wait pred, p.fn = .enq y wait pred →
      let tail := s.queueWord q 0x10
      (s.queueCount q < q.cap → exec (.homeBankOperation k) s = .next (after wait (((s0.setQueueWord q (64 + 8 * (tail % q.cap)) y).setQueueWord q 0x10
        (tail + 1)).giveResult p (p.statusWrites pred true)))) ∧
      (q.cap ≤ s.queueCount q → exec (.homeBankOperation k) s = .next (if wait then s else s0.giveResult p (p.statusWrites pred false)))) ∧
    (∀ q, s.queueAt p.loc = some q → s.poisonedAt (q.place 0).1 64 = false →
      s.poisonedAt (q.place (64 + 8 * (s.queueWord q 8 % q.cap))).1 8 = false → ∀ d wait pred, p.fn = .deq d wait pred →
      let head := s.queueWord q 8
      let v := s.queueWord q (64 + 8 * (head % q.cap))
      (s.queueCount q ≠ 0 → exec (.homeBankOperation k) s = .next (after wait (((s0.setQueueWord q 8 (head + 1)).acquire p.core).giveResult p
        (loadWrites (if p.n = 4 then .b32 else .b64) d (p.lane.getD 0) (if p.n = 4 then v % 2 ^ 32 else v) ++ p.statusWrites pred true)))) ∧
      (s.queueCount q = 0 → exec (.homeBankOperation k) s = .next (if wait then s else s0.giveResult p
        (loadWrites (if p.n = 4 then .b32 else .b64) d (p.lane.getD 0) 0 ++ p.statusWrites pred false)))) ∧
    (s.queueAt p.loc = none → p.fn.isQueue = true →
      exec (.homeBankOperation k) s = .next (s0.lost p 1)) ∧
    (p.fn ≠ .mark → (∀ bs, p.fn ≠ .store bs) → p.fn.isQueue = false → s.poisonedAt p.loc.pa p.n = true →
      exec (.homeBankOperation k) s = .next (s0.lost p 0x50)) ∧
    (∀ q, s.queueAt p.loc = some q → p.fn.isQueue = true → s.poisonedAt (q.place 0).1 64 = true →
      exec (.homeBankOperation k) s = .next (s0.lost p 0x50)))

/-- R177-R183: atom, qenq, qdeq and qinit: an atomic or queue word sends one operation for each participant to its home; a use but .com, a
dequeue and a status predicate leave the results pending until every participant is served; a .wait word blocks its fragment; qinit
makes an empty queue, or dissolves one under the checks of a write; one that would lie in another live queue's lines traps MEMF, which the spec
leaves open (log entry 81). -/
def Obligations.AtomicsAndQueueWords : Prop := ∀ s x,
  (∀ h d m sz op ord,
    let n := sz.bytes
    let ps := x.parts false (x.addr m 0 n)
    x.acquiring = false → (ord = .acq ∨ ord = .acqrel → x.busy HomeOp.syncs = false) → (ord = .rel ∨ ord = .acqrel → x.engineOps = false) →
    ∀ s1 ok, Issues (.atom h d m sz op ord) s x → x.Reaches .write true false n 2 ps s1 ok →
    ∃ t g due ops, exec (.atom h d m sz op ord) s = .next t ∧ x.groupAfter t = some g ∧ t.homeOps = s1.homeOps ++ ops ∧ ops.length = ok.length ∧
      (∀ y ∈ ops.zip ok, y.1.loc = y.2.2.1 ∧ y.1.lane = some y.2.1 ∧ y.1.n = n ∧ y.1.acq = (ord == .acq || ord == .acqrel) ∧
        y.1.rel = (if ord = .rel ∨ ord = .acqrel then x.frag.mask else 0) ∧ y.1.pend = (if ord = .com then none else some s1.nextId) ∧
        y.1.fn = .atom op (x.datum (.v d) n y.2.1) (if op = .cas then x.datum (.v d) (2 * n) y.2.1 / 2 ^ (8 * n) else 0) (ord != .com) d.val) ∧
      g.pend = (if ord = .com then x.grp.pend else x.grp.pend ++ [⟨s1.nextId, x.frag.mask,
        pendRegs (laneSet 64 (fun l => ok.any (fun p => p.1 == l))) (.v d.val sz.regs), [], 0, ok.length, due, ord == .acq || ord == .acqrel⟩]) ∧
      { g with pend := x.grp.pend, frags := x.grp.frags, last := x.grp.last, pipeAt := x.grp.pipeAt, afWait := x.grp.afWait } = x.grp ∧ ∀ slot a, t.byteAt slot a = s1.byteAt slot a) ∧
  (∀ h (d : Opr) m sz wait p ofs (deq : Bool),
    let i : Instr := if deq then .qdeq h d m sz wait p ofs else .qenq h d m sz wait p ofs
    let once := m.idx.isNone && d.isS
    let ps := x.parts once (x.addr m ofs.toInt 64)
    x.acquiring = false → (deq = true → x.busy HomeOp.syncs = false) → (deq = false → x.engineOps = false) →
    ∀ s1 ok, Issues i s x → x.Reaches .write deq true 64 4 ps s1 ok →
    let lanes := laneSet 64 (fun l => ok.any (fun q => q.1 == l))
    let regs := (if deq then pendRegs lanes (d.ref sz.regs) else []) ++ (if p = 0 then [] else pendRegs lanes (.p p.toNat))
    ∃ t g due ops, exec i s = .next t ∧ x.groupAfter t = some g ∧ t.homeOps = s1.homeOps ++ ops ∧ ops.length = ok.length ∧
      (∀ y ∈ ops.zip ok, y.1.loc = y.2.2.1 ∧ y.1.lane = (if once then none else some y.2.1) ∧ y.1.n = sz.bytes ∧ y.1.acq = deq ∧
        y.1.rel = (if deq then 0 else x.frag.mask) ∧ y.1.pend = (if regs = [] then none else some s1.nextId) ∧
        y.1.fn = (if deq then .deq d wait p.toNat else .enq (x.datum d sz.bytes y.2.1) wait p.toNat)) ∧
      g.pend = (if regs = [] then x.grp.pend else x.grp.pend ++ [⟨s1.nextId, x.frag.mask, regs, [], 0, ok.length, due, deq⟩]) ∧
      { g with pend := x.grp.pend, frags := x.grp.frags, last := x.grp.last, pipeAt := x.grp.pipeAt, afWait := x.grp.afWait } = x.grp ∧
      (wait = true → (∀ n, x.who ≠ .stream n) → ∃ f ∈ g.frags, f.ent = x.frag.ent ∧ f.pc = x.pc ∧ f.todo = some x.lanes ∧
        f.st = .blocked (.queue deq (ps.map (fun p => (p.1, x.space.asid, p.2.toNat))))) ∧
      ∀ slot a, t.byteAt slot a = s1.byteAt slot a) ∧
  (∀ h a b, Issues (.qinit h a b) s x → x.acquiring = false → x.releaseBusy = false →
    let hd := (x.sreg a).toNat
    let k := min 12 ((x.sreg b).toNat % 32)
    (hd % 64 ≠ 0 → exec (.qinit h a b) s = .next (s.takeTrap s.cur { code := cALIGN, tval := x.sreg a })) ∧
    (hd % 64 = 0 → k = 0 →
      (∀ q, x.s.queues.find? (fun q => q.asid == x.space.asid && q.va == hd) = some q →
        ∀ s1 ok, x.Reaches .write false true 64 5 [(0, x.sreg a)] s1 ok → exec (.qinit h a b) s = .next (s1.dissolve q)) ∧
      ((∀ q ∈ x.s.queues, ¬ (q.asid = x.space.asid ∧ q.va = hd)) → exec (.qinit h a b) s = .next x.s)) ∧
    (hd % 64 = 0 → k ≠ 0 → ∀ s1 ok, x.Reaches .write false true 64 5 (queuePages hd (2 ^ k)) s1 ok →
      let q : Queue := ⟨x.la.seq, x.space.asid, hd, 2 ^ k, ok.map (fun p => (p.2.1.pa / 4096 * 4096, p.2.1.key))⟩
      let others := s1.queues.filter (fun y => !(y.asid == q.asid && y.va == hd))
      let home := (ok.map (fun p => homeDie p.2.1.pa)).headD 0
      ((∃ p ∈ ok, p.2.1.mt = 2 ∨ p.2.1.peer ≠ 0 ∨ homeDie p.2.1.pa ≠ home) ∨ (∃ y ∈ others, y.covers q.asid hd (64 + 8 * q.cap) = true) ∨
          8 ≤ (others.filter (fun y => homeDie (y.place 0).1 == home && sliceOf y.va == sliceOf hd)).length →
        exec (.qinit h a b) s = .next (s.takeTrap s.cur { code := cMEMF, sub := 1, tval := x.sreg a })) ∧
      ((∀ p ∈ ok, p.2.1.mt ≠ 2 ∧ p.2.1.peer = 0 ∧ homeDie p.2.1.pa = home) → (∀ y ∈ others, y.covers q.asid hd (64 + 8 * q.cap) = false) →
          (others.filter (fun y => homeDie (y.place 0).1 == home && sliceOf y.va == sliceOf hd)).length < 8 →
        exec (.qinit h a b) s = .next ([8, 0x10, 0x18, 0x20, 0x28, 0x30, 0x38].foldl (fun s o => s.setQueueWord q o 0)
          (({ s1 with queues := others ++ [q], l1 := s1.l1.filter (fun y => !q.covers y.asid y.va 64) } : State).setQueueWord q 0 (2 ^ 63 + k))))))

/-- R171-R173, R184: each of ldl, stl, lds, sts, pf and fence completes: lane memory and scratchpad words read and write the little-endian
bytes of their space only; pf changes only what translation sets and the copies it requests; the fences complete once what they wait for
is done. Lane memory and scratchpad words check alignment before range. -/
def Obligations.LaneMemoryScratchpadAndFences : Prop := ∀ s x,
  (∀ h d (m : Mem) (sz : Sz) (ofs : BitVec 9), Issues (.ldl h d m sz ofs) s x →
    let ps := x.parts (m.idx.isNone && d.isS) (x.addr m ofs.toInt sz.bytes)
    (∀ p ∈ ps, p.2.toNat % sz.bytes = 0 ∧ p.2.toNat < x.la.r.lmemBytes) →
    ∃ due, exec (.ldl h d m sz ofs) s = .next (x.variable x.s (pendRegs x.lanes (d.ref sz.regs))
      (ps.flatMap (fun p => loadWrites sz d p.1 (leNat (x.grp.lmemBytes p.1 p.2.toNat sz.bytes)))) 0 0 due false)) ∧
  (∀ h d (m : Mem) (sz : Sz) (ofs : BitVec 9), Issues (.stl h d m sz ofs) s x →
    let ps := x.parts (m.idx.isNone && d.isS) (x.addr m ofs.toInt sz.bytes)
    (∀ p ∈ ps, p.2.toNat % sz.bytes = 0 ∧ p.2.toNat < x.la.r.lmemBytes) →
    exec (.stl h d m sz ofs) s = .next (x.modG x.s (fun g =>
      ps.foldl (fun g p => g.setLmem p.1 p.2.toNat (leBytes sz.bytes (x.datum d sz.bytes p.1))) g)) ∧
    x.Within s (x.modG x.s (fun g => ps.foldl (fun g p => g.setLmem p.1 p.2.toNat (leBytes sz.bytes (x.datum d sz.bytes p.1))) g))) ∧
  (∀ h d (m : Mem) (sz : Sz) win (ofs : BitVec 7), Issues (.lds h d m sz win ofs) s x → x.acquiring = false →
    let ps := x.parts (m.idx.isNone && d.isS) (x.addr m ofs.toInt sz.bytes)
    (∀ p ∈ ps, p.2.toNat % sz.bytes = 0 ∧ x.inWindow win sz.bytes p.2 = true ∧ ∀ y off c, x.window win p.2 = some (y, off, c) →
      x.s.watched x.la x.sel 1 y.span y.idx off sz.bytes true false = none) →
    ∃ due, exec (.lds h d m sz win ofs) s = .next (x.variable x.s (pendRegs x.lanes (d.ref sz.regs))
      (ps.flatMap (fun p => match x.window win p.2 with
        | some (t, off, _) => loadWrites sz d p.1 (leNat (t.scratchBytes off sz.bytes))
        | none => [])) 0 0 due false)) ∧
  (∀ h d (m : Mem) (sz : Sz) win (ofs : BitVec 7), Issues (.sts h d m sz win ofs) s x → x.acquiring = false →
    x.busy (fun q => q.pend.isSome || q.fn.isMark) = false →
    let ps := x.parts (m.idx.isNone && d.isS) (x.addr m ofs.toInt sz.bytes)
    (∀ p ∈ ps, p.2.toNat % sz.bytes = 0 ∧ x.inWindow win sz.bytes p.2 = true ∧ ∀ y off c, x.window win p.2 = some (y, off, c) →
      x.s.watched x.la x.sel 1 y.span y.idx off sz.bytes false true = none) →
    let t := ps.foldl (fun s p => match x.window win p.2 with
      | some (t, off, _) => s.modTeam t.id (fun t => t.setScratch off (leBytes sz.bytes (x.datum d sz.bytes p.1)))
      | none => s) x.s
    exec (.sts h d m sz win ofs) s = .next t ∧ { t with teams := x.s.teams } = x.s) ∧
  (∀ h (m : Mem) (sz : Sz) (ofs : BitVec 9), Issues (.pf h m sz ofs) s x →
    ∃ t, exec (.pf h m sz ofs) s = .next t ∧ Walked x.s { t with out := x.s.out }) ∧
  (∀ h kind, Issues (.fence h kind) s x → x.acquiring = false →
    (kind = .full → x.releaseBusy = false) → (kind = .acq → x.busy (fun q => q.pend.isSome || q.syncs) = false) →
    (kind = .rel → x.engineOps = false) →
    ∃ t, exec (.fence h kind) s = .next t ∧
      (kind ≠ .rel → t = x.acquired x.s) ∧
      (kind = .rel → x.busy (fun _ => true) = false → t = x.s) ∧
      (kind = .rel → x.busy (fun _ => true) = true → ∃ p, p.fn = .mark ∧ p.rel = x.frag.mask ∧ p.lanes = x.agentLanes true 0 ∧
        t = x.s.sendHome [p])) ∧
  (∀ h d (m : Mem) (sz : Sz) (ofs : BitVec 9) i, i = .ldl h d m sz ofs ∨ i = .stl h d m sz ofs → Issues i s x →
    let ps := x.parts (m.idx.isNone && d.isS) (x.addr m ofs.toInt sz.bytes)
    (∀ p ∈ ps, p.2.toNat % sz.bytes ≠ 0 → ∃ q ∈ ps, q.2.toNat % sz.bytes ≠ 0 ∧ Traps i s { code := cALIGN, tval := q.2 }) ∧
    ((∀ p ∈ ps, p.2.toNat % sz.bytes = 0) → ∀ p ∈ ps, x.la.r.lmemBytes ≤ p.2.toNat →
      ∃ q ∈ ps, x.la.r.lmemBytes ≤ q.2.toNat ∧ Traps i s { code := cMEMF, sub := 1, tval := q.2 })) ∧
  (∀ h d (m : Mem) (sz : Sz) win (ofs : BitVec 7) i,
    i = .lds h d m sz win ofs ∨ i = .sts h d m sz win ofs ∧ x.busy (fun q => q.pend.isSome || q.fn.isMark) = false →
    Issues i s x → x.acquiring = false →
    let ps := x.parts (m.idx.isNone && d.isS) (x.addr m ofs.toInt sz.bytes)
    (∀ p ∈ ps, p.2.toNat % sz.bytes ≠ 0 → ∃ q ∈ ps, q.2.toNat % sz.bytes ≠ 0 ∧ Traps i s { code := cALIGN, tval := q.2 }) ∧
    ((∀ p ∈ ps, p.2.toNat % sz.bytes = 0) → ∀ p ∈ ps, x.inWindow win sz.bytes p.2 = false →
      ∃ q ∈ ps, x.inWindow win sz.bytes q.2 = false ∧ Traps i s { code := cMEMF, sub := 1, tval := q.2 }))

/-! ### Barriers and timelines -/

/-- R187-R194: the seven barrier words: what each does to the team's barrier, when it traps BAROVF, and when a wait may end.
R197-R199, R204: tlwait, tlread and yield; gang sets the group's mask or traps ROLE. The 60 cycles of an arrival's way are the model's choice of
R269's typical time (log entry 25). -/
def Obligations.BarriersTimelinesAndGang : Prop :=
  ((∀ s x (nb : BitVec 4),
      let n := nb.toNat
      let b := x.team.bar n
      let clear := x.enginesBusy = false ∧ x.groupBusy = false ∧ x.grp.acquiring x.grp.launched = false
      let counted (t : State) (drop : Bool) : State := (t.modBar x.team.id n (fun b =>
        { b with arrg := b.arrg + 1, drops := b.drops + drop.toNat, lastAt := some s.clock, told := false })).testBar x.team.id n
      let told (d : Option (Fin 64)) : State := match d with | some r => x.fixed 4 [⟨.s r.val, b.phase.setWidth 64⟩] 0 | none => x.s
      (∀ h a ring, Issues (.barInit h a nb ring) s x →
        (x.team.waiters n ≠ [] → Traps (.barInit h a nb ring) s { code := cBAROVF, tval := nb.setWidth 64 }) ∧
        (x.team.waiters n = [] → let v := (x.sreg a).toNat
          ∃ t, exec (.barInit h a nb ring) s = .next t ∧
            (b.fwd = none → t.combiners = x.s.combiners ∧ t.combMsgs = x.s.combMsgs) ∧
            (∀ k, b.fwd = some k → (∀ m ∈ t.combMsgs, m.id ≠ k) ∧
              (t.comb x.team.seq x.team.span x.team.half n false).arrived.any (fun y => y.2 == k) = false) ∧
            { t with combiners := x.s.combiners, combMsgs := x.s.combMsgs } = x.s.modBar x.team.id n (fun b =>
            { phase := 0, ring := ring, level := clampLevel b.bind x.la.topLevel, bind := b.bind, expg0 := v % 64,
              expg1 := if ring then v / 2 ^ 16 % 64 else v % 64, expt0 := v / 2 ^ 8 % 64, expt1 := if ring then v / 2 ^ 24 % 64 else v / 2 ^ 8 % 64,
              xadd := 0, arrg := 0, arrt := 0, drops := 0, lastAt := none, told := false, fwd := none, inited := true }))) ∧
      (clear → b.arrg = b.expg → ∀ h d i, i = .barArrive h d nb ∨ i = .barDrop h d nb ∨ i = .barSync h d nb → Issues i s x →
        Traps i s { code := cBAROVF, tval := nb.setWidth 64 }) ∧
      (clear → b.arrg ≠ b.expg → ∀ h d,
        (Issues (.barArrive h d nb) s x → exec (.barArrive h d nb) s = .next (counted (told d) false)) ∧
        (Issues (.barDrop h d nb) s x → exec (.barDrop h d nb) s = .next (counted (told d) true)) ∧
        (Issues (.barSync h d nb) s x → let t := counted (told d) false
          exec (.barSync h d nb) s = .next (if (x.barIn t n).passed b.phase then x.acquired t else x.blockAt t (.sync n b.phase)))) ∧
      (∀ h a, Issues (.barWait h a nb) s x → x.acquiring = false → x.busy HomeOp.syncs = false → exec (.barWait h a nb) s =
        .next (if b.passed ((x.sreg a).setWidth 32) then x.acquired x.s else x.blockAt x.s (.bar n ((x.sreg a).setWidth 32)))) ∧
      (∀ h a, Issues (.barExpect h a nb) s x → x.releaseBusy = false → let k := b.xadd + (x.sreg a).toNat % 64
        (63 < k → Traps (.barExpect h a nb) s { code := cBAROVF, tval := nb.setWidth 64 }) ∧
        (k ≤ 63 → exec (.barExpect h a nb) s = .next (x.s.modBar x.team.id n (fun b => { b with xadd := k })))) ∧
      (∀ h lvl, Issues (.barBind h nb lvl) s x →
        exec (.barBind h nb lvl) s = .next (x.s.modBar x.team.id n (fun b => { b with bind := lvl })))) ∧
    (∀ b : Bar,
      let odd := b.phase.getLsbD 0
      (b.full = true ↔ b.arrg = b.expg ∧ b.arrt = b.expt + b.xadd ∧ 0 < b.expg + b.expt + b.xadd) ∧
      b.expg = (if odd then b.expg1 else b.expg0) ∧ b.expt = (if odd then b.expt1 else b.expt0) ∧
      b.complete.phase = b.phase + 1 ∧ b.complete.fwd = none ∧ b.complete.arrg = 0 ∧ b.complete.arrt = 0 ∧ b.complete.xadd = 0 ∧ b.complete.drops = 0 ∧
      b.complete.expg0 = (if b.ring && odd then b.expg0 else b.expg0 - b.drops) ∧
      b.complete.expg1 = (if b.ring && !odd then b.expg1 else b.expg1 - b.drops) ∧
      ∀ p, b.passed p = true ↔ (1 ≤ (b.phase - p).toNat ∧ (b.phase - p).toNat < 2 ^ 31) ∨ b.expg + b.expt + b.xadd = 0) ∧
    (∀ (s : State) tid n (t : Team), s.team? tid = some t →
      ((t.bar n).full = false ∨ (t.bar n).fwd ≠ none → s.testBar tid n = s) ∧
      ((t.bar n).full = true → (t.bar n).fwd = none →
        ((t.bar n).level = .team → s.testBar tid n = s.completePhase tid n) ∧
        ((t.bar n).level ≠ .team → s.testBar tid n =
          (s.modBar tid n (fun b => { b with fwd := some s.nextId })).sendComb t.seq n (.die t.span t.half t.idx false) 60) ∧
        ∃ t', (s.completePhase tid n).team? tid = some t' ∧ t'.bar n = (t.bar n).complete ∧
          (t.res ≠ .resident → s.completePhase tid n = s.modBar tid n Bar.complete) ∧
          (t.res = .resident → ∀ gi g f p, t.groups[gi]? = some g → g.frags.filter (fun y => y.ent == f.ent) = [f] →
            s.debugHolds t gi f.ent = false → (t.bar n).complete.passed p = true → f.st = .blocked (.bar n p) ∨ f.st = .blocked (.sync n p) →
            ∃ g', t'.groups[gi]? = some g' ∧
              g'.frag? f.ent = some { f with pc := f.pc + 8, st := .ready, wake := max f.wake (s.clock + 1), todo := none })))) ∧
  (∀ s x,
    (∀ h a tl, Issues (.tlwait h a tl) s x → x.acquiring = false → x.busy HomeOp.syncs = false →
      exec (.tlwait h a tl) s = .next (if (x.sreg a).toNat ≤ (x.s.timeline x.la.r.ctx tl.toNat).toNat then x.acquired x.s
        else x.blockAt x.s (.tl tl.toNat (x.sreg a)))) ∧
    (∀ h d tl, Issues (.tlread h d tl) s x → ∃ due, exec (.tlread h d tl) s =
      .next (x.variable x.s [.s d.val] [⟨.s d.val, x.s.timeline x.la.r.ctx tl.toNat⟩] 0 0 due false)) ∧
    (∀ h cont b on, Issues (.yield h cont b on) s x → x.acquiring = false → x.busy HomeOp.syncs = false →
      let go (t : State) (st : FragSt) : State := x.modF t (fun f => { f with pc := x.rel cont, st := st })
      exec (.yield h cont b on) s = .next (match on with
        | .bar nb => if (x.team.bar nb.toNat).passed ((x.sreg b).setWidth 32) then go (x.acquired x.s) .ready
                     else go x.s (.blocked (.yieldBar nb.toNat ((x.sreg b).setWidth 32)))
        | .tl k => if (x.sreg b).toNat ≤ (x.s.timeline x.la.r.ctx k.toNat).toNat then go (x.acquired x.s) .ready
                   else go x.s (.blocked (.yieldTl k.toNat (x.sreg b))))) ∧
    (∀ h a, Issues (.gang h a) s x → (∀ m ∈ x.team.latch, m.grp ≠ x.gi) →
      let mask : BitVec 32 := (x.sreg a).setWidth 32
      let members := (List.range 32).filter (fun g => mask.getLsbD g)
      let good := 2 ≤ members.length ∧ members.length ≤ 6 ∧ mask.getLsbD x.gi = true ∧
        ∀ g ∈ members, ∃ y, x.team.groups[g]? = some y ∧ y.role = .m ∧ y.launched ≠ 0
      (good → exec (.gang h a) s = .next (x.modG x.s (fun g => { g with gang := mask }))) ∧
      (¬ good → Traps (.gang h a) s { code := cROLE, sub := 1, tval := mask.setWidth 64 })))

/-! ### Engines -/

/-- R205-R208, R210, R214: mma arrives at the latch, and the last member of a gang that agrees sends the whole operation to the engine; an
accumulator instruction joins the engine's queue with the next number of its timeline; a bad descriptor traps before that. What a member
adds to each element of its tile (R78, R79), and what a tile conversion gives (R211, R76). That a NaN among a group's products comes before an
∞ - ∞ is the model's choice, and so are the flags of a NaN block (log entry 71). -/
def Obligations.MatrixWords : Prop :=
  (∀ (m : MmaArr) acc (a b : Nat × List Nat), a.2.length = 256 → b.2.length = 256 →
    let r : Rounding := { rm := if m.rnd = .sr then .rne else m.rnd, dith := 0, ftz := m.ftz, ovf := if m.sat then .toTop else .toInf }
    let val (v : Nat) : FVal := unpack .f32 m.ftz v
    let half (v : Nat) : FVal := unpack .bf16 m.ftz v
    let u (k : Nat) : Nat := a.2.getD k 0
    let v (k : Nat) : Nat := b.2.getD k 0
    (∀ wa wb rnd, m.mode = .bfp wa wb rnd →
      let total : Int := ((List.range 256).map (fun k => (BitVec.ofNat (wa.toNat + 1) (u k)).toInt * (BitVec.ofNat (wb.toNat + 1) (v k)).toInt)).sum
      m.accumulate acc a b =
        if a.1 = 0xFF ∨ b.1 = 0xFF then (0x7FC00000, fNV)
        else if total = 0 then (acc, 0)
        else addRule .f32 r (val acc) (FVal.scaled (decide (total < 0)) total.natAbs ((a.1 : Int) + b.1 - 254 - wa.toNat - wb.toNat))) ∧
    (∀ rnd, m.mode = .bf16 rnd → ∃ sums : Nat → Nat × BitVec 6, ∃ el : Nat → Nat × BitVec 6,
      el 0 = (acc, 0) ∧ m.accumulate acc a b = el 16 ∧ ∀ g, g < 16 →
        let y := addRule .f32 r (val (el g).1) (val (sums g).1)
        el (g + 1) = (y.1, (el g).2 ||| (sums g).2 ||| y.2) ∧
        let ks := (List.range 16).map (fun k => 16 * g + k)
        let ps := ks.filterMap (fun k => (half (u k)).mul (half (v k)))
        ((∃ k ∈ ks, (half (u k)).mul (half (v k)) = none) → sums g = (0x7FC00000, fNV)) ∧
        ((∀ k ∈ ks, (half (u k)).mul (half (v k)) ≠ none) →
          ((∃ p ∈ ps, p.isNan = true) → sums g = (0x7FC00000, flagIf (ks.any (fun k => (half (u k)).isSnan || (half (v k)).isSnan)) fNV)) ∧
          ((∀ p ∈ ps, p.isNan = false) →
            (.inf true ∈ ps → .inf false ∈ ps → sums g = (0x7FC00000, fNV)) ∧
            (∀ neg, .inf neg ∈ ps → .inf (!neg) ∉ ps → sums g = (FFmt.f32.inf neg, 0)) ∧
            ((∀ neg, .inf neg ∉ ps) → let q := sumFrac ps
              sums g = if q.1 ≠ 0 then roundTo .f32 r (decide (q.1 < 0)) q.1.natAbs q.2
                else (FFmt.f32.sign (if ∀ p ∈ ps, p = .zero true then true else if ∀ p ∈ ps, p = .zero false then false else r.rm = .rdn), 0))))) ∧
    (m.mode = .z16 → m.accumulate acc a b = ((acc + ((List.range 256).map (fun k => u k * v k)).sum) % 2 ^ 16, 0)) ∧
    (m.mode = .z32 → m.accumulate acc a b = ((acc + ((List.range 256).map (fun k => u k * v k)).sum) % 2 ^ 32, 0))) ∧
  (∀ ps : List FVal, (∀ p ∈ ps, 0 < p.frac.2) → 0 < (sumFrac ps).2 ∧
    ((sumFrac ps).1 : Rat) / (sumFrac ps).2 = (ps.map (fun p => (p.frac.1 : Rat) / p.frac.2)).sum) ∧
  (∀ (t : Team) tile rm ftz phase,
    let val (k row col : Nat) : FVal := unpack .f32 ftz (Cells.get 0 t.acc (accKey k row col)).toNat
    (let r (p : Nat) : Rounding := { rm := rm, dith := dither (p % 256) phase, ftz := ftz }
     let el (p : Nat) : FVal := val tile (p / 64) (p % 64)
     convertTile t tile .bf16 rm ftz phase =
       ((List.range 4096).flatMap (fun p => leBytes 2 ((el p).round .bf16 (r p)).1), [],
        orAll ((List.range 4096).map (fun p => flagIf (el p).isSnan fNV ||| ((el p).round .bf16 (r p)).2)))) ∧
    (∀ (w : BitVec 3) fmt, fmt = AccFmt.bfp w ∨ fmt = AccFmt.bfpc w →
      let n := w.toNat + 1
      let y := convertTile t tile fmt rm ftz phase
      let packed (j : Nat) := packBlock n rm phase ((List.range 256).map (fun p =>
        some (if fmt = AccFmt.bfp w then val (tile + p / 64) j (p % 64) else val (tile + p / 64) (p % 64) j)))
      y.1.length = 2048 * n ∧
      (∀ j p, j < 64 → p < 256 → leNat ((y.1.drop (32 * n * j)).take (32 * n)) / 2 ^ (n * p) % 2 ^ n = wrap n ((packed j).2.1.getD p 0)) ∧
      y.2.1 = (List.range 64).map (fun j => BitVec.ofNat 8 (packed j).1) ∧ y.2.2 = orAll ((List.range 64).map (fun j => (packed j).2.2)))) ∧
  ∀ s x, x.acquiring = false →
  (∀ h t a b mode, Issues (.mma h t a b mode) s x → (∀ m ∈ x.team.latch, m.grp ≠ x.gi) →
    let i : Instr := .mma h t a b mode
    let ds := [(x.sreg a, operandBytes mode false, hasScales mode), (x.sreg b, operandBytes mode true, hasScales mode)]
    (x.descsOk ds → ∃ m : MmaArr, m.grp = x.gi ∧ m.ent = x.frag.ent ∧ m.tile = t.toNat ∧ m.aDesc = x.sreg a ∧ m.bDesc = x.sreg b ∧ m.mode = mode ∧
      m.gang = x.grp.gang ∧ m.ord = x.s.nextId ∧
      let all := x.team.latch ++ [m]
      let members := all.filter (fun y => m.gang.getLsbD y.grp)
      let latched (l : List MmaArr) : State := x.modT (x.modT { x.s with nextId := x.s.nextId + 1 } (fun t => { t with latch := all, latchAt := s.clock, latchTold := false })) (fun t => { t with latch := l })
      ((∃ g, g < 32 ∧ m.gang.getLsbD g = true ∧ ∀ y ∈ members, y.grp ≠ g) → exec i s = .next (x.blockAt (latched all) .mmaLatch)) ∧
      ((∀ g, g < 32 → m.gang.getLsbD g = true → ∃ y ∈ members, y.grp = g) →
        (∀ y ∈ members, y.gang = m.gang ∧ modeCode y.mode = modeCode mode ∧ y.bDesc = m.bDesc) →
        let sorted := (List.range 32).filterMap (fun g => members.find? (fun y => y.grp == g))
        ∃ due, exec i s = .next ((members.filter (fun y => y.grp != x.gi)).foldl (fun s y => s.unlatch x.team.id y.grp y.ent)
          (x.acceptMat (latched (all.filter (fun y => !m.gang.getLsbD y.grp))) (sorted.map (fun y => (y.grp, y.ord))) (.mma sorted) due))) ∧
      ((∀ g, g < 32 → m.gang.getLsbD g = true → ∃ y ∈ members, y.grp = g) →
        (∃ y ∈ members, ¬ (y.gang = m.gang ∧ modeCode y.mode = modeCode mode ∧ y.bDesc = m.bDesc)) →
        exec i s = .next ((x.latchMismatch (latched (all.filter (fun y => !m.gang.getLsbD y.grp))) 2 (members.map (fun y => (y.grp, y.ent)))).after s))) ∧
    ((∃ d ∈ ds, ¬ (descOfs d.1 % 64 = 0 ∧ (d.2.2 = true → descScale d.1 % 64 = 0))) → ∃ d ∈ ds, Traps i s { code := cALIGN, tval := d.1 })) ∧
  let s1 : State := { x.s with nextId := x.s.nextId + 1 }
  let mine : List (Nat × Nat) := [(x.gi, x.s.nextId)]
  (∀ h t, Issues (.acczero h t) s x → ∃ due, exec (.acczero h t) s = .next (x.acceptMat s1 mine (.zero t.toNat) due)) ∧
  (∀ h t a, x.descsOk [(x.sreg a, 16384, false)] →
    (Issues (.accld h t a) s x → ∃ due, exec (.accld h t a) s = .next (x.acceptMat s1 mine (.load t.toNat (x.sreg a)) due)) ∧
    (Issues (.accst h t a) s x → ∃ due, exec (.accst h t a) s = .next (x.acceptMat s1 mine (.store t.toNat (x.sreg a)) due))) ∧
  (∀ h t a fmt rnd, Issues (.acccvt h t a fmt rnd) s x →
    x.descsOk [match fmt with | .bf16 => (x.sreg a, 8192, false) | .bfp w | .bfpc w => (x.sreg a, 2048 * (w.toNat + 1), true)] →
    ∃ due, exec (.acccvt h t a fmt rnd) s = .next (x.modG (x.acceptMat s1 mine
      (.convert t.toNat (x.sreg a) fmt (effRnd rnd x.grp.mode) (modeFtz x.grp.mode) (modeDph x.grp.mode)) due) (Group.stepPhase rnd))) ∧
  (∀ r grps kind due, ∃ t, x.acceptMat r grps kind due = x.modT t (fun y =>
    { y with mats := y.mats ++ [⟨r.nextNumber x.la.r.ctx 2, grps, kind, due⟩] }) ∧
    ((∀ d, r.dbg[x.la.part]? = some d → d.att = false) → t = r.takeNumber x.la.r.ctx 2))

/-- R217, R220-R224, R226: the scan words: scfg sets the configuration 4 cycles later; srun and sfix join the scan unit's queue; scin takes
the carry; scout sends it. Without a configuration each traps ILL (R302). The 400 and 70 cycles of the scan unit are the model's choice of
R227's typical times (log entry 25). What srun and sfix leave of each step and channel, and what scout sends, are R219's operators (R220, R223,
R222). -/
def Obligations.ScanWords : Prop :=
  (∀ (kind : ScanKind) rnd ftz a b h p, a < 2 ^ 32 → b < 2 ^ 32 → h < 2 ^ 32 → p < 2 ^ 32 →
    let r := scanRounding rnd ftz
    let val (v : Nat) : FVal := unpack .f32 ftz v
    let fix := scanFix kind r p a h
    let y := scanStep kind r a b h p
    r = { rm := if rnd = .sr then .rne else rnd, dith := 0, ftz := ftz } ∧
    (∀ pre, kind = .aff pre →
      let a' := match pre with | .none => (a, 0) | .exp2 => transcend .exp2 .f32 ftz a | .sig => transcend .sig .f32 ftz a
      let z := fmaRule .f32 r (val a'.1) (val h) (val b)
      let q := mulRule .f32 r (val p) (val a'.1)
      y = (z.1, q.1, a'.2 ||| z.2 ||| q.2) ∧ fix = fmaRule .f32 r (val p) (val a) (val h) ∧ scanIdentity kind = 0 ∧ scanOne kind = 0x3F800000) ∧
    (kind = .trp →
      let sum := addRule .f32 r (val a) (val h)
      let z := maxRule .f32 r (val sum.1) (val b)
      let q := addRule .f32 r (val p) (val a)
      let z' := maxRule .f32 r (val q.1) (val h)
      y = (z.1, q.1, sum.2 ||| z.2 ||| q.2) ∧ fix = (z'.1, q.2 ||| z'.2) ∧ scanIdentity kind = 0xFF800000 ∧ scanOne kind = 0) ∧
    (∀ k32, kind = .rng k32 → let m := if k32 then 2 ^ 32 else 2 ^ 16
      y = ((a * h + b) % m, p * a % m, 0) ∧ fix = ((p * a + h) % m, 0) ∧ scanIdentity kind = 0 ∧ scanOne kind = 1)) ∧
  (∀ (c : ScanCfg) (r : Rounding) (sc : Cells Byte),
    let row (sc : Cells Byte) (o k i : Nat) : Nat := leNat (Cells.slice 0 sc (o + 256 * k + 4 * i) 4)
    let put (sc : Cells Byte) (o k : Nat) (xs : List Nat) : Cells Byte := Cells.splice 0 sc (o + 256 * k) (xs.flatMap (leBytes 4))
    let chans (f : Nat → Nat) : List Nat := (List.range c.d).map f
    (∃ st : Nat → ScanRun, st 0 = ⟨sc, chans (fun _ => scanIdentity c.kind), chans (fun _ => scanOne c.kind), 0⟩ ∧ scanRun c r sc = st 64 ∧
      ∀ k, k < 64 →
        let y (i : Nat) := scanStep c.kind r (row (st k).sc c.aOfs k i) (row (st k).sc c.bOfs k i) ((st k).h.getD i 0) ((st k).p.getD i 0)
        let h := chans (fun i => (y i).1)
        let p := chans (fun i => (y i).2.1)
        st (k + 1) = ⟨put (put (st k).sc c.hOfs k h) c.pOfs k p, h, p, (st k).fl ||| orAll ((List.range c.d).map (fun i => (y i).2.2))⟩) ∧
    ∀ cin cb, ∃ st : Nat → Cells Byte × BitVec 6, st 0 = (sc, 0) ∧ scanFixAll c r cin cb sc = st 64 ∧
      ∀ k, k < 64 →
        let y (i : Nat) := scanFix c.kind r (row (st k).1 c.pOfs k i) (if cb then scanIdentity c.kind else (Cells.get 0 cin i).toNat) (row (st k).1 c.hOfs k i)
        st (k + 1) = (put (st k).1 c.hOfs k (chans (fun i => (y i).1)), (st k).2 ||| orAll ((List.range c.d).map (fun i => (y i).2)))) ∧
  (∀ (t : Team) (c : ScanCfg) r, scoutCarry t c r = (List.range c.d).map (fun i =>
    scanFix c.kind r (Cells.get 0 t.aggP i).toNat (if t.cb then scanIdentity c.kind else (Cells.get 0 t.cin i).toNat) (Cells.get 0 t.aggH i).toNat)) ∧
  ∀ s x,
  (∀ h a b dch kind, Issues (.scfg h a b dch kind) s x → let va := (x.sreg a).toNat; let vb := (x.sreg b).toNat
    exec (.scfg h a b dch kind) s = .next (x.modG x.s (fun g => { g with flights := g.flights ++ [⟨s.clock + 4, [], 0, some
      ⟨kind, dch.toNat, va % 2 ^ 19, va / 2 ^ 32 % 2 ^ 19, vb % 2 ^ 19, vb / 2 ^ 32 % 2 ^ 19⟩⟩] }))) ∧
  (x.grp.scanCfg s.clock x.s.nonce = none → x.acquiring = false → x.busy HomeOp.syncs = false → x.releaseBusy = false → x.team.scanq = [] →
    ∀ h i, i = .srun h ∨ i = .sfix h ∨ i = .scin h ∨ i = .scout h → Issues i s x → Traps i s { code := cILL, sub := 1, tval := x.word }) ∧
  (∀ c, x.grp.scanCfg s.clock x.s.nonce = some c →
    let fits (o : Nat) : Prop := o % 64 = 0 ∧ o + 16384 ≤ 256 * x.la.r.scr
    (∀ h, Issues (.srun h) s x → x.acquiring = false → fits c.aOfs → fits c.bOfs → fits c.hOfs → fits c.pOfs → exec (.srun h) s = .next (x.queueScan .run c 400)) ∧
    (∀ h, Issues (.sfix h) s x → x.acquiring = false →
      (x.team.cv = false → Traps (.sfix h) s { code := cSCANORD, sub := 2, tval := BitVec.ofNat 64 (x.team.chainPos.getD 0xFFFFFFFF) }) ∧
      (x.team.cv = true → fits c.hOfs → fits c.pOfs → exec (.sfix h) s = .next (x.queueScan .fix c 70))) ∧
    (∀ h, Issues (.scin h) s x → x.acquiring = false → x.busy HomeOp.syncs = false →
      let set (cin : Cells Lane) (cb : Bool) (t : State) : State := t.modTeam x.team.id (fun t => { t with cin := cin, cv := true, cs := false, cb := cb })
      let brk : Trap := { code := cSCANBRK, tval := BitVec.ofNat 64 ((x.team.chainPos.getD 0) - 1) }
      (x.team.chainPos = none ∨ x.team.chainPos = some 0 →
        exec (.scin h) s = .next (x.acquired (set (channels (List.replicate 64 (scanIdentity c.kind))) false x.s))) ∧
      (∀ p, x.team.chainPos = some (p + 1) →
        (∀ k, x.s.carryAt x.team.seq (p + 1) = some k → k.due ≤ s.clock → let t := (x.s.consume k).noFlush x.team.id
          (k.cb = false → exec (.scin h) s = .next (x.acquired (set (channels ((List.range 64).map (fun i =>
            if i < k.dc then (Cells.get 0 k.val i).toNat else scanIdentity c.kind))) false t))) ∧
          (k.cb = true → exec (.scin h) s = .next ((x.modF (set (channels (List.replicate 64 (scanIdentity c.kind))) true t)
            (fun f => { f with pc := x.pc })).takeTrap s.cur brk))) ∧
        (∀ k, x.s.carryAt x.team.seq (p + 1) = some k → s.clock < k.due → exec (.scin h) s = .next (x.blockAt x.s .scin)) ∧
        (x.s.carryAt x.team.seq (p + 1) = none → x.s.isBroken x.team.seq p = true → exec (.scin h) s =
          .next ((x.modF (set (channels (List.replicate 64 (scanIdentity c.kind))) true x.s) (fun f => { f with pc := x.pc })).takeTrap s.cur brk)) ∧
        (x.s.carryAt x.team.seq (p + 1) = none → x.s.isBroken x.team.seq p = false → exec (.scin h) s = .next (x.blockAt x.s .scin)))) ∧
    (∀ h, Issues (.scout h) s x → x.releaseBusy = false → x.team.scanq = [] →
      let ord (n : Nat) : Trap := { code := cSCANORD, sub := n, tval := BitVec.ofNat 64 (x.team.chainPos.getD 0xFFFFFFFF) }
      (x.team.cv = false → Traps (.scout h) s (ord 2)) ∧ (x.team.cv = true → x.team.cs = true → Traps (.scout h) s (ord 3)) ∧
      (x.team.cv = true → x.team.cs = false →
        let last := x.team.chainPos = none ∨ x.team.chainPos = some x.la.lastPos
        (last → exec (.scout h) s = .next (x.modT x.s (fun t => { t with cs := true }))) ∧
        (¬ last → ∀ p, x.team.chainPos = some p →
          (x.s.carryAt x.team.seq (p + 1) ≠ none → Traps (.scout h) s (ord 1)) ∧
          (x.s.carryAt x.team.seq (p + 1) = none → ∃ t due, exec (.scout h) s = .next t ∧
            let rs := scoutCarry x.team c (scanRounding (effRnd .dyn x.grp.mode) (modeFtz x.grp.mode))
            t.chain = x.s.chain.filter (fun y => !(y.seq == x.team.seq && y.pos == p + 1)) ++
              [⟨x.team.seq, p + 1, channels (rs.map Prod.fst), c.d, x.team.cb, true, due⟩] ∧
            { t with chain := x.s.chain, teams := x.s.teams, shared := x.s.shared, flits := x.s.flits } = x.s ∧
            t.teams = (((x.modT x.s (fun t => { t with cs := true })).groupFlags x.team.id x.gi (orAll (rs.map Prod.snd))).noFlush x.team.id).teams)))))

/-- R228-R235: lrmk makes a sealed record of a descriptor that passes R230's tests, or answers the number of the first that fails; the seal
is R229's; cpy checks its addresses, the record's seal and the slice, and arrives at the copy latch. -/
def Obligations.LayoutAndCopyWords : Prop :=
  (∀ bs, let w (k : Nat) : Nat := leNat ((bs.drop (8 * k)).take 8)
    let fmt := w 0 % 2 ^ 8
    let wid := w 0 / 2 ^ 8 % 8
    let rows := w 1 / 2 ^ 32
    let cols := w 1 % 2 ^ 32
    let rowBytes := if fmt = 4 then cols / 256 * (32 * (wid + 1)) else cols * 2 ^ fmt
    checkLayout bs =
      if w 0 / 2 ^ 16 % 2 ^ 16 ≠ 1 ∨ w 0 / 2 ^ 11 % 2 ^ 5 ≠ 0 ∨ w 3 / 2 ^ 32 ≠ 0 ∨ w 5 / 2 ^ 32 ≠ 0 ∨ w 6 ≠ 0 ∨
        fmt ≠ 4 ∧ (w 4 ≠ 0 ∨ w 5 % 2 ^ 32 ≠ 0) then 1
      else if 4 < fmt ∨ fmt = 4 ∧ wid = 0 ∨ fmt ≠ 4 ∧ wid ≠ 0 then 2
      else if rows = 0 ∨ 2 ^ 20 < rows ∨ cols = 0 ∨ 2 ^ 20 < cols ∨ fmt = 4 ∧ cols % 256 ≠ 0 then 3
      else if w 2 < rowBytes ∨ w 2 % 8 ≠ 0 ∨ w 3 % 2 ^ 32 < rowBytes ∨ w 3 % 64 ≠ 0 then 4
      else if w 5 % 64 ≠ 0 then 5 else 0) ∧
  (∀ (s : State) (keyh : Word) bs,
    let k := if keyh = 0 then drawnKey (s.sec.epoch + 1) 32 else s.slotKey (keyh.toNat / 2 ^ 20 % 2 ^ 10)
    let whole := cmac (kdf k (asciiOf "KY9-SEAL") (natsOf (leBytes 8 keyh.toNat).reverse)) (natsOf (bs ++ leBytes 8 keyh.toNat))
    s.sealOf keyh bs = bytesOf (whole.take 8)) ∧
  ∀ s x,
  (∀ h d a b, Issues (.lrmk h d a b) s x → x.acquiring = false → x.bankPending 56 [(0, x.sreg a)] = false →
    let va := x.sreg a
    let vb := x.sreg b
    (va.toNat % 8 ≠ 0 → Traps (.lrmk h d a b) s { code := cALIGN, tval := va }) ∧
    (va.toNat % 8 = 0 → vb.toNat % 64 ≠ 0 → Traps (.lrmk h d a b) s { code := cALIGN, tval := vb }) ∧
    (va.toNat % 8 = 0 → vb.toNat % 64 = 0 → ∀ s1 ps, State.reachPieces x.space .read true x.s (rangePieces va 56) = (s1, ps, []) →
      (∀ p ∈ ps, p.1.mt = 2 → x.busy (fun q => q.loc.mt == 2) = false) →
      let desc := ps.flatMap (fun p => s1.ownBytes x.agent x.gi x.frag.mask p.1 (s1.homeBytes p.1 p.2.1))
      let got := ps.foldl (fun s p => (s.askHome p.1 p.2.1).refresh1 x.coreIx p.1) s1
      (checkLayout desc ≠ 0 → ∃ due, exec (.lrmk h d a b) s =
        .next (x.variable got [.s d.val] [⟨.s d.val, BitVec.ofNat 64 (checkLayout desc)⟩] 0 0 due false)) ∧
      (checkLayout desc = 0 → ∀ s2 q qs, State.reachPieces x.space .write false got (rangePieces vb 64) = (s2, q :: qs, []) →
        (q.1.mt = 2 → x.busy (fun q => q.loc.mt == 2) = false) → q.2.2.rm = false ∨ s2.replica? q.1.asid q.1.va = none → ∃ due, exec (.lrmk h d a b) s =
          .next ((x.variable s2 [.s d.val] [⟨.s d.val, 0⟩] 0 8 due false).sendHome ((List.range 8).map (fun j =>
            x.homeOp true 0 { q.1 with va := q.1.va + 8 * j, pa := q.1.pa + 8 * j } 8
              (.store (((desc ++ s2.sealOf x.la.r.keyh desc).drop (8 * j)).take 8)) false false (some s2.nextId) due)))))) ∧
  (∀ h d a b s2g bar, Issues (.cpy h d a b s2g bar) s x → x.grp.acquiring x.grp.launched = false → x.groupBusy = false → x.engineOps = false →
    (∀ y ∈ x.team.copyLatch, y.grp ≠ x.gi) →
    let i : Instr := .cpy h d a b s2g bar
    ((x.sreg d).toNat % 64 ≠ 0 → Traps i s { code := cALIGN, tval := x.sreg d }) ∧
    ((x.sreg d).toNat % 64 = 0 → (x.sreg a).toNat % 8 ≠ 0 → Traps i s { code := cALIGN, tval := x.sreg a }) ∧
    ((x.sreg d).toNat % 64 = 0 → (x.sreg a).toNat % 8 = 0 → (x.sreg b).toNat % 64 ≠ 0 → Traps i s { code := cALIGN, tval := x.sreg b }) ∧
    ((x.sreg d).toNat % 64 = 0 → (x.sreg a).toNat % 8 = 0 → (x.sreg b).toNat % 64 = 0 →
      ∀ s1 ps, State.reachPieces x.space .read true x.s (rangePieces (x.sreg d) 64) = (s1, ps, []) →
      let bs := s1.pieceBytes ps
      let y : Slice := ⟨x.gi, x.frag.ent, x.sreg d, layoutOf bs, x.sreg a, x.sreg b, s2g, bar.map BitVec.toNat⟩
      (s1.sealOf x.la.r.keyh (bs.take 56) ≠ bs.drop 56 → Traps i s { code := cSEAL, tval := x.sreg d }) ∧
      (s1.sealOf x.la.r.keyh (bs.take 56) = bs.drop 56 → 256 * x.la.r.scr < y.top (x.team.rowsOf y) →
        Traps i s { code := cMEMF, sub := 1, tval := x.sreg b }) ∧
      (s1.sealOf x.la.r.keyh (bs.take 56) = bs.drop 56 → y.top (x.team.rowsOf y) ≤ 256 * x.la.r.scr →
        let got := ps.foldl (fun s p => (s.askHome p.1 p.2.1).refresh1 x.coreIx p.1) s1
        exec i s = .next ((x.modT (x.blockAt got .copyLatch) (fun t =>
          { t with copyLatch := t.copyLatch ++ [y], copyAt := s.clock, copyTold := false })).tryCopyLatch x.team.id))))

/-- R238, R239, R242: an exchange word checks the partition's pair and the stream, stalls while its hand has too few items, and otherwise
takes its serials and numbers, records the exchange with the values read at issue, and sends its words. It waits behind an earlier exchange
of its group and stream that the hand keeps (R321), and serials end at 2^64 (R315). A gxch starts after every access of its group, every
transfer of its team and its group's gxch before it (R236, R292). The completion of each, a gxch's too, is an acquire of the fragment. That a send waits for no completion of an earlier exchange
(Issue.sendBusy) is the model's choice (log entry 78). -/
def Obligations.ExchangeWords : Prop := ∀ s x pair party (st : BitVec 3), x.sendBusy = false →
  let begins (i : Instr) (kind : ExchKind) (k : ZWidth) (n : Nat) (items : List Nat → List (Nat × Nat × Nat × Nat)) (regs : List PendReg) : Prop :=
    let c := x.s.streamCfg pair st.toNat
    let h := (x.s.hand pair st.toNat).settle
    let serials := takeSerials h.burned n (h.next party)
    let fits := h.off = false ∧ c.kind = kind.needs ∧ c.k = zCode k ∧ (∀ f, kind = .trunc f → c.f = f)
    let short := c.kind ≠ 0 ∧ ∃ q ∈ serials, 4096 * h.hands ≤ q
    let spent := ∃ q ∈ serials, 2 ^ 64 ≤ q
    let mayGo := fits ∧ x.behind pair st.toNat = false ∧ ¬ spent
    (x.s.partyOf x.la.part = none → Traps i s { code := cGATE, sub := 4, tval := BitVec.ofNat 64 st.toNat }) ∧
    (x.s.partyOf x.la.part = some (pair, party) →
      (¬ fits → Traps i s { code := cGATE, sub := 2, tval := BitVec.ofNat 64 st.toNat }) ∧
      (fits → x.behind pair st.toNat = true → exec i s = .next s.retry) ∧
      (fits → x.behind pair st.toNat = false → spent → exec i s = .next (((x.s.setHand { h with off := true }).takeTrap s.cur
        { code := cGATE, sub := 2, tval := BitVec.ofNat 64 st.toNat, tpc := some x.pc }))) ∧
      (mayGo → short → ∃ since, exec i s = .next (x.modF (x.blockAt x.s (.hand since pair st.toNat n)) (fun f => { f with wake := s.clock + 1 }))) ∧
      (mayGo → ¬ short → (∀ d, x.s.dbg[x.la.part]? = some d → d.att = false) → ∃ t e, e.kind = kind ∧ e.k = k ∧ e.pair = pair ∧ e.party = party ∧ e.stream = st.toNat ∧ e.grp = x.gi ∧
        e.pc = x.pc ∧ e.items = items serials ∧ e.num = x.s.nextNumber x.la.r.ctx 4 ∧ e.rounds = 0 ∧ e.fail = none ∧ e.epoch = x.s.sec.epoch ∧
        exec i s = .next ((t.sendRound x.team.id e).advanceExch 8 x.team.id e.id) ∧
        (t.hand pair st.toNat) = h.setNext party ((serials.getLastD (h.next party - 1)) + 1) ∧
        (∀ y, x.s.team? x.team.id = some y → ∃ z, t.team? x.team.id = some z ∧ z.exchs = y.exchs ++ [e] ∧ z.noFlush = true) ∧
        (∀ g, x.groupAfter x.s = some g → ∃ g' due, x.groupAfter t = some g' ∧ e.pend.isSome = true ∧
          g' = { g with pend := g.pend ++ [⟨e.pend.getD 0, x.frag.mask, regs, [], 0, 1, due, true⟩] }) ∧
        (∀ slot a, t.byteAt slot a = x.s.byteAt slot a)))
  let lanes (i : Instr) (kind : ExchKind) (d : Fin 192) (a b : Option (Fin 192)) (k : ZWidth) : Prop :=
    let val (o : Option (Fin 192)) (l : Nat) : Nat := match o with | some v => x.opnd (zBits k) (.v v) l | none => 0
    Issues i s x → begins i kind k x.lanesList.length (fun serials => (serials.zip x.lanesList).map (fun p => (p.1, p.2, val a p.2, val b p.2)))
      (pendRegs x.lanes (.v d.val k.regs))
  (∀ h d a b k, lanes (.shmul h d a b st k) .mul d (some a) (some b) k) ∧
  (∀ h d a f k, lanes (.shtrunc h d a st f k) (.trunc f.toNat) d (some a) none k) ∧
  (∀ h d a k, lanes (.shsign h d a st k) .sign d (some a) none k) ∧
  (∀ h d a k, lanes (.shopen h d a st k) .open_ d (some a) none k) ∧
  (∀ h d a k, lanes (.shin h d (.own a) st k) (.inp true) d (some a) none k) ∧
  (∀ h d k, lanes (.shin h d .other st k) (.inp false) d none none k) ∧
  (∀ h d a b nb be k32, Issues (.gxch h d a b st nb be k32) s x →
    let i : Instr := .gxch h d a b st nb be k32
    let n := if k32 then 65536 else 32768
    let size := 256 * x.la.r.scr
    let areas := [(x.sreg d, 4 * n + 16384), (x.sreg a, n), (x.sreg b, n)]
    (∀ v ∈ areas, v.1.toNat % 64 ≠ 0 → ∃ w ∈ areas, Traps i s { code := cALIGN, tval := w.1 }) ∧
    ((∀ v ∈ areas, v.1.toNat % 64 = 0) → ∀ v ∈ areas, size < v.1.toNat + v.2 → ∃ w ∈ areas, Traps i s { code := cMEMF, sub := 1, tval := w.1 }) ∧
    ((∀ v ∈ areas, v.1.toNat % 64 = 0 ∧ v.1.toNat + v.2 ≤ size) →
      x.grp.acquiring x.grp.launched = false → x.groupBusy = false → x.engineOps = false → x.team.xfers = [] → (∀ y ∈ x.team.copyLatch, y.grp ≠ x.gi) →
      (∀ e ∈ x.team.exchs, ¬ (e.kind = .mat ∧ e.grp = x.gi)) → begins i .mat (if k32 then .z32 else .z16) 1 (fun serials => serials.map (fun q => (q, 0, 0, 0))) []))

/-! ### Messages -/

/-- R245-R248: send hands a message to the network and blocks; recv takes the oldest waiting message that matches, or is posted; mprobe
tells whether one waits; a message that arrives goes to the oldest receive that matches, else to the overflow queue, else it is refused
with QOVF. -/
def Obligations.Messages : Prop := ∀ s,
  (∀ x,
    let good (o : Word) (n : Nat) : Prop := o.toNat % 8 = 0 ∧ o.toNat + n ≤ 256 * x.la.r.scr
    (∀ h a b len, Issues (.send h a b len) s x → x.acquiring = false → x.releaseBusy = false →
      let w := (x.sreg a).toNat
      let there := ∃ t ∈ x.s.teams, t.seq = x.team.seq ∧ t.here = true ∧ t.die = w / 2 ^ 21 % 8 ∧ t.core / 2 = w / 2 ^ 16 % 32
      ((x.sreg b).toNat % 8 ≠ 0 → Traps (.send h a b len) s { code := cALIGN, tval := x.sreg b }) ∧
      ((x.sreg b).toNat % 8 = 0 → ¬ good (x.sreg b) (msgBytes len) → Traps (.send h a b len) s { code := cMEMF, sub := 1, tval := x.sreg b }) ∧
      (good (x.sreg b) (msgBytes len) → ¬ there → Traps (.send h a b len) s { code := cMEMF, sub := 1, tval := x.sreg a }) ∧
      (good (x.sreg b) (msgBytes len) → there → ∃ due, exec (.send h a b len) s = .next (State.countLinks { x.blockAt x.s .send with
        msgs := x.s.msgs ++ [⟨x.s.nextId, x.team.seq, x.team.id, x.gi, x.frag.ent, x.team.die, x.team.cluster, x.sreg a,
          x.team.scratchBytes (x.sreg b).toNat (msgBytes len), due⟩], nextId := x.s.nextId + 1 } x.la.part x.la.seq (msgBytes len) x.team.die (w / 2 ^ 21 % 8)))) ∧
    (∀ h d a b len anyt anys, Issues (.recv h d a b len anyt anys) s x → x.acquiring = false →
      let i : Instr := .recv h d a b len anyt anys
      let posted := x.s.recvs.filter (fun r => match x.s.team? r.team with
        | some t => t.die == x.team.die && t.cluster == x.team.cluster
        | none => false)
      let pending := x.variable x.s [.s d.val] [] 0 1 s.clock false
      ((x.sreg b).toNat % 8 ≠ 0 → Traps i s { code := cALIGN, tval := x.sreg b }) ∧
      ((x.sreg b).toNat % 8 = 0 → ¬ good (x.sreg b) (msgBytes len) → Traps i s { code := cMEMF, sub := 1, tval := x.sreg b }) ∧
      (good (x.sreg b) (msgBytes len) →
        (∀ m, x.waitingMsg (x.sreg a) anyt anys = some m → exec i s = .next (({ pending with overflow := x.s.overflow.filter (fun y => y.id != m.id) } : State).receive
          m x.team.id x.gi x.s.nextId (x.sreg b).toNat (msgBytes len))) ∧
        (x.waitingMsg (x.sreg a) anyt anys = none → posted.length < 16 → exec i s = .next { pending with
          recvs := x.s.recvs ++ [⟨x.team.id, x.gi, x.s.nextId, x.sreg a, msgBytes len, (x.sreg b).toNat, anyt, anys⟩] }))) ∧
    (∀ h d a len anyt anys, Issues (.mprobe h d a len anyt anys) s x → x.acquiring = false → ∃ due, exec (.mprobe h d a len anyt anys) s =
      .next (x.variable x.s [.s d.val] [⟨.s d.val, match x.waitingMsg (x.sreg a) anyt anys with
        | some m => completionWord m (msgBytes len)
        | none => 0⟩] 0 0 due false))) ∧
  (∀ (m : Msg) n, completionWord m n = BitVec.ofNat 64 (2 ^ 63 + (if n < m.payload.length then 2 ^ 62 else 0) + m.payload.length * 2 ^ 32 +
    m.srcDie * 2 ^ 21 + m.srcClu * 2 ^ 16 + m.dst.toNat % 2 ^ 16)) ∧
  (∀ k m, s.msgs.find? (fun m => m.id == k && decide (m.due ≤ s.clock)) = some m → s.msgFirst m = true →
    let die := m.dst.toNat / 2 ^ 21 % 8
    let clu := m.dst.toNat / 2 ^ 16 % 32
    let fits (r : Recv) : Bool := s.recvAt r die clu m.seq && matches_ m r.match_ r.anyt r.anys
    let waiting := s.overflow.filter (fun y => adDie y.dst == die && adCluster y.dst == clu)
    (∀ r, s.recvs.find? fits = some r → exec (.messageArrival k) s = .next ((({ s with recvs := s.recvs.filter (fun y => y != r) } : State).receive
      m r.team r.grp r.pend r.buf r.len).sent m)) ∧
    (s.recvs.find? fits = none → waiting.length < 64 → exec (.messageArrival k) s = .next (({ s with overflow := s.overflow ++ [m] } : State).sent m)) ∧
    (s.recvs.find? fits = none → 64 ≤ waiting.length → exec (.messageArrival k) s =
      .next (({ s with msgs := s.msgs.filter (fun y => y.id != m.id) } : State).takeTrap (.frag m.team m.grp m.ent) { code := cQOVF, tval := m.dst })))

/-! ### Traps and special registers -/

/-- R93, R249-R251, R412: trap, brkp and rtt; taking a trap saves cause, address and value and enters the handler where one is declared,
free and given the cause, and otherwise ends the team with its fault record; it waits until the group's issued work is complete, and while
a save or a stop of the launch holds it. That a trap that ends the team waits too, and that one waits for its team's matrix operations, is the
model's reading (log entry 38); so is that a brkp has no effect where PERM is not 2 (log entry 41). -/
def Obligations.TrapsEnterAndReturn : Prop :=
  (∀ s x,
    (∀ h code, Issues (.trap h code) s x → let c : Trap := { code := 0x0A, tval := code.setWidth 64, tpc := some (x.pc + 8) }
      (∀ n, x.who = .stream n → Traps (.trap h code) s c) ∧ ((∀ n, x.who ≠ .stream n) → exec (.trap h code) s = .next (x.s.takeTrap s.cur c))) ∧
    (∀ h, Issues (.rtt h) s x →
      (x.grp.tpc.toNat % 8 ≠ 0 → Traps (.rtt h) s { code := cALIGN, tval := x.grp.tpc }) ∧
      (x.grp.tpc.toNat % 8 = 0 → exec (.rtt h) s = .next (x.s.modGroup x.team.id x.gi (fun g =>
        { g with handler := none, left := none, frags := g.frags.map (fun f => if f.ent = x.frag.ent then
          { f with pc := g.tpc, todo := none, invIn := (g.left.filter (fun r => r.pc == g.tpc)).map (fun r => { r with again := true }) } else f) })))) ∧
    (∀ h code, Issues (.brkp h code) s x →
      (x.s.dbgOf x.la = none ∨ x.s.dbgPerm x.la.part ≠ 2 → exec (.brkp h code) s = .next x.s) ∧
      (∀ d, x.s.dbgOf x.la = some d → x.s.dbgPerm x.la.part = 2 →
        let e : StopEvent := { reason := 3, idx := 0, at_ := x.s.clock, frag := some (x.team.span, x.team.idx, x.gi, x.frag.ent), age := x.frag.age,
                               pc := x.pc, wrote := (0x15, x.pc + 8, code.setWidth 64) }
        (d.pending = none → ∃ u, exec (.brkp h code) s = .next
          ((x.s.modGroup x.team.id x.gi (fun g => { g with tcause := 0x15, tpc := x.pc + 8, tval := code.setWidth 64 })).modDbg x.la.part
            (fun d => { d with pending := some { e with undo := u } }))) ∧
        (∀ q, d.pending = some q → (e.before q = true → exec (.brkp h code) s = .next (x.s.meetStop x.la x.team.id x.gi e)) ∧
          (e.before q = false → exec (.brkp h code) s = .next s.retry))))) ∧
  (∀ (s : State) tid gi ent (c : Trap) t g l f, s.team? tid = some t → t.groups[gi]? = some g → s.launch? t.seq = some l → g.frag? ent = some f →
    let tpc : Word := c.tpc.getD f.pc
    let given := c.code ∈ [0x03, 0x05, 0x07, 0x09, 0x0A, 0x0E, 0x0F, 0x10, 0x11, 0x13, 0x14]
    let held := s.drained t gi g = false ∨ s.saving t = true ∨ s.faultHeld l t = true
    (held ∨ given ∧ l.r.traph ≠ 0 ∧ g.handler ≠ none ∧ g.handler ≠ some ent →
      s.takeTrap (.frag tid gi ent) c = s.modFrag tid gi ent (fun f => { f with st := .blocked (.trap c.code c.sub tpc c.tval) })) ∧
    (¬ held → given → l.r.traph ≠ 0 → g.handler = none → s.dbgOf l = none →
      s.takeTrap (.frag tid gi ent) c = s.modGroup tid gi (fun g => { g.settle with
        tcause := BitVec.ofNat 32 (c.sub * 256 + c.code), tpc := tpc, tval := c.tval, handler := some ent, left := f.invIn,
        frags := g.settle.frags.map (fun f => if f.ent = ent then
          { f with pc := l.r.traph, st := .ready, wake := if c.code = 0x0A then max f.wake (s.clock + 1) else s.clock + 1, last := s.clock,
                   todo := none, invIn := none } else f) })) ∧
    (¬ held → ¬ given ∨ l.r.traph = 0 ∨ g.handler = some ent → s.dbgOf l = none →
      t.res ≠ .terminated → t.res ≠ .retired → ∃ r, s.takeTrap (.frag tid gi ent) c = r ∧
        (∀ y, r.team? tid = some y → y.res = .terminated ∧ ∀ g ∈ y.groups, g.frags = [] ∧ g.exited = g.launched) ∧
        (∀ l', r.launch? t.seq = some l' → l'.status = if l.status = 0 then 5 else l.status))) ∧
  (∀ (s : State) n (c : Trap) x, s.streams[n]? = some x → let t := s.takeTrap (.stream n) c
    t.streams[n]? = some { x with
        st := .faulted, tcause := BitVec.ofNat 32 (c.sub * 256 + c.code), tpc := c.tpc.getD x.pc, tval := c.tval, cause := c.code,
        sub := c.sub, smtpc := c.tpc.getD x.pc, smtval := c.tval } ∧ { t with streams := s.streams } = s)

/-- R88-R96, R249, R419: rdsr reads each special register, waiting for earlier results before MODE; wrsr writes the writable ones after
every earlier result has landed and leaves reserved bits 0; mark writes a trace record where a debugger is attached. The due times of rdsr are the
model's choice of typical times (log entry 25). -/
def Obligations.SpecialRegisters : Prop := ∀ s x,
  (∀ h sr, sr = .mode → x.converting = true → ∀ d, Issues (.rdsr h d sr) s x → (∀ n, x.who ≠ .stream n) → exec (.rdsr h d sr) s = .next s.retry) ∧
  (∀ h d sr, Issues (.rdsr h d sr) s x → (sr = .mode → x.converting = false) → (∀ n, x.who = .stream n → srInStream sr = true) →
    let lat := if sr = .clock then 24 else 8
    let one (v : Word) : Prop :=
      (∀ n, d = .s n → exec (.rdsr h d sr) s = .next (x.variable x.s [.s n.val] [⟨.s n.val, if sr.bits = 64 then v else (v.setWidth 32).setWidth 64⟩] 0 0 (s.clock + lat) false)) ∧
      (∀ n, d = .v n → sr.bits = 64 → Pends (.rdsr h d sr) s x lat 64 false d 0 (fun _ => v.toNat)) ∧
      (∀ n, d = .v n → sr.bits ≠ 64 → Pends (.rdsr h d sr) s x lat 32 false d 0 (fun _ => v.toNat))
    match sr with
    | .mode => one (x.grp.mode.setWidth 64)
    | .flags => one (x.flagsNow.setWidth 64)
    | .gstat => ∃ v, one v ∧ ∀ j, j < 64 → v.getLsbD j = (if j = 0 then x.grp.pz else if j = 1 then x.grp.abt
        else if j = 2 then x.grp.launched != lanesBelow x.W else if j = 3 then x.grp.rst else if j = 8 then x.grp.role == .m
        else if j = 9 then x.grp.role == .v else false)
    | .laneid => (∀ n, d = .s n → one 0) ∧ (∀ n, d = .v n → Pends (.rdsr h d sr) s x lat 32 false d 0 (fun l => l))
    | .groupid => one (BitVec.ofNat 64 x.gi)
    | .teamid => one (BitVec.ofNat 64 x.team.idx)
    | .spanid => one (BitVec.ofNat 64 x.team.span)
    | .dieid => one (BitVec.ofNat 64 x.team.die)
    | .core => one (BitVec.ofNat 64 x.team.core)
    | .width => one (BitVec.ofNat 64 x.W)
    | .clock => one (BitVec.ofNat 64 s.clock)
    | .tcause => one (x.grp.tcause.setWidth 64)
    | .tpc => one x.grp.tpc
    | .tval => one x.grp.tval
    | .ebudget => one (BitVec.ofNat 64 (x.s.ebudget.getD x.team.die 48))
    | .chainpos => one (BitVec.ofNat 64 (x.team.chainPos.getD 0xFFFFFFFF))) ∧
  (∀ h a sr, Issues (.wrsr h a sr) s x → x.converting = false → ∃ m : BitVec 24, (∀ j, j < 24 → m.getLsbD j = ((decide (j < 9) || decide (16 ≤ j)) && (x.sreg a).getLsbD j)) ∧
    exec (.wrsr h a sr) s = .next (x.modG x.s (fun g =>
      match sr with
      | .mode => { g.settle with mode := m }
      | .flags => { g.settle with flags := (x.sreg a).setWidth 6 }
      | .gstat => { g.settle with rst := (x.sreg a).getLsbD 3, abt := (x.sreg a).getLsbD 1, pz := (x.sreg a).getLsbD 0 }
      | .tpc => { g.settle with tpc := x.sreg a }
      | .laneid | .groupid | .teamid | .spanid | .dieid | .core | .width | .clock | .tcause | .tval | .ebudget | .chainpos => g.settle))) ∧
  (∀ h a id, Issues (.mark h a id) s x →
    (s.dbgOf x.la = none → exec (.mark h a id) s = .next x.s) ∧
    exec (.mark h a id) s = .next (x.s.trace x.la x.team.die 1 x.gi x.team.idx x.team.span id.toNat x.pc (x.sreg a)))

/-- R252, R253, R327-R329: lnch reads its record and arguments, takes the next launch number and submits the launch; ldep adds a
dependence; lwait waits for a timeline; lsig raises one of a signal context; a handle of another stream, or a word of a group, traps PRIV. The due
time of lnch is the model's choice of a typical time (log entry 25). -/
def Obligations.StreamWords : Prop := ∀ s x n, x.who = .stream n →
  (∀ h d a, Issues (.lnch h d a) s x → x.acquiring = false → x.bankPending 128 [(0, x.sreg a)] = false → x.busy (fun q => q.loc.mt == 2) = false →
    ((x.sreg a).toNat % 64 ≠ 0 → Traps (.lnch h d a) s { code := cALIGN, tval := x.sreg a }) ∧
    ((x.sreg a).toNat % 64 = 0 → ∀ s1 s2 ws argv, x.loadWords x.s (x.sreg a) 16 = (s1, .ok ws) →
      (if (ws.getD 12 0).toNat % 8 = 0 then x.loadWords s1 (ws.getD 12 0) 8 = (s2, .ok argv) else s2 = s1 ∧ argv = List.replicate 8 0) →
      exec (.lnch h d a) s = .next (x.variable ((s2.modStream n (fun y => { y with deps := [] })).submit n x.la.part x.la.asid x.pc ws argv
        (((s2.streams[n]?).map Stream.deps).getD [])) [.s d.val] [⟨.s d.val, BitVec.ofNat 64 s2.nextSeq⟩] 0 0 (s.clock + 380) false))) ∧
  (∀ (t : State) part asid lpc ws argv deps, t.validate n part ws (parseRec ws) = 0 → ∃ l, (t.submit n part asid lpc ws argv deps).launches = t.launches ++ [l] ∧
    (t.submit n part asid lpc ws argv deps).nextSeq = t.nextSeq + 1 ∧ l.seq = t.nextSeq ∧ l.lpc = lpc ∧ l.stream = n ∧ l.part = part ∧ l.asid = asid ∧
    l.r = parseRec ws ∧ l.argv = argv ∧ l.deps = deps ∧ l.status = 0 ∧ l.st = .waiting ∧ l.spans.length = (parseRec ws).spans ∧ ∀ p ∈ l.spans, p.st = .unplaced) ∧
  (∀ h a b tl,
    let named := (x.s.ctx? (x.sreg a).toNat).bind (fun c => if c.stream = x.la.stream then some c else none)
    (named = none → ∀ i, i = .ldep h a b tl ∨ i = .lwait h a b tl ∨ i = .lsig h a b tl → Issues i s x → Traps i s { code := cPRIV, tval := x.sreg a }) ∧
    (∀ c y, named = some c → x.s.streams[n]? = some y →
      (Issues (.ldep h a b tl) s x → (8 ≤ y.deps.length → Traps (.ldep h a b tl) s { code := cQOVF, sub := 1, tval := x.sreg a }) ∧
        (y.deps.length < 8 → exec (.ldep h a b tl) s = .next (x.s.modStream n (fun y => { y with deps := y.deps ++ [(c.handle, tl.toNat, x.sreg b)] })))) ∧
      (Issues (.lwait h a b tl) s x → x.acquiring = false → x.busy HomeOp.syncs = false → exec (.lwait h a b tl) s =
        .next (if (x.sreg b).toNat ≤ (x.s.timeline c.handle tl.toNat).toNat then x.acquired x.s
          else x.s.modStream n (fun y => { y with pc := x.pc, st := .waiting c.handle tl.toNat (x.sreg b) }))) ∧
      (Issues (.lsig h a b tl) s x → (c.signal = false → Traps (.lsig h a b tl) s { code := cPRIV, tval := x.sreg a }) ∧
        (c.signal = true → x.releaseBusy = false → exec (.lsig h a b tl) s = .next (x.s.raise c.handle tl.toNat (x.sreg b)))))) ∧
  (∀ (t : State) k i v c, t.ctx? k = some c → ∃ c', (t.raise k i v).ctx? k = some c' ∧
    c'.tls = c.tls.set i (if (c.tls.getD i 0).toNat < v.toNat then v else c.tls.getD i 0))

/-! ### Events inside the cores -/

/-- R30-R32, R75: results are written. The oldest fixed-latency result of a group or stream is written once its ready cycle has come;
a pending result is written once every value has come back and it is due, and its registers are then no longer pending. Flags
join the sticky flags; nothing else changes.
R143, R196, R268: a ready fragment at its record's address arrives, and the last of the expected lanes fuses them at the record's
address; a stalled barrier or latch posts one record; arrivals at the combiners are counted and forwarded as R268 says, and a release
completes the phase of every team whose arrival it answers. The 60, 450 and 1350 cycles are the model's choice of typical times (log entry 25),
and so is that a half whose teams have all left counts as arrived (log entry 74). -/
def Obligations.ResultsJoinsAndStalls : Prop :=
  (∀ s : State,
    (∀ t g, exec (.fixedLatencyResult t g) s = .next (s.modIssuer t g (fun x =>
      match x.flights with
      | f :: rest => if f.ready ≤ s.clock then
          { x.writes f.writes with flights := rest, flags := x.flags ||| f.flags, scfg := f.cfg.or x.scfg }
        else x
      | [] => x))) ∧
    (∀ t g y k p, s.issuer? t g = some y →
      y.pend.find? (fun p => p.id == k && p.left == 0 && decide (p.due ≤ s.clock)) = some p →
      exec (.pendingResultWrite t g k) s = .next (s.modIssuer t g (fun x =>
        let h : Group := { x with
          pend := x.pend.filter (fun q => q.id != p.id)
          flights := x.flights.map (fun f => { f with writes := f.writes.filter (fun w => !(p.writes.any (fun v => v.key == w.key))) }) }
        { h.writes p.writes with flags := x.flags ||| p.flags })))) ∧
  ((∀ (s : State) t g e team y f j r, s.team? t = some team → team.groups[g]? = some y → y.frag? e = some f → f.st = .ready →
      team.res = .resident → s.mayAct team g y f = true →
      f.join = some j → y.join? j = some r → r.regang = false → r.rc = f.pc →
      exec (.joinArrival t g e) s = .next (s.modGroup t g (fun y => (y.arrive s.clock f).tidy s.clock)) ∧
      (∀ z, z = (y.arrive s.clock f).tidy s.clock →
        (r.expect ≠ 0 → r.arrived ||| f.mask ≠ r.expect →
          (∃ f' ∈ z.frags, f'.ent = e ∧ f'.mask = f.mask ∧ f'.pc = f.pc ∧ f'.join = some j ∧ f'.st = .atJoin) ∧
          z.join? j = some { r with arrived := r.arrived ||| f.mask }) ∧
        (r.expect ≠ 0 → r.arrived ||| f.mask = r.expect →
          (∃ f' ∈ z.frags, f'.mask = r.expect ∧ f'.pc = r.rc ∧ f'.join = r.parent ∧ f'.st = .ready) ∧ z.join? j = none) ∧
        { z with frags := y.frags, joins := y.joins, held := y.held } = y)) ∧
    (∀ (s : State) t idx y l since tpc tval, s.team? t = some y → s.launch? y.seq = some l → y.stall idx = some (since, tpc, tval) →
      y.res = .resident → l.r.wdog ≠ 0 → (∀ d ∈ s.dbg, d.att = true → d.seq = y.seq → d.stopped = false) →
      since + l.r.wdog * 16 * us < s.clock →
      exec (.barstall t idx) s = .next ((s.modTeam t (fun y => y.tellStall idx)).postFault l 0xFF y.idx y.span 0 0x08 idx
        (BitVec.ofNat 64 tpc) (BitVec.ofNat 64 tval))) ∧
    (∀ (s : State) k m, s.combMsgs.find? (fun m => m.id == k && m.to_.isRelease == false && decide (m.due ≤ s.clock)) = some m →
      let gone : State := { s with combMsgs := s.combMsgs.filter (fun q => q.id != k) }
      (∀ span half team, m.to_ = .die span half team false → exec (.combinerArrival k) s = .next (
        (gone.setComb { gone.comb m.seq span half m.idx false with
          arrived := (gone.comb m.seq span half m.idx false).arrived ++ [(team, k)] }).testDie m.seq span half m.idx)) ∧
      (∀ span half team, m.to_ = .die span half team true → exec (.combinerArrival k) s = .next (
        (gone.testDie m.seq span half m.idx).testPkg m.seq m.idx)) ∧
      (∀ span half, m.to_ = .cross span half → exec (.combinerArrival k) s = .next (
        (gone.setComb { gone.comb m.seq span half m.idx false with other := true }).testDie m.seq span half m.idx)) ∧
      (∀ span half, m.to_ = .pkg span half → exec (.combinerArrival k) s = .next (
        (gone.setComb { gone.comb m.seq 0 0 m.idx true with
          arrived := (gone.comb m.seq 0 0 m.idx true).arrived ++ [(2 * span + half, k)] }).testPkg m.seq m.idx))) ∧
    (∀ (s : State) seq span half idx,
      let c := s.comb seq span half idx false
      let of (half : Nat) (lv : BarLevel) := s.teams.filter (fun t => t.seq == seq && t.span == span && t.half == half && t.bound idx lv)
      let left (half : Nat) : Prop := of half .die = [] ∧ ∃ t ∈ s.teams, t.seq = seq ∧ t.span = span ∧ t.half = half ∧ t.boundAt idx .die = true
      let all (lv : BarLevel) : Prop := of half lv ≠ [] ∧ ∀ t ∈ of half lv, ∃ y ∈ c.arrived, y.1 = t.idx
      let released : State := (s.setComb { c with
        arrived := c.arrived.filter (fun y => !(of half .die).any (fun t => t.idx == y.1)), other := false, fwd := false }).sendComb seq idx
          (.release span half ((of half .die).filterMap (fun t => c.arrival? t.idx))) 60
      let straddles : Prop := ∃ l, s.launch? seq = some l ∧ l.r.half ≠ 0
      (¬ left half → ¬ all .die → s.testHalf seq span half idx = s) ∧
      (left half ∨ all .die →
        (¬ straddles → s.testHalf seq span half idx = released) ∧
        (straddles → c.fwd = true → c.other = true → s.testHalf seq span half idx = released) ∧
        (straddles → c.fwd = true → c.other = false → ¬ left (1 - half) → s.testHalf seq span half idx = s) ∧
        (straddles → c.fwd = false → c.other = false → ¬ left (1 - half) →
          s.testHalf seq span half idx = ((s.setComb { c with fwd := true }).sendComb seq idx (.cross span (1 - half)) 450).crossFlits seq span half)) ∧
      ((s.crossFlits seq span half) = { s with shared := (s.crossFlits seq span half).shared, flits := (s.crossFlits seq span half).flits }) ∧
      (¬ all .pkg ∨ c.pfwd = true → s.testUp seq span half idx = s) ∧
      (all .pkg → c.pfwd = false →
        s.testUp seq span half idx = (s.setComb { c with pfwd := true }).sendComb seq idx (.pkg span half) 1350)) ∧
    (∀ (s : State) k m span half served, s.combMsgs.find? (fun m => m.id == k && m.to_.isRelease == true && decide (m.due ≤ s.clock)) = some m →
      m.to_ = .release span half served → exec (.combinerRelease k) s = .next (
        (s.teams.filter (fun t => t.seq == m.seq && t.span == span && t.half == half && (t.bar m.idx).fwd.any served.contains)).foldl
          (fun s t => (s.completePhase t.id m.idx).modTeam t.id (fun t => { t with noFlush := true }))
          { s with combMsgs := s.combMsgs.filter (fun q => q.id != k) })))

/-- R75, R209-R215, R220-R226, R233-R237: an operation of the matrix, copy or scan unit completes: its effect, its number on its timeline, with the
flags that the timeline then covers, its transfer arrival; a transfer moves its units first; and a waiting scin receives its carry. That the
transfers of a team complete in turn, and which units wait for earlier ones of the launch, is the model's choice (log entry 80); so are what the
engine counters are charged with at completion (log entry 44), and that what is left of a transfer's units moves then (log entry 27). -/
def Obligations.EngineCompletions : Prop :=
  (∀ (s : State) h i n c, s.ctx? h = some c → ∃ c', (s.completeNumber h i n).ctx? h = some c' ∧
    (i < c.tls.length → c.tls.getD i 0 + 1 = n → (i, n + 1) ∉ c.done → c'.tls = c.tls.set i n) ∧
    (c.tls.getD i 0 + 1 ≠ n → (i, c.tls.getD i 0 + 1) ∉ c.done → c'.tls = c.tls ∧ (i, n) ∈ c'.done) ∧
    { c' with tls := c.tls, done := c.done } = c ∧ (∀ j, j ≠ i → c'.tls[j]? = c.tls[j]?) ∧
    ∀ t team, s.team? t = some team → (∃ l ∈ s.launches, l.seq = team.seq ∧ l.r.ctx = h) →
      (s.completeNumber h i n).team? t = some { team with groups := team.groups.map (fun g =>
        let seen (e : Nat × Word × BitVec 6) : Bool := e.1 == i && decide (e.2.1.toNat ≤ (c'.tls.getD i 0).toNat)
        { g with flags := g.flags ||| orAll ((g.eflags.filter seen).map (fun e => e.2.2)), eflags := g.eflags.filter (fun e => !seen e) }) }) ∧
  (∀ (s : State) t k team l op, s.team? t = some team → s.launch? team.seq = some l →
    team.mats.find? (fun m => m.num.toNat == k) = some op →
    (∀ q ∈ team.mats, ∀ y ∈ q.grps, ∀ z ∈ op.grps, y.1 = z.1 → z.2 ≤ y.2) → (∀ y ∈ team.latch, ∀ z ∈ op.grps, y.grp = z.1 → z.2 ≤ y.ord) →
    s.afKeeps team op = false → s.cmdHeld l 2 op.num = false →
    let raise (g : Nat) (f : BitVec 6) (s : State) : State := s.modGroup t g (fun g => { g with eflags := g.eflags ++ [(2, op.num, f)] })
    exec (.matrixOperationComplete t k) s = .next ((((s.performMat t op).modTeam t (fun y =>
      { y with mats := y.mats.filter (fun m => m.num != op.num) })).completeNumber l.r.ctx 2 op.num).tally team 7 op.kind.cycles) ∧
    (∀ m, op.kind = .zero m → s.performMat t op = s.modTeam t (fun y => y.setTile m (List.replicate 4096 0))) ∧
    (∀ m d, op.kind = .load m d → s.performMat t op =
      s.modTeam t (fun y => y.setTile m (chunksLe 4 4096 (s.descBytes team d (descOfs d) 16384)))) ∧
    (∀ m d, op.kind = .store m d → s.performMat t op = s.setDescBytes team d (descOfs d) ((team.tile m).flatMap (leBytes 4))) ∧
    (∀ ms, op.kind = .mma ms → s.performMat t op = ms.foldl (fun s m => s.addMember t op.num m) s) ∧
    (∀ m d fmt rm ftz ph, op.kind = .convert m d fmt rm ftz ph →
      let r := convertTile team m fmt rm ftz ph
      let w := raise ((op.grps.map Prod.fst).headD 0) r.2.2 (s.setDescBytes team d (descOfs d) r.1)
      s.performMat t op = if fmt = .bf16 then w else w.setDescBytes team d (descScale d) r.2.1)) ∧
  (∀ (s : State) t num team (m : MmaArr), s.team? t = some team →
    let pairs := (s.operand team m.mode false m.aDesc).flatMap (fun r => (s.operand team m.mode true m.bDesc).map (fun c => (r, c)))
    let rs := List.zipWith (fun e p => m.accumulate e p.1 p.2) (team.tile m.tile) pairs
    s.addMember t num m = (s.modTeam t (fun y => y.setTile m.tile (rs.map Prod.fst))).modGroup t m.grp (fun g =>
      { g with eflags := g.eflags ++ [(2, num, orAll (rs.map Prod.snd))] })) ∧
  (∀ (s : State) t k team l y, s.team? t = some team → s.launch? team.seq = some l →
    team.xfers.head? = some y → y.num.toNat = k → y.waiting = [] → s.cmdHeld l 1 y.num = false →
    let moved := y.parts.foldl (fun s u => s.moveUnit t y.num u) s
    let told := match (y.slices.head?).bind Slice.bar with | some nb => moved.transferArrive t nb y.num | none => moved
    exec (.copyTransferComplete t k) s = .next (match (moved.team? t).bind (fun z => z.xfers.find? (fun z => z.num == y.num)) with
      | some z => if z.parts = [] then (told.completeNumber l.r.ctx 1 y.num).endXfer team y.num
                  else moved.modXfer t y.num (fun z => { z with due := moved.clock + 1 })
      | none => moved)) ∧
  (∀ (s : State) t num team l y u, s.team? t = some team → s.launch? team.seq = some l →
    team.xfers.find? (fun y => y.num == num) = some y → y.waiting = [] → u ∈ y.parts →
    let s2g := (y.slices.head?.map Slice.s2g).getD false
    let meet (a n b m : Nat) : Prop := a < b + m ∧ b < a + n
    (∀ e ∈ team.exchs, e.kind = .mat → e.fail = none → e.num1.toNat < num.toNat → ¬ meet e.ofs.1 (if e.k = .z32 then 278528 else 147456) u.2.1 u.2.2) →
    (∀ k ∈ s.teams, k.seq = team.seq → k.id ≠ t → ∀ z ∈ k.xfers, z.num.toNat < num.toNat → s2g = true ∨ (z.slices.head?.map Slice.s2g).getD false = true →
      ∀ v ∈ z.parts, ¬ meet u.1.toNat u.2.2 v.1.toNat v.2.2) →
    ∀ s1 ps bad, State.reachPieces (l.space team.die) (if s2g then .write else .copyRead) (!s2g) s (rangePieces u.1 u.2.2) = (s1, ps, bad) →
    (∀ b rest, bad = b :: rest → s.moveUnit t num u =
      if replayable b.2 then (s1.missPage t l ⟨b.1, true, false, s2g, b.2, 0xFF⟩).modXfer t num (fun z => { z with waiting := [pageOf b.1.toNat] })
      else (s1.endXfer team num).terminate t 0xFF 0 0x06 b.2 0 b.1) ∧
    (bad = [] → (∀ p ∈ ps, p.1.peer = 0 → inDram p.1.pa = true → s1.asleep (homeDie p.1.pa) = false) →
      (∀ p ∈ ps, p.1.mt = 2 → ∀ k ∈ s.teams, k.seq = team.seq → k.id ≠ t → ∀ z ∈ k.xfers, num.toNat ≤ z.num.toNat) →
      (s2g = true → (∃ p ∈ ps, s1.replica? p.1.asid p.1.va ≠ none) →
        s.moveUnit t num u = ps.foldl (fun s p => s.collapseAt p.1.asid p.1.va) s1) ∧
      ((s2g = true → ∀ p ∈ ps, s1.replica? p.1.asid p.1.va = none) → ∃ missed, s.moveUnit t num u = s1.copyUnit t y u ps missed))) ∧
  (∀ (s : State) t team y u ps missed, s.team? t = some team → ∃ r : State,
    { r with shared := s.shared, flits := s.flits, dbg := s.dbg } = s.modXfer t y.num (fun z => { z with parts := z.parts.erase u }) ∧
    s.copyUnit t y u ps missed =
      if (y.slices.head?.map Slice.s2g).getD false then r.writePieces ps (Cells.slice 0 team.scratch u.2.1 u.2.2)
      else ((r.modXfer t y.num (fun z => { z with seen := z.seen ++ (r.regionsOf ps).filter (fun k => !z.seen.contains k) })).meter ps).modTeam t
        (fun y => { y with scratch := Cells.splice 0 y.scratch u.2.1 (r.pieceBytes ps) })) ∧
  (∀ (s : State) t team l op rest, s.team? t = some team → s.launch? team.seq = some l → team.scanq = op :: rest →
    s.cmdHeld l 3 op.num = false →
    let raise (f : BitVec 6) (s : State) : State := s.modGroup t op.grp (fun g => { g with eflags := g.eflags ++ [(3, op.num, f)] })
    (op.kind = .run → let y := scanRun op.cfg (scanRounding op.rnd op.ftz) team.scratch
      exec (.scanOperationComplete t) s = .next (((raise y.fl (s.modTeam t (fun x => { x with
        scratch := y.sc, aggH := channels y.h, aggP := channels y.p, scanq := rest }))).completeNumber l.r.ctx 3 op.num).tally team 8 400)) ∧
    (op.kind = .fix → let y := scanFixAll op.cfg (scanRounding op.rnd op.ftz) op.cin op.cb team.scratch
      exec (.scanOperationComplete t) s = .next (((raise y.2 (s.modTeam t (fun x => { x with scratch := y.1, scanq := rest }))).completeNumber
        l.r.ctx 3 op.num).tally team 8 70))) ∧
  (∀ (s : State) t team gi g f rest c p, s.team? t = some team → team.res = .resident → s.debugHolds team gi f.ent = false →
    team.groups.zipIdx.flatMap (fun g => (g.1.frags.filter (fun f => f.st == .blocked .scin)).map (fun f => (g.2, g.1, f))) = (gi, g, f) :: rest →
    g.scanCfg s.clock s.nonce = some c → team.chainPos = some (p + 1) →
    let set (cin : Cells Lane) (cb : Bool) (y : Team) : Team := { y with cin := cin, cv := true, cs := false, cb := cb }
    let brk : Trap := { code := 0x14, tval := BitVec.ofNat 64 p }
    (∀ q, s.carryAt team.seq (p + 1) = some q → q.due ≤ s.clock →
      let took := (s.consume q).noFlush t
      (q.cb = false → exec (.carryDelivery t) s =
        .next (((took.modTeam t (set (carried c.kind q) false)).acquire (64 * team.die + team.core)).modFrag t gi f.ent (fun f =>
          { f with pc := f.pc + 8, st := .ready, wake := max f.wake (s.clock + 1) }))) ∧
      (q.cb = true → exec (.carryDelivery t) s =
        .next ((took.modTeam t (set (identityIn c.kind) true)).takeTrap (.frag t gi f.ent) brk))) ∧
    (s.carryAt team.seq (p + 1) = none → s.isBroken team.seq p = true → exec (.carryDelivery t) s =
      .next ((s.modTeam t (set (identityIn c.kind) true)).takeTrap (.frag t gi f.ent) brk)))

/-- R240, R450: the two parties' shares recombine. Where each party has received the other's word of the serial, the shares that shmul
writes sum to the product of the recombined operands, both parties of shopen hold the recombined value, the shares of shin sum to
the owner's value and those of shtrunc to the shifted value but for the mask; the areas that gxch writes hold the same opened tiles, which with the
recombined shares A and B give the recombined operands, and the shares C of the product A · B (R242); of shsign, the triples, tables and last
shares recombine. -/
def Obligations.SharesRecombine : Prop :=
  (∀ (k : ZWidth) (a b : Exch) (u v : Nat × Nat × Nat × Nat) ta tb, a.party = 0 → b.party = 1 → a.k = k → b.k = k → a.pair = b.pair →
    a.stream = b.stream → a.epoch = b.epoch → u.1 = v.1 → a.peer u.1 = [b.payload tb v] → b.peer v.1 = [a.payload ta u] →
    let M := 2 ^ zBits k
    let x := u.2.2.1 + v.2.2.1
    let y := u.2.2.2 + v.2.2.2
    (a.kind = .mul → b.kind = .mul → (a.result u + b.result v) % M = x * y % M) ∧
    (a.kind = .open_ → b.kind = .open_ → a.result u = x % M ∧ b.result v = x % M) ∧
    (a.kind = .inp true → b.kind = .inp false → (a.result u + b.result v) % M = u.2.2.1 % M) ∧
    (a.kind = .inp false → b.kind = .inp true → (a.result u + b.result v) % M = v.2.2.1 % M) ∧
    (∀ f, a.kind = .trunc f → b.kind = .trunc f →
      ∃ r, r < M ∧ (a.result u + b.result v) % M = ((x + r) % M / 2 ^ f + M - r / 2 ^ f) % M)) ∧
  (∀ (k : ZWidth) (a b : Exch) (u v : Nat × Nat × Nat × Nat) (ta tb : Team), k = .z16 ∨ k = .z32 → a.kind = .mat → b.kind = .mat → a.party = 0 → b.party = 1 →
    a.k = k → b.k = k → a.pair = b.pair → a.stream = b.stream → a.epoch = b.epoch → u.1 = v.1 → a.peer u.1 = [b.payload tb v] → b.peer v.1 = [a.payload ta u] →
    (a.got.filter (fun g => g.1 == u.1 && g.2.1 == 0)).map (fun g => g.2.2) = [a.payload ta u] →
    (b.got.filter (fun g => g.1 == v.1 && g.2.1 == 0)).map (fun g => g.2.2) = [b.payload tb v] →
    let M := 2 ^ zBits k
    let n := zBits k / 8
    let el (y : Exch) (off i sz : Nat) : Nat := leNat (((y.area u.1).drop (off + sz * i)).take sz)
    let of (t : Team) (o i : Nat) : Nat := leNat (Cells.slice 0 t.scratch (o + n * i) n)
    let A (i : Nat) : Nat := el a (32768 * n) i n + el b (32768 * n) i n
    let B (i : Nat) : Nat := el a (49152 * n) i n + el b (49152 * n) i n
    (∀ y : Exch, y = a ∨ y = b → (y.area u.1).length = 65536 * n + 16384) ∧
    (∀ i, i < 16384 → el a 0 i n = el b 0 i n ∧ (el a 0 i n + A i) % M = (of ta a.ofs.2.1 i + of tb b.ofs.2.1 i) % M ∧
      el a (16384 * n) i n = el b (16384 * n) i n ∧ (el a (16384 * n) i n + B i) % M = (of ta a.ofs.2.2 i + of tb b.ofs.2.2 i) % M) ∧
    (∀ i, i < 4096 → (el a (65536 * n) i 4 + el b (65536 * n) i 4) % M =
      ((List.range 256).map (fun m => A (256 * (i / 64) + m) * B (256 * (i % 64) + m))).sum % M)) ∧
  (∀ k pair st serial,
    (∀ i d e x y, let t (p : Nat) := sgnTriple pair st serial p i
      d = (x != ((t 0).1 != (t 1).1)) → e = (y != ((t 0).2.1 != (t 1).2.1)) →
        (andShare 0 (t 0) d e != andShare 1 (t 1) d e) = (x && y)) ∧
    (∀ j v, let r := sgnGroup k (draw k pair st serial 0) j
      let t (p : Nat) := sgnTable k pair st serial p j v
      ((t 0).1 != (t 1).1) = decide (v < r) ∧ ((t 0).2 != (t 1).2) = decide (v = r)) ∧
    (∀ lam d e, let t (p : Nat) := sgnTriple pair st serial p (64 * lam)
      let z := drawBit pair st serial 2 != (((t 0).2.2 != (t 1).2.2) != ((d && ((t 0).2.1 != (t 1).2.1)) != (e && ((t 0).1 != (t 1).1))))
      (sgnS k lam pair st serial 0 d e + sgnS k lam pair st serial 1 d e) % 2 ^ k = (if z then 1 else 0) % 2 ^ k))

/-- R239, R243, R244, R315, R316: the words of the Strait and the Dealer. A word meets the exchange that consumed its serial, waits at the port, or
is dropped; an ABORT ends the exchange with zeros, a gxch's without a transfer arrival; a timeout and a mismatch burn the items; the Dealer tops up
the stream that runs lowest, and stops when its entropy source fails. The 1080 cycles of a gxch's area are the model's choice of a typical time (log
entry 25), and so are its units (log entry 27) and the fill at which a hand is dealt (log entry 40). -/
def Obligations.ExchangeEvents : Prop :=
  (∀ (s : State) k (ab : Bool) w, s.words.find? (fun w => w.id == k && w.abort == ab && !w.arrived && decide (w.due ≤ s.clock)) = some w →
    let i : Instr := if ab then .abort k else .straitWordArrival k
    let gone : State := { s with words := s.words.filter (fun y => y.id != w.id) }
    let port : State := { s with words := s.words.map (fun y => if y.id = w.id then { y with arrived := true } else y) }
    let h := s.hand w.pair w.stream
    (∀ tid x, s.exchOf w.pair w.stream (1 - w.party) w.serial = some (tid, x) → exec i s = .next (port.advanceExch 8 tid x.id)) ∧
    (s.exchOf w.pair w.stream (1 - w.party) w.serial = none →
      (w.serial ∈ h.burned → w.abort = true ∨ s.exchOf w.pair w.stream w.party w.serial = none → exec i s = .next gone) ∧
      (w.serial ∈ h.burned → w.abort = false → ∀ tid x, s.exchOf w.pair w.stream w.party w.serial = some (tid, x) →
        exec i s = .next (State.failExch 64 gone tid x 1 w.serial)) ∧
      (w.serial ∉ h.burned → w.serial < h.next (1 - w.party) → exec i s = .next gone) ∧
      (w.serial ∉ h.burned → h.next (1 - w.party) ≤ w.serial → exec i s = .next port))) ∧
  (∀ (s : State) n tid id t x, s.team? tid = some t → t.exchs.find? (fun x => x.id == id) = some x → x.fail = none → x.whole = none →
    x.rounds ≠ 0 → t.here = true →
    let ws := s.words.filter (fun w => w.arrived && w.pair == x.pair && w.stream == x.stream && w.party == 1 - x.party &&
      (w.abort || w.round == x.rounds) && x.items.any (fun it => it.1 == w.serial))
    let taken : State := { s with words := s.words.filter (fun w => !ws.contains w) }
    let y := { x with got := x.got ++ ws.map (fun w => (w.serial, w.round, w.payload)) }
    ((∃ w ∈ ws, w.abort = true) → s.advanceExch (n + 1) tid id = taken.endExch tid x true) ∧
    ((∀ w ∈ ws, w.abort = false ∧ s.tagsAgree x w.tag = true) → (∀ it ∈ x.items, ∃ w ∈ ws, w.serial = it.1) → x.total ≤ x.rounds →
      (x.kind ≠ .mat → s.advanceExch (n + 1) tid id = (taken.modExch tid id (fun _ => y)).endExch tid y false) ∧
      (x.kind = .mat → s.advanceExch (n + 1) tid id = (taken.modExch tid id (fun _ => y)).openArea tid y))) ∧
  (∀ (s : State) tid t l x ab, s.team? tid = some t → s.launch? t.seq = some l → x.kind ≠ .mat →
    s.endExch tid x ab = (((s.modTeam tid (fun t => { t with exchs := t.exchs.filter (fun y => y.id != x.id) })).modGroup tid x.grp (fun g => { g with
      abt := g.abt || ab
      pend := g.pend.map (fun p => if x.pend = some p.id then { p with
        writes := x.items.flatMap (fun it => putInt (zBits x.k) false (.v (Fin.ofNat 192 x.d)) it.2.1 (if ab then 0 else x.result it))
        left := 0, due := s.clock } else p) })).acquire (64 * t.die + t.core)).completeNumber l.r.ctx 4 x.num) ∧
  (∀ (s : State) tid t l x ab, s.team? tid = some t → s.launch? t.seq = some l → x.kind = .mat →
    let done := (((s.modTeam tid (fun t => { t with exchs := t.exchs.filter (fun y => y.id != x.id) })).modGroup tid x.grp (fun g => { g with
      abt := g.abt || ab
      pend := g.pend.map (fun p => if x.pend = some p.id then { p with
        writes := []
        left := 0, due := s.clock } else p) })).acquire (64 * t.die + t.core)).completeNumber l.r.ctx 4 x.num
    (ab = true ∨ x.bar = none → s.endExch tid x ab = done.completeNumber l.r.ctx 1 x.num1) ∧
    (∀ nb, ab = false → x.bar = some nb → s.endExch tid x ab = (done.transferArrive tid nb x.num1).completeNumber l.r.ctx 1 x.num1)) ∧
  (∀ (s : State) tid x, let bs := x.area ((x.items.head?.map Prod.fst).getD 0)
    ∃ us : List (Nat × List Byte), s.openArea tid x = s.modExch tid x.id (fun y => { y with parts := us, whole := some (s.clock + 1080) }) ∧
      (∀ u ∈ us, u.2.length ≤ 8) ∧
      ∀ m : Cells Byte, us.foldl (fun m u => Cells.splice 0 m u.1 u.2) m = Cells.splice 0 m x.ofs.1 bs) ∧
  (∀ (s : State) n tid x sub serial, ∀ it ∈ x.items, it.1 ∈ ((State.failExch (n + 1) s tid x sub serial).hand x.pair x.stream).burned) ∧
  (∀ (s : State) t k team y n, s.team? t = some team → team.exchs.find? (fun x => x.id == k) = some y → y.fail = none → y.whole = none →
    y.rounds ≠ 0 → y.sentAt + s.straitTimeout y.pair < s.clock →
    (y.items.find? (fun it => !(s.peerWords y).any (fun w => w.serial == it.1))).map Prod.fst = some n →
    exec (.gateTimeout t k) s = .next (State.failExch 64 s t y 3 n)) ∧
  (∀ (s : State) t gi ent team g f l since pair st n pr party, ent < 64 → s.team? t = some team → team.groups[gi]? = some g → g.frag? ent = some f →
    f.st = .blocked (.hand since pair st n) → s.launch? team.seq = some l → s.partyOf l.part = some (pr, party) →
    since + s.straitTimeout pair < s.clock →
    (s.handShort pair st party n = false → exec (.hand t (64 * gi + ent)) s = .next s) ∧
    (s.handShort pair st party n = true → exec (.hand t (64 * gi + ent)) s = .next (s.takeTrap (.frag t gi ent)
      { code := 0x0F, tval := BitVec.ofNat 64 ((s.hand pair st).settle.next party) }))) ∧
  (∀ (s : State) pair st, let c := s.streamCfg pair st
    let h := s.hand pair st
    s.dealing = true → h.off = false → 1 ≤ c.kind → c.kind < 6 → pair < s.pairs.length → min (h.fill 0) (h.fill 1) ≤ (c.high - 1) * 4096 →
    (4096 * (h.hands + 1) ≤ 2 ^ 64 →
      ((∀ q ∈ s.wanting, s.lowFill (pair, st) ≤ s.lowFill q) → exec (.handDeal pair st) s = .next (s.setHand { h with hands := h.hands + 1 })) ∧
      ((∃ q ∈ s.wanting, s.lowFill q < s.lowFill (pair, st)) → exec (.handDeal pair st) s = .next s)) ∧
    (2 ^ 64 < 4096 * (h.hands + 1) → exec (.handDeal pair st) s = .next s)) ∧
  (∀ s : State, exec .entropyHealthFailure s = .next { s with
    dealing := false
    sec := { s.sec with log := s.sec.log ++ [⟨s.clock, 5, 0, 1⟩], alarm := max s.sec.alarm 1 } })

/-! ### Launches -/

/-- R82-R87, R250, R261, R298, R329-R332: the life of a launch. It becomes ready once its dependences hold, ages while it waits, and a dispatcher
places its spans; a placed team starts with its arguments and an empty register file; a team retires once its groups have ended and its engines are idle;
the launch retires with its last span, and raises its timeline. What a dispatcher's pass is, when it ends and what then settles the front of the queue
is the model's choice (log entry 77). -/
def Obligations.LaunchLife : Prop :=
  (∀ (s : State) seq l, s.launch? seq = some l → l.st = .waiting → (∀ d ∈ l.deps, d.2.2.toNat ≤ (s.timeline d.1 d.2.1).toNat) →
    exec (.launchReady seq) s = .next (s.modLaunch seq (fun l => { l with st := .ready, readyAt := s.clock, aged := 0 }))) ∧
  (∀ (s : State) seq l, s.launch? seq = some l → l.st = .ready → min 15 (l.r.prio + l.aged) < 15 →
    max l.readyAt (l.placedAt.getD 0) + (l.aged + 1) * (4000 * us) ≤ s.clock →
    exec (.aging seq) s = .next (s.modLaunch seq (fun l => { l with aged := l.aged + 1 }))) ∧
  (∀ (s : State) die l p xs, s.candidate die = some (l, p) → s.heldFirst l = none → l.r.resid = false → s.fitSpan l p die = some xs →
    exec (.dispatch die) s = .next { s.placeSpan l p xs with
      launches := (s.placeSpan l p xs).launches.map Launch.settleFront, passes := (s.placeSpan l p xs).passes.filter (fun v => v.die != die) }) ∧
  (∀ (s : State) die l p t, s.candidate die = some (l, p) → s.heldFirst l = none → l.r.resid = true → s.residents < 4 →
    s.placeAll l.seq (s.spansFor l die) = some t → exec (.dispatch die) s = .next { t with
      launches := t.launches.map Launch.settleFront, passes := t.passes.filter (fun v => v.die != die) }) ∧
  (∀ (s : State) die, s.candidate die = none ∨
      (∃ l p, s.candidate die = some (l, p) ∧ s.heldFirst l = none ∧ l.r.resid = false ∧ s.fitSpan l p die = none) ∨
      (∃ l p, s.candidate die = some (l, p) ∧ s.heldFirst l = none ∧ l.r.resid = true ∧ (4 ≤ s.residents ∨ s.placeAll l.seq (s.spansFor l die) = none)) →
    exec (.dispatch die) s = .next { s with
      passes := s.passes.filter (fun v => v.die != die) ++ [s.passOf die]
      launches := s.launches.map (fun l => if s.spansFor l die = [] then l else { l with front := false }) }) ∧
  (∀ (s : State) (l : Launch) (p : Span) idx half die core, p.st ≠ .saved →
    s.placeTeam l p (idx, half, die, core) = { s.acquire (64 * die + core) with
      teams := (s.acquire (64 * die + core)).teams ++ [l.startTeam (s.acquire (64 * die + core)).clock (s.acquire (64 * die + core)).nextId p.idx idx half die core]
      nextId := (s.acquire (64 * die + core)).nextId + 1 }) ∧
  (∀ (l : Launch) now id sp idx half die core, let t := l.startTeam now id sp idx half die core
    t.groups.length = l.r.groups ∧ t.scratch = [] ∧ t.acc = [] ∧ t.pages = [] ∧ t.res = .resident ∧
    t.chainPos = (if l.r.chain then some (sp * l.r.teams + idx) else none) ∧
    (∀ gi g, t.groups[gi]? = some g → l.argv.length = 8 →
      (∀ n, g.raw (.s n) = if n < 8 then l.argv.getD n 0 else if n = 8 then l.r.args else 0) ∧
      (∀ n i, g.raw (.v n i) = 0) ∧ (∀ n i, n ≠ 0 → g.raw (.p n i) = 0) ∧ g.mode = l.r.mode ∧ g.flags = 0 ∧ g.exited = 0 ∧
      g.launched = lanesBelow (l.r.launchedOf gi) ∧ g.joins = [] ∧ g.held = [] ∧ g.flights = [] ∧ g.pend = [] ∧ g.handler = none ∧
      ∃ f, g.frags = [f] ∧ f.ent = 0 ∧ f.mask = g.launched ∧ f.pc = l.r.entry ∧ f.join = none ∧ f.st = .ready)) ∧
  (∀ (s : State) t y, s.team? t = some y → y.here = true → (∀ g ∈ y.groups, g.launched &&& ~~~g.exited = 0) → y.mats = [] → y.xfers = [] → y.scanq = [] →
    y.exchs = [] → y.latch = [] → y.copyLatch = [] → (∀ g ∈ y.groups, g.pend = [] ∧ g.flights = []) → (∀ m ∈ s.msgs, m.team ≠ y.id) →
    exec (.teamRetirement t) s = .next ((s.combDrop y).dropTeam y .retired true) ∧
    ∃ z, ((s.combDrop y).dropTeam y .retired true).team? t = some z ∧ z.res = .retired ∧
      ∀ p, y.chainPos = some p → ⟨y.seq, p⟩ ∈ ((s.combDrop y).dropTeam y .retired true).broken) ∧
  (∀ (s : State) seq l, s.launch? seq = some l → l.st = .ready → (∀ p ∈ l.spans, s.spanOver l.seq p = true) →
    (∀ t ∈ s.teams, t.seq = l.seq → s.enginesIdle l t = true) → (∀ p ∈ s.homeOps, ∀ t ∈ s.teams, t.seq = l.seq → t.id ≠ p.team) →
    (∀ d, s.dbgOf l = some d → d.susp = []) →
    ∃ t l', exec (.launchRetirement seq) s = .next t ∧ t.launch? seq = some l' ∧ l'.st = .retired ∧ l'.spans = [] ∧ l'.status = l.status ∧
      (∀ y ∈ t.teams, y.seq ≠ seq) ∧ (∀ y ∈ t.chain, y.seq ≠ seq) ∧ (∀ e ∈ t.sec.saves, e.seq ≠ seq) ∧ (∀ q ∈ t.queues, q.seq ≠ seq) ∧
      ∀ c, s.ctx? l.r.ctx = some c → c.signal = false → c.stream = l.stream → l.r.sigtl ∈ [0, 6, 7] → l.r.sigtl < c.tls.length →
        l.r.sigval.toNat ≤ (t.timeline l.r.ctx l.r.sigtl).toNat)

/-- R334-R341, R358, R379: pre-emption. A request chooses the cheapest action in its bound on the resident spans of a launch; a save
writes the images and frees the cores, a flush discards the teams, a drain that expires is decided again; SMPREQ pre-empts, kills and
restores; a launch over its link share is throttled; a scrubbed core is empty. The phase of the link-share windows is the model's choice (log entry
45), and so are what a switch-out leaves where no image finds a place (log entry 47) and what becomes of a chosen flush that is no longer allowed
(log entry 50). -/
def Obligations.Preemption : Prop :=
  (∀ (s : State) die c q l p, s.heldCandidate die = some (c, q) → max c.readyAt (c.placedAt.getD 0) + 1000 * us ≤ s.clock → s.dieQuiet die = true →
    s.victim die c = some (l, p) → exec (.priorityPreemption die) s = .next ((s.request l.seq (some p.idx) l.r.plat .asked).modSpan l.seq p.idx
      (fun y => if y.action.isSome then { y with byDie := some die } else y))) ∧
  (∀ (s : State) die, s.dieQuiet die = true ↔ ∀ l ∈ s.launches, ∀ p ∈ l.spans, p.action = none ∨ p.byDie ≠ some die) ∧
  (∀ (s : State) die (c : Launch),
    let may (l : Launch) (p : Span) : Prop := l ∈ s.launches ∧ p ∈ l.spans ∧ l.seq ≠ c.seq ∧ l.part = c.part ∧ l.r.prio < min 15 (c.r.prio + c.aged) ∧
      p.st = .resident ∧ s.spanOver l.seq p = false ∧ (∀ t, p.restoredAt = some t → t + 4000 * us ≤ s.clock) ∧
      ∃ t ∈ s.teams, t.seq = l.seq ∧ t.span = p.idx ∧ t.here = true ∧ t.die = die
    (∀ l p, s.victim die c = some (l, p) → may l p ∧ ∀ m q, may m q → l.r.prio < m.r.prio ∨ l.r.prio = m.r.prio ∧ m.placedAt.getD 0 ≤ l.placedAt.getD 0) ∧
    ((∃ l p, may l p) → s.victim die c ≠ none)) ∧
  (∀ (s : State) (l : Launch) (ts : List Team) sizes drain, ts ≠ [] →
    let age (t : Team) : Nat := s.clock - t.since
    let left (t : Team) : Nat := 256 * (l.r.dur * us - age t)
    let B := l.r.groups * l.r.width * l.r.vregs * 4 + l.r.groups * l.r.width * l.r.lmemBytes + 256 * l.r.scr + 4096 +
      (if ∃ g, g < l.r.groups ∧ l.r.roleCode g = 1 then 786432 else 0)
    let most (f : Team → Nat) (k : Nat) : Prop := (∀ t ∈ ts, f t ≤ k) ∧ ∃ t ∈ ts, f t = k
    (∀ r ∈ s.ratings l ts sizes drain,
      (r.act = 0 ∧ drain = true ∧ r.lam = r.cost ∧ (l.r.dur = 0 → r.cost = none) ∧ (l.r.dur ≠ 0 → ∃ k, r.cost = some k ∧ most left k)) ∨
      r = ⟨1, some (256 * B / 64), some (256 * B / 64)⟩ ∨
      (l.r.rst = true ∧ (∀ t ∈ s.teams, t.seq = l.seq → t.noFlush = false) ∧ ∃ k, r = ⟨2, some (256 * B / 256), some k⟩ ∧ most (fun t => 256 * age t) k)) ∧
    (drain = true → ∃ r ∈ s.ratings l ts sizes drain, r.act = 0) ∧
    (l.r.rst = true → (∀ t ∈ s.teams, t.seq = l.seq → t.noFlush = false) → ∃ r ∈ s.ratings l ts sizes drain, r.act = 2)) ∧
  (∀ (s : State) seq span l, s.launch? seq = some l → (∃ p ∈ l.spans, p.idx = span ∧ p.st = .resident ∧ p.action = none) → s.spanIdle l span = true →
    s.idleWanted l span = true → exec (.spanIdle seq span) s = .next (s.request seq (some span) l.r.plat .idle)) ∧
  (∀ (s : State) seq sp L why l, s.launch? seq = some l → l.st = .ready → s.requestSpans l sp ≠ [] →
    ((∀ p ∈ l.spans, p.idx ∈ s.requestSpans l sp → p.action = none) → s.request seq sp L why =
      s.act seq (s.requestSpans l sp) why L (chooseAction (s.ratings l (s.requestTeams seq (s.requestSpans l sp)).1
        (s.requestTeams seq (s.requestSpans l sp)).2 true) L)) ∧
    ((∃ p ∈ l.spans, p.idx ∈ s.requestSpans l sp ∧ p.action ≠ none) → s.request seq sp L why = s.hasten seq (s.requestSpans l sp) L)) ∧
  (∀ rs L a, chooseAction rs L = some a → ∃ r ∈ rs, r.act = a ∧
    ((∃ q ∈ rs, figLe q.lam (some (L * us * 256)) = true) →
      figLe r.lam (some (L * us * 256)) = true ∧ ∀ q ∈ rs, figLe q.lam (some (L * us * 256)) = true → figLe r.cost q.cost = true) ∧
    ((∀ q ∈ rs, figLe q.lam (some (L * us * 256)) = false) → ∀ q ∈ rs, figLe r.lam q.lam = true)) ∧
  (∀ (s : State) seq span l p u b, s.launch? seq = some l → l.spans.find? (fun p => p.idx == span) = some p → p.action = some (.drain u b) →
    u < s.clock → exec (.drainExpiry seq span) s = .next (s.redecide seq)) ∧
  (∀ (s : State) seq span l p, s.launch? seq = some l → l.spans.find? (fun p => p.idx == span) = some p → p.due ≤ s.clock →
    (∀ t ∈ s.teams, t.seq = seq → t.span = span → t.res = .stopping → s.teamQuiet t = true) →
    let ts := s.teams.filter (fun t => t.seq == seq && t.span == span && t.res == .stopping)
    (p.action = some .save → (l.r.resid = true → ∀ q ∈ l.spans, q.action = some .save → s.saveDone seq q = true) → ∃ t, exec (.saveComplete seq span) s = .next t ∧
      (∀ y ∈ ts, ∀ z ∈ t.teams, z.id = y.id → z.res = .saved) ∧
      ∀ l', t.launch? seq = some l' → ∀ q ∈ l'.spans, q.idx = span → q.st = .saved ∧ q.action = none) ∧
    (p.action = some .flush → (l.r.resid = true → ∀ q ∈ l.spans, q.action = some .flush → s.flushDone seq q = true) → l.r.rst = true →
      (∀ y ∈ s.teams, y.seq = l.seq → y.noFlush = false) → ∃ t, exec (.flushComplete seq span) s = .next t ∧ (∀ y ∈ ts, ∀ z ∈ t.teams, z.id ≠ y.id) ∧
      (∀ slot a, t.byteAt slot a = s.byteAt slot a) ∧
      ∀ l', t.launch? seq = some l' → ∀ q ∈ l'.spans, q.idx = span → q.st = .flushed ∧ q.action = none)) ∧
  (∀ (t : Team) (now die core gi : Nat) (g : Group), t.groups[gi]? = some g → ∃ h : Group, (t.saved.restored now die core).groups[gi]? = some h ∧
    { h with frags := g.settle.frags, rst := g.settle.rst, afWait := g.settle.afWait } = g.settle ∧ h.rst = true ∧ h.afWait = [] ∧
    h.frags.map (fun f => (f.ent, f.mask, f.pc, f.join, f.age)) = g.frags.map (fun f => (f.ent, f.mask, f.pc, f.join, f.age))) ∧
  (∀ (s : State) t g e y x f l since pages, s.team? t = some y → y.groups[g]? = some x → x.frag? e = some f → f.st = .blocked (.parked since pages) →
    s.launch? y.seq = some l → y.res = .resident → l.r.park ≠ 0 → since + l.r.park * us < s.clock → s.stoppedNow y.seq = false →
    exec (.parkLimitExpiry t g e) s = .next (s.switchOut y)) ∧
  (∀ (s : State) began, (s.clock < s.winAt + 100 * us ∨ began ≠ s.winAt → exec (.linkShareWindow began) s = .next s) ∧
    (s.winAt + 100 * us ≤ s.clock → exec (.linkShareWindow s.winAt) s = .next { s with
      winAt := s.clock
      flits := []
      launches := s.launches.map (fun l =>
        let share := (s.hreg .control (0x300 + 8 * l.r.eclass)).toNat % 256
        { l with throttled := decide (share ≠ 0 ∧ share * (s.linkTraffic l).2 < 256 * (s.linkTraffic l).1) }) })) ∧
  (∀ (s : State) die core, (∃ c ∈ s.sec.scrubCore, c.1 = die ∧ c.2.1 = core) → (∀ i, s.islands[3 * die]? = some i → i.st = 0) →
    exec (.coreScrubComplete die core) s = .next { s with
      sec := { s.sec with
        scrubCore := s.sec.scrubCore.filter (fun c => !(c.1 == die && c.2.1 == core))
        dgate := s.sec.dgate.filter (fun c => c != (die, core)) }
      l1 := s.l1.filter (fun y => y.core != 64 * die + core) }) ∧
  (∀ (s : State) st v x l, s.streams[st]? = some x → s.launch? x.pseq.toNat = some l → l.part = x.part → l.st ≠ .retired →
    (v.toNat / 2 ^ 32 % 4 = 0 → exec (.preempt st v) s = .next (s.request l.seq none (v.toNat % 2 ^ 32) .asked)) ∧
    (v.toNat / 2 ^ 32 % 4 = 1 → ∃ t l', exec (.kill st v) s = .next t ∧ t.launch? l.seq = some l' ∧ l'.status = (if l.status = 0 then 6 else l.status) ∧
      (∀ p ∈ l'.spans, p.st = .done ∧ p.action = none) ∧ (∀ y ∈ t.teams, y.seq = l.seq → y.res = .terminated ∨ y.res = .retired)) ∧
    (v.toNat / 2 ^ 32 % 4 = 2 → (∃ p ∈ l.spans, p.st = .saved) →
      exec (.restoreNow st v) s = .next (s.modLaunch l.seq (fun l => { l with front := true }))))

/-! ### The register window -/

/-- R3, R388, R393, R394, R445: a write through a path that does not reach a register changes nothing; one to a locked register turns
the TDI to ERROR, which ends the partition's launches, stops its queue, closes its streams and raises an alarm; otherwise a
plain register takes its writable bits. A read answers with the register, all ones through the VF of a partition that does not exist, 0 where
the path does not reach, and a withheld reading is audited; over a dead link there is no answer (R391). That the audit record's OFF is the offset in
the register block is the model's choice (log entry 63), and so are the form of a sensor's reading (log entry 21) and which paths reach what the owner
session alone may write (log entry 43). -/
def Obligations.RegistersAndPaths : Prop :=
  (∀ (s : State) path b off v, off % 8 ≠ 0 ∨ s.reaches path b off = false → exec (.registerWrite path b off v) s = .next s) ∧
  (∀ (s : State) path b off v p, off % 8 = 0 → b ≠ .debug → s.reaches path b off = true → s.lockOf b off = some p → s.isLocked p = true →
    exec (.registerWrite path b off v) s = .next (s.enterError p)) ∧
  (∀ (s : State) p, let t := s.enterError p
    (p < s.sec.tdi.length → t.tdiOf p = .error) ∧ t.sec.cins = s.sec.cins.filter (fun c => c.part != p) ∧
    (∀ q, s.sec.queues[p]? = some q → t.sec.queues[p]? = some { q with stop := true }) ∧
    ⟨s.clock, 3, p, 1⟩ ∈ t.sec.log ∧ 1 ≤ t.sec.alarm ∧
    ((s.launches.map Launch.seq).Nodup → ∀ l ∈ t.launches, l.part = p → l.st ≠ .retired → l.status ≠ 0 ∧ ∀ q ∈ l.spans, q.st = .done)) ∧
  (∀ (s : State) path off v, s.Takes path .control (0x300 + 8 * off) → off < 8 →
    exec (.registerWrite path .control (0x300 + 8 * off) v) s = .next (s.put .control (0x300 + 8 * off) 0xFF v)) ∧
  (∀ (s : State) path st v, st < 8 →
    (s.Takes path .control (0x40 * st + 0x08) → exec (.registerWrite path .control (0x40 * st + 0x08) v) s =
      .next (s.modStream st (fun x => { x with arg := v }))) ∧
    (s.Takes path .control (0x40 * st + 0x10) → exec (.registerWrite path .control (0x40 * st + 0x10) v) s =
      .next (s.modStream st (fun x => { x with ctab := v &&& 0xFFFFFFFFFFFFFFC0 }))) ∧
    (s.Takes path .control (0x40 * st + 0x30) → exec (.registerWrite path .control (0x40 * st + 0x30) v) s =
      .next (s.modStream st (fun x => { x with pseq := v }))) ∧
    (s.Takes path .control (0x200 + 8 * st) → exec (.registerWrite path .control (0x200 + 8 * st) v) s =
      .next (s.modStream st (fun x => if x.st = .idle then { x with part := v.toNat / 2 ^ 16 % 4, asid := v.toNat % 2 ^ 12 } else x)))) ∧
  (∀ (s : State) path p v, p < 4 →
    (s.Takes path .sec (0x100 * p + 8) → exec (.registerWrite path .sec (0x100 * p + 8) v) s =
      .next (s.put .sec (0x100 * p + 8) 0xFFFFFFFFFFFFFFFF v)) ∧
    (s.Takes path .sec (0x1400 + 8 * p) → exec (.registerWrite path .sec (0x1400 + 8 * p) v) s =
      .next (if path = .owner p then s.put .sec (0x1400 + 8 * p) 0xF v else s)) ∧
    (path ≠ .owner p → exec (.registerWrite path .debug (0x400 * p) v) s = .next s) ∧
    (path = .owner p → s.reaches path .debug (0x400 * p) = true → exec (.registerWrite path .debug (0x400 * p) v) s =
      .next (if s.isLocked p then s.enterError p else s.put .debug (0x400 * p) 3 v)) ∧
    (s.Takes path .hostLink (0x80 * p) → exec (.registerWrite path .hostLink (0x80 * p) v) s =
      .next (s.modQueue p (fun q => if q.cfg.getLsbD 63 then q else { q with base := v &&& 0xFFFFFFFFFFFFF00F })))) ∧
  (∀ (s : State) path b off, (∀ link q, path = .vf link q → s.hasPart q = true) →
    (s.linkUp path = false → exec (.withheldRead path b off) s = .next s) ∧
    (s.linkUp path = true → off % 8 ≠ 0 ∨ s.reaches path b off = false → exec (.withheldRead path b off) s = .next { s with out := s.out ++ [.value path 0] }) ∧
    (∀ p, p < 4 → b = .sec → off = 0x1018 + 0x40 * p → s.reaches path b off = true →
      (p ∉ s.sec.counted ∨ s.answered p 2 path = true → exec (.withheldRead path b off) s = .next { s with out := s.out ++ [.value path (s.hreg .sec off)] }) ∧
      (p ∈ s.sec.counted → s.answered p 2 path = false → ∃ a, exec (.withheldRead path b off) s = .next { s with
        out := s.out ++ [.value path 0]
        sec := { s.sec with audit := a } } ∧ ∃ r ∈ a, r.part = p ∧ r.kind = 1 ∧ r.off = off)) ∧
    (off % 8 = 0 → s.reaches path b off = true → b ≠ .debug → b ≠ .sensor → (b = .sec → off < 0x1000 ∨ 0x1100 ≤ off ∨ off % 0x40 ≠ 0x18) → ∃ v, exec (.withheldRead path b off) s =
      .next { s with out := s.out ++ [.value path v] } ∧
      (b = .power → off < 0x40 → v = s.hreg .power off) ∧ (b = .config → v = s.hreg .config off) ∧ (b = .sec → off % 0x100 = 8 → off < 0x400 → v = s.hreg .sec off)) ∧
    (∀ d k, d < 8 → k < 0x38 → b = .sensor → off = 0x100 * d + k → off % 8 = 0 → s.reaches path b off = true →
      (s.answered (s.partOf d) 0 path = true → exec (.withheldRead path b off) s =
        .next { s with out := s.out ++ [.value path (Config.sensor s.nonce off &&& 0x7FFFFFFFFFFFFFFF)] }) ∧
      (s.answered (s.partOf d) 0 path = false → ∃ a, exec (.withheldRead path b off) s = .next { s with
          out := s.out ++ [.value path 0x8000000000000000]
          sec := { s.sec with audit := a } } ∧
        ∃ r ∈ a, r.part = s.partOf d ∧ r.kind = 1 ∧ r.off = off))) ∧
  (∀ (s : State) link q b off, s.hasPart q = false → link ∉ s.sec.ideDead →
    exec (.withheldRead (.vf link q) b off) s = .next { s with out := s.out ++ [.value (.vf link q) 0xFFFFFFFFFFFFFFFF] })

/-! ### Keys, streams and copy-in queues -/

/-- R370-R373, R376, R378, R395-R397: key commands and stream commands. CREATE and IMPORT fill the lowest free slot and return a handle that
passes the four tests; RETIRE frees the slot or leaves it RETIRING; a scrub makes a range read zero under its slot; OPEN, CLOSE and QUERY act
on the named stream; a GO while BUSY only sets STAT. BADARG once a level-3 alarm has erased the keys or by another path than the TDI's, and NOSLOT
before the unwrapping of an IMPORT are the model's choice (log entry 56); so is what unwrap tests, and in which order (log entry 57). -/
def Obligations.KeysAndStreams : Prop :=
  (∀ (s : State) p path, s.Takes path .sec (0x100 * p) →
    let off := 0x100 * p
    let go (op : Nat) : State := s.put .sec off 0xF (BitVec.ofNat 64 op)
    ((s.hreg .sec off).getLsbD 63 = true → ∀ i, i = .keyCreate p path ∨ i = .keyImport p path ∨ i = .keyRetire p path ∨ i = .scrub p path →
      exec i s = .next (s.put .sec off 0x00FF000000000000 (BitVec.ofNat 64 (3 * 2 ^ 48)))) ∧
    ((s.hreg .sec off).getLsbD 63 = false → s.sec.erased = true ∨ s.doorOpen p path = false →
      ∀ i op, (i, op) ∈ [(Instr.keyCreate p path, 1), (.keyImport p path, 2), (.keyRetire p path, 3), (.scrub p path, 4)] →
        exec i s = .next ((go op).ended .sec off 2 false)) ∧
    ((s.hreg .sec off).getLsbD 63 = false → s.sec.erased = false → s.doorOpen p path = true →
      ((go 1).freeSlotOf = none → exec (.keyCreate p path) s = .next ((go 1).ended .sec off 1 false)) ∧
      (∀ n, (go 1).freeSlotOf = some n → exec (.keyCreate p path) s = .next ((go 1).bindSlot p n [])) ∧
      ((go 2).freeSlotOf = none → exec (.keyImport p path) s = .next ((go 2).ended .sec off 1 false)) ∧
      (∀ n, (go 2).freeSlotOf = some n →
        ((go 2).unwrap p 0 ((go 2).hreg .sec (off + 8)) = none → exec (.keyImport p path) s = .next ((go 2).ended .sec off 4 false)) ∧
        (∀ raw t, (go 2).unwrap p 0 ((go 2).hreg .sec (off + 8)) = some (raw, t) → exec (.keyImport p path) s = .next (t.bindSlot p n raw))) ∧
      (let h := (go 3).hreg .sec (off + 8);
        ((go 3).handleNames p h = true → exec (.keyRetire p path) s = .next (((go 3).retireSlot (h.toNat / 2 ^ 20 % 2 ^ 10)).ended .sec off 0 false)) ∧
        ((go 3).handleNames p h = false → exec (.keyRetire p path) s = .next ((go 3).ended .sec off 2 false))) ∧
      (let t := go 4; let base := (t.hreg .sec (off + 8)).toNat; let size := (t.hreg .sec (off + 0x10)).toNat % 2 ^ 6;
        let slot := (t.hreg .sec (off + 0x10)).toNat / 2 ^ 16 % 2 ^ 10;
        let good : Prop := (12 ≤ size ∧ size ≤ 36 ∧ base % 2 ^ size = 0 ∧ (slot = 0 ∨ (t.keySlot slot).st = .live ∧ (t.keySlot slot).part = p) ∧
          t.inPartDram p base (2 ^ size) = true ∧ ∀ a, t.saveArea p = some a → framesMeet base (2 ^ size) a.1 a.2 = false);
        (¬ good → exec (.scrub p path) s = .next (t.ended .sec off 2 false)) ∧
        (good → ∃ due, exec (.scrub p path) s = .next (({ t with
          sec := { t.sec with scrubs := t.sec.scrubs ++ [⟨p, slot, base, size, due⟩] }
          tlb := t.tlb.filter (fun y => Word.peer y.leaf != 0 || !framesMeet (Word.addr y.leaf) (2 ^ y.sizeLog) base (2 ^ size))
          walks := t.walks.filter (fun w => !framesMeet (Word.addr w.entry) 4096 base (2 ^ size) && !framesMeet w.pa 8 base (2 ^ size)) } :
            State).ended .sec off 0 true))))) ∧
  (∀ (s : State) p n raw, Cells.wf freeSlot s.sec.slots = true → p < 4 → 0 < n → n < 1024 → (s.keySlot n).gen < 2 ^ 20 →
    let t := s.bindSlot p n raw
    (t.keySlot n).st = .live ∧ (t.keySlot n).part = p ∧ (t.keySlot n).gen = (s.keySlot n).gen ∧ (t.keySlot n).raw = raw ∧
      t.handleOk p (t.handleOf n) = true ∧ ∀ m, m ≠ n → t.keySlot m = s.keySlot m) ∧
  (∀ (s : State) n, Cells.wf freeSlot s.sec.slots = true →
    (s.slotUsed n = true → (s.retireSlot n).keySlot n = { s.keySlot n with st := .retiring }) ∧
    (s.slotUsed n = false → ((s.retireSlot n).keySlot n).st = .free ∧ ((s.retireSlot n).keySlot n).gen = (s.keySlot n).gen + 1) ∧
    (s.retireSlot n).sec.cins = s.sec.cins.filter (fun c => c.slot != n) ∧ ∀ m, m ≠ n → (s.retireSlot n).keySlot m = s.keySlot m) ∧
  (∀ (s : State) p x, s.sec.scrubs.find? (fun x => x.part == p) = some x → x.due ≤ s.clock →
    (∀ q ∈ s.homeOps, q.loc.peer = 0 → framesMeet q.loc.pa q.n x.base (2 ^ x.sizeLog) = false) →
    (∀ q ∈ s.sec.queues, ∀ d ∈ q.descs, ∀ c ∈ d.locs, c.1.peer = 0 → framesMeet c.1.pa c.2 x.base (2 ^ x.sizeLog) = false) →
    exec (.scrubComplete p) s = .next (((s.zeroFrames x.slot x.base (2 ^ x.sizeLog)).modSec (fun y => { y with
      scrubs := y.scrubs.erase x })).ended .sec (0x100 * p) 0 false) ∧
    (s.MemOk → 64 ≤ 2 ^ x.sizeLog → x.base % 64 = 0 → ∀ a, let t := s.zeroFrames x.slot x.base (2 ^ x.sizeLog)
      (x.base ≤ a → a < x.base + 2 ^ x.sizeLog → t.byteAt x.slot a = 0) ∧
      (a < x.base ∨ x.base + 2 ^ x.sizeLog ≤ a → ∀ slot, t.byteAt slot a = s.byteAt slot a))) ∧
  (∀ (s : State) p path, s.Takes path .sec (0x400 + 0x40 * p) → (s.hreg .sec (0x400 + 0x40 * p)).getLsbD 63 = false → s.sec.erased = false →
    s.doorOpen p path = true →
    let off := 0x400 + 0x40 * p
    let go (op : Nat) : State := s.put .sec off 0xF (BitVec.ofNat 64 op)
    let sid := (s.hreg .sec (off + 0x18)).toNat % 2 ^ 32
    let h := s.hreg .sec (off + 0x10)
    let n := h.toNat / 2 ^ 20 % 2 ^ 10
    let open_ := s.cin? p sid
    Cells.wf 0 s.hregs = true →
    (sid = 0 ∨ open_ ≠ none ∨ s.handleOk p h = false → exec (.streamOpen p path) s = .next ((go 1).ended .sec off 2 false)) ∧
    (sid ≠ 0 → open_ = none → s.handleOk p h = true →
      (64 ≤ (s.sec.cins.filter (fun c => c.part == p)).length → exec (.streamOpen p path) s = .next ((go 1).ended .sec off 1 false)) ∧
      ((s.sec.cins.filter (fun c => c.part == p)).length < 64 →
        ((go 1).unwrap p 1 (s.hreg .sec (off + 8)) = none → exec (.streamOpen p path) s = .next ((go 1).ended .sec off 4 false)) ∧
        (∀ raw t, (go 1).unwrap p 1 (s.hreg .sec (off + 8)) = some (raw, t) → exec (.streamOpen p path) s =
          .next ((t.modSec (fun y => { y with cins := y.cins ++ [⟨p, sid, n, (t.keySlot n).gen, 0, raw.take 32⟩] })).ended .sec off 0 false)))) ∧
    (open_ = none → exec (.streamClose p path) s = .next ((go 2).ended .sec off 2 false) ∧
      exec (.streamQuery p path) s = .next ((go 3).ended .sec off 2 false)) ∧
    (∀ c, open_ = some c →
      exec (.streamClose p path) s = .next (((go 2).modSec (fun y => { y with cins := y.cins.filter (fun z => z != c) })).ended .sec off 0 false) ∧
      exec (.streamQuery p path) s = .next (((go 3).setHreg .sec (off + 0x20) (BitVec.ofNat 64 c.last)).ended .sec off 0 false)))

/-- R291, R293, R376, R398-R404, R407, R414, R424, R436: copy-in queues and the host's physical accesses. HQTAIL hands descriptors over, HQCFG enables
and disables the queue; a fetched descriptor takes its number and is checked; a complete one writes what is left of its bytes, each unit after
those of earlier descriptors of its context at its place, its status, and advances HEAD and its timeline; physical accesses are served under
slot 0. The descriptors of a disabled queue, the stop with WHY 3 at a fetch, when each check is made and the status 6 of a descriptor whose peer
is lost are the model's choice (log entry 59); the units are log entry 27. -/
def Obligations.HostQueuesAndPhysical : Prop :=
  (∀ (s : State) p v path, s.Takes path .hostLink (0x80 * p + 0x10) →
    (s.doorOpen p path = false → exec (.hqtailWrite p v path) s = .next s) ∧
    (s.doorOpen p path = true → exec (.hqtailWrite p v path) s = .next (s.modQueue p (fun q =>
      if q.cfg.getLsbD 63 = true ∧ q.stop = false ∧ (v.toNat < q.tail ∨ q.head + 2 ^ (q.base.toNat % 16) < v.toNat) then
        { q with tail := v.toNat, stop := true, why := 1 }
      else { q with tail := v.toNat })))) ∧
  (∀ (s : State) p v path, s.Takes path .hostLink (0x80 * p + 8) → exec (.hqcfgWrite p v path) s = .next (s.modQueue p (fun q =>
    if q.cfg.getLsbD 63 then
      (if v.getLsbD 63 then q
       else { q with cfg := q.cfg &&& 0x7FFFFFFFFFFFFFFF, descs := (q.descs.filter (fun d => !d.done)).map (fun d => { d with old := true }) })
    else if v.getLsbD 63 then { q with cfg := v &&& 0x800000000FFFFFFF, head := 0, tail := 0, fetch := 0, why := 0, stop := false }
    else { q with cfg := v &&& 0x800000000FFFFFFF }))) ∧
  (∀ (s : State) p err q, s.tdiLink p ∉ s.sec.ideDead → s.sec.queues[p]? = some q → q.cfg.getLsbD 63 = true → q.stop = false → q.fetch < q.tail →
    (q.descs.filter (fun d => !d.done)).length < 4 → (∀ d ∈ q.descs, d.status ≠ none ∨ d.old = true) →
    let ctx := q.cfg.toNat % 2 ^ 16
    (s.cinCtx p ctx = false → exec (.descriptorFetch p err) s = .next (s.modQueue p (fun q => { q with stop := true, why := 3 }))) ∧
    (s.cinCtx p ctx = true → err = .desc → exec (.descriptorFetch p err) s = .next (s.modQueue p (fun q => { q with stop := true, why := 2 }))) ∧
    (s.cinCtx p ctx = true → err ≠ .desc →
      let ring := q.base.toNat / 2 ^ 12 * 2 ^ 12 + 64 * (q.fetch % 2 ^ (q.base.toNat % 16))
      let num := s.nextNumber ctx 5
      let d : CinDesc := ⟨q.fetch, ring, num, ctx, hostRead s.hostMem ring 64, err, none, [], [], s.clock, false, false⟩
      let u := ((s.traceFetch p ctx num).takeNumber ctx 5).modQueue p (fun q => { q with fetch := q.fetch + 1, descs := q.descs ++ [d] })
      (u.ecb p ctx 5 num = none → exec (.descriptorFetch p err) s = .next (u.checkDesc p (q.cfg.toNat / 2 ^ 16 % 2 ^ 12) d)) ∧
      (u.ecb p ctx 5 num ≠ none → exec (.descriptorFetch p err) s = .next (u.holdCommand p ctx 5 num)))) ∧
  (∀ (s : State) p asid d,
    (d.badFormat = true → s.checked p asid d = (s, 5, [], [])) ∧
    (d.badFormat = false → d.enc = true → s.cin? p d.sid = none → s.checked p asid d = (s, 4, [], [])) ∧
    (∀ c, d.enc = true → s.cin? p d.sid = some c →
      (d.ctr ≤ c.last → s.takeRecord p d (some c) = (s.logAlarm 2 d.sid 1 (some p), 2, [])) ∧
      (c.last < d.ctr → errFails d.err = true → s.takeRecord p d (some c) = (s, 7, [])) ∧
      (c.last < d.ctr → errFails d.err = false → d.opened s.hostMem c.key = none →
        s.takeRecord p d (some c) = (s.logAlarm 2 d.sid 1 (some p), 1, List.replicate d.len 0)) ∧
      (∀ bs, c.last < d.ctr → errFails d.err = false → d.opened s.hostMem c.key = some bs → s.takeRecord p d (some c) =
        (s.modSec (fun x => { x with cins := x.cins.map (fun y => if y = c then { y with last := d.ctr } else y) }), 0, bs)))) ∧
  (∀ (s : State) p k q d st, s.sec.queues[p]? = some q → q.descs.find? (fun d => d.k == k && !d.done) = some d → d.status = some st →
    d.due ≤ s.clock →
    ((∀ c ∈ d.locs, s.replica? c.1.asid c.1.va = none) →
      let w := d.units.foldl (fun s u => s.cinUnit p d u) s
      let st := if ∃ u ∈ d.units, u.1.peer ≠ 0 ∧ s.peerOk u.1.peer = false then 6 else st
      let told : State := { w with hostMem := hostWrite w.hostMem (d.ring + 0x30) (leBytes 8 st ++ leBytes 8 d.num.toNat) }
      exec (.descriptorComplete p k) s = .next ((told.modQueue p (fun q =>
        if d.old then { q with descs := q.descs.filter (fun e => !(d.ctx == e.ctx && d.num == e.num) ) }
        else CinQueue.advance 64 { q with descs := q.descs.map (fun e =>
          if e.ctx = d.ctx ∧ e.num = d.num then { e with done := true, units := [] } else e) })).completeNumber d.ctx 5 d.num)) ∧
    ((∃ c ∈ d.locs, s.replica? c.1.asid c.1.va ≠ none) → exec (.descriptorComplete p k) s =
      .next (d.locs.foldl (fun s c => s.collapseAt c.1.asid c.1.va) s))) ∧
  (∀ (s : State) p d (u : Loc × List Byte),
    s.cinUnit p d u = ((s.cinBefore p d u).foldl (fun s v => s.cinPut p v.1 v.2) s).cinPut p d u ∧
    (∀ e v, (e, v) ∈ s.cinBefore p d u ↔ ∃ q, s.sec.queues[p]? = some q ∧ e ∈ q.descs ∧ e.ctx = d.ctx ∧ e.num.toNat < d.num.toNat ∧
      v ∈ e.units ∧ v.1.asid = u.1.asid ∧ overlaps v.1.va v.2.length u.1.va u.2.length = true) ∧
    (u.1.peer ≠ 0 → s.peerOk u.1.peer = false → s.cinPut p d u = s) ∧
    (u.1.peer = 0 ∨ s.peerOk u.1.peer = true →
      let w := (s.writeHome u.1 u.2).modQueue p (fun q =>
        { q with descs := q.descs.map (fun e => if e.ctx = d.ctx ∧ e.num = d.num then { e with units := e.units.erase u } else e) })
      s.cinPut p d u = if u.1.peer = 0 then w.countDram p u.1.pa u.2.length else w.countAt 5 0 (w.peerRoute u.1.peer u.1.pa) p u.2.length)) ∧
  (∀ (s : State) link pa n,
    (2 ≤ link ∨ link ∈ s.sec.ideDead → exec (.hostPhysicalRead ⟨link, pa⟩ n) s = .next s) ∧
    (link < 2 → link ∉ s.sec.ideDead →
      (inDram pa = false ∨ inDram (pa + n - 1) = false ∨ s.inHands pa n = true →
        exec (.hostPhysicalRead ⟨link, pa⟩ n) s = .next { s with out := s.out ++ [.bytes true []] }) ∧
      (inDram pa = true → inDram (pa + n - 1) = true → s.inHands pa n = false → ∃ t, exec (.hostPhysicalRead ⟨link, pa⟩ n) s = .next t ∧
        t.out = s.out ++ [.bytes (s.badPhys pa n) (s.readPhys 0 pa n)] ∧ t.mem = s.mem ∧ t.slotOf = s.slotOf ∧
        t.l1 = s.l1 ∧ t.teams = s.teams ∧ (s.asleep (homeDie pa) = false →
          { t with out := s.out, slices := s.slices, shared := s.shared } = s)))) ∧
  (∀ (s : State) link pa bs,
    (2 ≤ link ∨ link ∈ s.sec.ideDead ∨ inDram pa = false ∨ inDram (pa + bs.length - 1) = false ∨ s.inHands pa bs.length = true →
      exec (.hostPhysicalWrite ⟨link, pa⟩ bs) s = .next s) ∧
    (link < 2 → link ∉ s.sec.ideDead → inDram pa = true → inDram (pa + bs.length - 1) = true → s.inHands pa bs.length = false →
      ∃ t, exec (.hostPhysicalWrite ⟨link, pa⟩ bs) s = .next t ∧ t.l1 = s.l1 ∧ t.out = s.out ∧ t.teams = s.teams ∧
        (∀ r ∈ t.replicas, r ∈ s.replicas ∧ (r.pa + 2 ^ r.sizeLog ≤ pa ∨ pa + bs.length ≤ r.pa)) ∧
        (s.MemOk → ∀ j, j < bs.length → t.byteAt 0 (pa + j) = bs.getD j 0) ∧
        (s.MemOk → ∀ slot a, a < pa / 64 * 64 ∨ (pa + bs.length + 63) / 64 * 64 ≤ a → t.byteAt slot a = s.byteAt slot a)))

/-! ### Configuration, interfaces, sessions and peers -/

/-- R310-R312, R387-R394: the partition configuration and the TDIs. COMMIT stores a staged record that passes its tests and READ stages the stored
one; LOCK, START and STOP move a TDI through its states; a lost link, a reset of the function, an IDE failure and a change of its configuration turn
a locked or running TDI to ERROR; K_SET_GO keys an IDE stream. The response codes 0x03, 0x06, 0x07 and 0x7F and that K_SET_GO passes a link that
delivers nothing else are the model's choice (log entry 23). -/
def Obligations.ConfigurationAndInterfaces : Prop :=
  (∀ (s : State) path, s.Takes path .config 0x100 →
    let go (op : Nat) : State := s.put .config 0x100 0xF (BitVec.ofNat 64 op)
    ((s.hreg .config 0x100).getLsbD 63 = true → ∀ i, i = .configCommit path ∨ i = .configRead path →
      exec i s = .next (s.put .config 0x100 0x00FF000000000000 (BitVec.ofNat 64 (2 * 2 ^ 48)))) ∧
    ((s.hreg .config 0x100).getLsbD 63 = false →
      (3 ≤ s.sec.alarm → exec (.configCommit path) s = .next ((go 1).ended .config 0x100 4 false) ∧
        exec (.configRead path) s = .next ((go 2).ended .config 0x100 4 false)) ∧
      (s.sec.alarm < 3 →
        (parseConfig (go 1).staged = none → exec (.configCommit path) s = .next ((go 1).ended .config 0x100 1 false)) ∧
        (parseConfig (go 1).staged ≠ none → exec (.configCommit path) s = .next (({ go 1 with
          fuses := { s.fuses with config := some (go 1).staged } } : State).ended .config 0x100 0 false)) ∧
        exec (.configRead path) s = .next (((List.range 32).foldl (fun t j =>
          t.setHreg .config (8 * j) ((s.fuses.config.getD (List.replicate 32 0)).getD j 0)) (go 2)).ended .config 0x100 0 false)))) ∧
  (∀ ws m ps, parseConfig ws = some (m, ps) → ws.length = 32 ∧ m.length = 8 ∧
    let npart := (ws.getD 0 0).toNat / 2 ^ 8 % 2 ^ 8
    1 ≤ npart ∧ npart ≤ 4 ∧ (∀ p ∈ m, p < npart) ∧ (∀ p, p < npart → p ∈ m) ∧ ps.length = (ws.getD 0 0).toNat / 2 ^ 4 % 2 ^ 4 ∧ ps.length ≤ 2 ∧
      (∀ y ∈ ps, y.p0 ≠ y.p1 ∧ y.p0 < npart ∧ y.p1 < npart ∧ y.tout ≤ 22 ∧ y.dcores ≤ 8 ∧ y.streams.length = 8) ∧
      (ps.flatMap (fun y => [y.p0, y.p1])).Nodup) ∧
  (∀ (s : State) p link, s.hasPart p = true → link < 2 → link ∉ s.sec.ideDead →
    (s.tdiOf p = .unlocked → link = s.tdiLink p → exec (.lockInterface p link) s = .next { s with
      sec := { s.sec with tdi := s.sec.tdi.set p .locked }, out := s.out ++ [.spdm (.vf link p) 0x03 []] }) ∧
    (s.tdiOf p ≠ .unlocked ∨ link ≠ s.tdiLink p → exec (.lockInterface p link) s = .next { s with out := s.out ++ [.spdm (.vf link p) 0x7F []] })) ∧
  (∀ (s : State) p, s.hasPart p = true → s.tdiLink p ∉ s.sec.ideDead →
    (s.tdiOf p = .locked → exec (.startInterface p) s = .next { s with
      sec := { s.sec with tdi := s.sec.tdi.set p .run }, out := s.out ++ [.spdm (.vf (s.tdiLink p) p) 0x06 []] }) ∧
    (s.tdiOf p ≠ .locked → exec (.startInterface p) s = .next { s with out := s.out ++ [.spdm (.vf (s.tdiLink p) p) 0x7F []] }) ∧
    (p ∉ s.sec.stopping → ∃ t, exec (.stopInterface p) s = .next t ∧ p ∈ t.sec.stopping ∧ (∀ c ∈ t.sec.cins, c.part ≠ p) ∧
      (∀ x ∈ t.l1, x.core / 64 ∉ s.diesOf p) ∧
      ((s.launches.map Launch.seq).Nodup → ∀ l ∈ t.launches, l.part = p → l.st ≠ .retired → l.status ≠ 0 ∧ ∀ q ∈ l.spans, q.st = .done)) ∧
    (p ∈ s.sec.stopping → s.liveOf p = [] → (∀ c ∈ s.sec.scrubCore, c.1 ∉ s.diesOf p) → exec (.stopInterface p) s = .next { s with
      sec := { s.sec with stopping := s.sec.stopping.filter (fun q => q != p), tdi := s.sec.tdi.set p .unlocked }
      out := s.out ++ [.spdm (.vf (s.tdiLink p) p) 0x07 []] })) ∧
  (∀ (s : State) p link, s.hasPart p = true → s.tdiLink p = link →
    (s.isLocked p = true → exec (.functionLevelReset p link) s = .next (s.enterError p) ∧ exec (.tdiConfigurationChange p) s = .next (s.enterError p)) ∧
    (s.isLocked p = false → exec (.functionLevelReset p link) s = .next s ∧ exec (.tdiConfigurationChange p) s = .next s)) ∧
  (∀ (s : State) link, ∃ t, exec (.linkDown link) s = .next t ∧ (link < s.sec.ide.length → t.ideSecure link = false) ∧
    ∀ p, p < 4 → p < s.sec.tdi.length → t.tdiOf p = if s.hasPart p = true ∧ s.tdiLink p = link ∧ s.isLocked p = true then .error else s.tdiOf p) ∧
  (∀ (s : State) link i, i = .ideIntegrityFailure link ∨ i = .ideKeyExpiry link → s.ideSecure link = true → ∃ t, exec i s = .next t ∧
    link ∈ t.sec.ideDead ∧ (link < s.sec.ide.length → t.ideSecure link = false) ∧
    ∀ p, p < 4 → p < s.sec.tdi.length → t.tdiOf p = if s.hasPart p = true ∧ s.tdiLink p = link ∧ s.isLocked p = true then .error else s.tdiOf p) ∧
  (∀ (s : State) link, link < 2 → (∃ x ∈ s.sec.sessions, x.owner = none ∧ x.done = true) → exec (.kSetGo link) s = .next { s with
    sec := { s.sec with ide := s.sec.ide.set link true, ideDead := s.sec.ideDead.filter (fun l => l != link) } })

/-- R288, R389, R390, R405-R408, R424: the mailboxes and the peers. Each request of SPDM needs the connection to have got so far and answers;
KEY_EXCHANGE and FINISH make a session, KEY_UPDATE, HEARTBEAT and END_SESSION act in one; an owner's VENDOR_DEFINED request accesses its debug
block; a peer's request is served, forwarded or refused; links fail and form a domain again; a replayed flit is counted. The response codes, the
bodies and the order the requests need are the model's choice (log entry 23), and so are HOPS and the link of a forwarded request (log entry 65)
and what the shared counters count (log entry 17). -/
def Obligations.SessionsAndPeers : Prop :=
  (∀ (s : State) path, s.mailOpen path = true →
    let n := s.mailStep path
    let say (t : State) (code : Nat) (body : List Byte) : State := { t with out := t.out ++ [.spdm path code body] }
    let bad : Host.Outcome State Fault Refusal := .next (say s 0x7F [])
    let mail (k : Nat) : State := { s with sec := { s.sec with mail := s.sec.mail.filter (fun m => m.path != path) ++ [⟨path, k⟩] } }
    exec (.getVersion path) s = .next (say (mail 1) 0x04 [0x12]) ∧
    exec (.getCapabilities path) s = (if n < 1 then bad else .next (say (mail 2) 0x61 [])) ∧
    exec (.negotiateAlgorithms path) s = (if n < 2 then bad else .next (say (mail 3) 0x63 [0x10, 0, 0, 0, 1, 0, 0, 0, 8, 0, 2, 0])) ∧
    (n < 3 → ∀ i, i = .getDigests path ∨ (∃ k, i = .getCertificate path k) ∨ i = .challenge path ∨ (∃ g k, i = .getMeasurements path g k) ∨ i = .keyExchange path ∨
      (∃ k, i = .finish ⟨path, k⟩ ∨ i = .keyUpdate ⟨path, k⟩ ∨ i = .heartbeat ⟨path, k⟩ ∨ i = .endSession ⟨path, k⟩) → exec i s = bad) ∧
    (3 ≤ n →
      exec (.getDigests path) s = .next (say s 0x01 (1 :: bytesOf (sha256 (natsOf s.certChain)))) ∧
      exec (.getCertificate path 0) s = .next (say s 0x02 s.certChain) ∧ (∀ k, k ≠ 0 → exec (.getCertificate path k) s = bad) ∧
      (s.sec.erased = true → exec (.challenge path) s = bad ∧ exec (.keyExchange path) s = bad ∧ ∀ k, exec (.getMeasurements path true k) s = bad) ∧
      (s.sec.erased = false → exec (.challenge path) s = .next (say s 0x03 (signatureOf [0x83]))) ∧
      (∀ k g, k = 0 ∨ 6 < k → exec (.getMeasurements path g k) s = bad) ∧
      (∀ k g, 1 ≤ k → k ≤ 6 → g = false ∨ s.sec.erased = false → exec (.getMeasurements path g k) s =
        .next (say s 0x60 (s.measurement k ++ if g then signatureOf (natsOf (s.measurement k)) else []))) ∧
      (s.sec.erased = false → (∀ link, path = .pf0 link → (s.sec.sessions.filter (fun x => x.path == path)).length < 4) →
        exec (.keyExchange path) s = .next (say { s with
          sec := { s.sec with
            sessions := s.sec.sessions.filter (fun y => y.owner == none || y.owner != ownerOf path) ++
              [⟨path, s.sec.drawn, ownerOf path, false, s.sec.drawn, none, 0⟩]
            drawn := s.sec.drawn + 1 } } 0x64 (leBytes 4 s.sec.drawn))) ∧
      (∀ link, path = .pf0 link → 4 ≤ (s.sec.sessions.filter (fun x => x.path == path)).length → exec (.keyExchange path) s = bad) ∧
      (∀ k, s.sessionOn path k false = none → exec (.finish ⟨path, k⟩) s = bad) ∧
      (∀ k y, s.sessionOn path k false = some y → exec (.finish ⟨path, k⟩) s = .next (say { s with
        sec := { s.sec with sessions := s.sec.sessions.map (fun z => if z = y then { z with done := true } else z) } } 0x65 [])) ∧
      (∀ k, s.sessionOn path k true = none → exec (.keyUpdate ⟨path, k⟩) s = bad ∧ exec (.heartbeat ⟨path, k⟩) s = bad ∧ exec (.endSession ⟨path, k⟩) s = bad) ∧
      (∀ k y, s.sessionOn path k true = some y →
        exec (.keyUpdate ⟨path, k⟩) s = .next (say { s with
          sec := { s.sec with sessions := s.sec.sessions.map (fun z => if z = y then { z with keyPhase := z.keyPhase + 1 } else z) } } 0x69 []) ∧
        exec (.heartbeat ⟨path, k⟩) s = .next (say s 0x68 []) ∧
        exec (.endSession ⟨path, k⟩) s = .next (say { s with sec := { s.sec with sessions := s.sec.sessions.filter (fun z => z != y) } } 0x6C [])))) ∧
  (∀ (s : State) p off wr v,
    (s.ownerUp p = false ∨ 0x400 ≤ off.toNat → exec (.vendorDefinedRequest p off wr v) s = .next s) ∧
    (s.ownerUp p = true ↔ ∃ x ∈ s.ownerSession p, ∀ link q, x.path = .vf link q ∨ x.path = .pf0 link → link ∉ s.sec.ideDead) ∧
    (s.ownerUp p = true → off.toNat < 0x400 →
      let at_ := 0x400 * p + off.toNat
      (∃ t x, exec (.vendorDefinedRequest p off false v) s = .next t ∧ exec (.withheldRead (.owner p) .debug at_) s = .next t ∧
        t.out = s.out ++ [.value (.owner p) x] ∧ t.teams = s.teams ∧ t.mem = s.mem ∧ t.hregs = s.hregs ∧
        (off.toNat % 8 ≠ 0 ∨ s.reaches (.owner p) .debug at_ = false → x = 0) ∧
        (off.toNat ∈ [0, 0x10, 0x28, 0x38, 0x40] → s.reaches (.owner p) .debug at_ = true → p < s.dbg.length → p < 4 → x = s.hreg .debug at_)) ∧
      (∃ t, exec (.vendorDefinedRequest p off true v) s = .next t ∧ exec (.registerWrite (.owner p) .debug at_ v) s = .next t ∧
        (off.toNat % 8 ≠ 0 ∨ s.reaches (.owner p) .debug at_ = false → t = s) ∧
        (p < 4 → s.Takes (.owner p) .debug at_ → (off.toNat = 0x10 → t = s.put .debug at_ 3 v) ∧ (off.toNat = 0x28 → t = s.put .debug at_ 0xFFFFF1FFCF07FFFF v) ∧
          (off.toNat = 0x38 → t = s.put .debug at_ 0xFFFFFFFFFFFFFFFF v) ∧ (off.toNat = 0x40 → t = s.put .debug at_ 0xFFFFFFFFFFFFFFF8 v))))) ∧
  (∀ (s : State) (q : PeerReq),
    let no : Host.Outcome State Fault Refusal := .next { s with out := s.out ++ [.peerAnswer q.src false []] }
    ((s.hreg .peer 0).getLsbD 8 = false → exec (.peerRequest q) s = no) ∧
    ((s.hreg .peer 0).getLsbD 8 = true →
      (q.dst ≠ (s.hreg .peer 0).toNat % 2 ^ 5 →
        (3 ≤ q.hops ∨ s.peerLink q.dst = none → exec (.peerRequest q) s = no) ∧
        (∀ l, q.hops < 3 → s.peerLink q.dst = some l → exec (.peerRequest q) s =
          .next { s.countAt 5 0 l 4 q.n with out := s.out ++ [.peerForward l { q with hops := q.hops + 1 }] })) ∧
      (q.dst = (s.hreg .peer 0).toNat % 2 ^ 5 →
        (s.refusesPeer q = true → exec (.peerRequest q) s = no) ∧
        (s.refusesPeer q = false → s.asleep (homeDie q.pa) = false →
          let old := s.readPhys 0 q.pa q.n
          let counted (t : State) : State := t.countPhys 5 ((s.peerLink q.src).getD 0) q.pa q.n
          (q.fn = .read → exec (.peerRequest q) s = .next { counted (s.expose q.pa q.n) with out := s.out ++ [.peerAnswer q.src true old] }) ∧
          (∀ bs, q.fn = .write bs → exec (.peerRequest q) s = .next { counted (s.physWrite q.pa (bs.take q.n)) with out := s.out ++ [.peerAnswer q.src true []] }) ∧
          (∀ v, peerNew q.n (leNat old) q.fn = some v → exec (.peerRequest q) s =
            .next { counted (s.physWrite q.pa (leBytes q.n v)) with out := s.out ++ [.peerAnswer q.src true old] }))))) ∧
  (∀ (s : State) pa bs, s.MemOk → (∀ j, j < bs.length → (s.physWrite pa bs).byteAt 0 (pa + j) = bs.getD j 0) ∧
    ∀ slot a, a < pa / 64 * 64 ∨ (pa + bs.length + 63) / 64 * 64 ≤ a → (s.physWrite pa bs).byteAt slot a = s.byteAt slot a) ∧
  (∀ n m, (∀ op x, peerNew n m (.red op x) = some (bredNew op n m x)) ∧ (∀ op x x2, peerNew n m (.atom op x x2) = some (atomNew op n m x x2)) ∧
    (∀ op x a, peerNew n m (.bfma op x a) = some (bupdNew op m x a))) ∧
  (∀ (s : State) link, exec (.peerLinkFailure link) s = .next { s with
    peerDown := if s.peerDown.contains link then s.peerDown else s.peerDown ++ [link]
    sec := { s.sec with log := s.sec.log ++ [⟨s.clock, 4, link, 1⟩], alarm := max s.sec.alarm 1 } }) ∧
  (∀ (s : State) ls, ∃ t, exec (.domainFormation ls) s = .next t ∧
    (s.sec.erased = false → (∀ l ∈ ls, l.2 = 1) → t = { s with peerDown := s.peerDown.filter (fun k => !(ls.any (fun l => l.1 == k))) }) ∧
    (s.sec.erased = true → ∀ l ∈ ls, l.1 ∈ t.peerDown)) ∧
  (∀ (s : State) die unit part,
    (die < 8 → unit < 4 → exec (.linkLevelRetry 3 die unit part) s = .next (s.bump 3 die unit 3 part 1)) ∧
    (unit < 12 → exec (.linkLevelRetry 5 die unit part) s = .next (s.bump 5 0 unit 3 part 1)) ∧
    (unit < 2 → exec (.linkLevelRetry 6 die unit part) s = .next (s.bump 6 0 unit 3 part 1)))

/-! ### Pages, invalidations and streams of the control core -/

/-- R289, R322, R325, R353, R356, R357, R365, R367, R368, R436: a stream that is idle or faulted starts with its argument, and a write to one that runs is
dropped; PFQH makes room for held records; PGDONE services a page for every team that waits for it; an invalidation drops a range's lines,
replicas and translations once the accesses that use them are performed; a collapse frees its entry when every die has acknowledged; a way mask
that takes ways away takes effect later. That an invalidation drops the control core's translations (die 8) and that a live queue goes on in the
frames its pages have from then on are the model's choice (log entry 60), and so is the trap of a poisoned context table (log entry 82). -/
def Obligations.PagesAndStreamStart : Prop :=
  (∀ (s : State) st v path x, s.streams[st]? = some x → s.Takes path .control (0x40 * st) →
    (s.doorOpen x.part path = false → exec (.smpcWrite st v path) s = .next s) ∧
    (s.doorOpen x.part path = true →
      (x.st ≠ .idle → x.st ≠ .faulted → exec (.smpcWrite st v path) s = .next (s.modStream st (fun x => { x with drop := true }))) ∧
      (x.st = .idle ∨ x.st = .faulted → ∃ t, exec (.smpcWrite st v path) s = .next t ∧
        (s.inPartDram x.part x.ctab.toNat 1024 = true → (∀ e, e < 16 → s.badPhys (x.ctab.toNat + 64 * e) 64 = false) → ∃ y, t.streams[st]? = some y ∧ y.st = .running ∧ y.pc = v &&& 0xFFFFFFFFFFFFFFF8 ∧
          y.tcause = 0 ∧ y.tpc = 0 ∧ y.tval = 0 ∧ y.deps = [] ∧ Cells.get 0 y.s 0 = x.arg ∧ (∀ n, n ≠ 0 → Cells.get 0 y.s n = 0) ∧
          (∀ c ∈ s.ctxs, c ∈ t.ctxs) ∧ ∀ c ∈ t.ctxs, c ∉ s.ctxs → c.stream = st ∧ c.part = x.part ∧ c.handle / 16 = st) ∧
        (∀ e, e < 16 → s.inPartDram x.part x.ctab.toNat 1024 = true → s.badPhys (x.ctab.toNat + 64 * e) 64 = true →
          (∀ k, k < e → s.badPhys (x.ctab.toNat + 64 * k) 64 = false) → ∃ y, t.streams[st]? = some y ∧ y.st = .faulted ∧ y.cause = 0x06 ∧
            y.sub = 0x50 ∧ y.smtval = BitVec.ofNat 64 (x.ctab.toNat + 64 * e) ∧ y.smtpc = v &&& 0xFFFFFFFFFFFFFFF8) ∧
        (s.inPartDram x.part x.ctab.toNat 1024 = false → ∃ y, t.streams[st]? = some y ∧ y.st = .faulted ∧ y.cause = 0x06 ∧ y.sub = 1 ∧
          y.smtval = x.ctab ∧ y.smtpc = v &&& 0xFFFFFFFFFFFFFFF8)))) ∧
  (∀ (s : State) p v path, s.Takes path .xlat (0x1010 + 0x100 * p) →
    exec (.pfqhWrite p v path) s = .next ((s.setHreg .xlat (0x1010 + 0x100 * p) v).postHeld p)) ∧
  (∀ (s : State) p v path, s.Takes path .xlat (0x1018 + 0x100 * p) → exec (.pgdone p v path) s = .next
    ((s.teams.filter (fun t => match s.launch? t.seq with | some l => l.part == p | none => false)).foldl
      (fun s t => s.serviced t (v.toNat % 2 ^ 12, v.toNat / 2 ^ 12)) s)) ∧
  (∀ (s : State) (t : Team) pg, (pg ∉ t.pages → s.serviced t pg = s) ∧
    (pg ∈ t.pages → t.faults = [] → s.serviced t pg = s.modTeam t.id (fun t => { t with
      pages := t.pages.filter (fun y => y != pg)
      xfers := t.xfers.map (fun x => { x with waiting := x.waiting.filter (fun y => y != pg.2) }) }))) ∧
  (∀ (s : State) p v path, s.Takes path .xlat (0x1028 + 0x100 * p) → v.getLsbD 63 = true →
    let off := 0x1028 + 0x100 * p
    let r := s.hreg .xlat off
    let a := (s.hreg .xlat (0x1020 + 0x100 * p)).toNat
    let size := v.toNat % 2 ^ 6
    let good := v.getLsbD 6 = true ∨ 12 ≤ size ∧ size ≤ 57 ∧ a / 2 ^ 12 * 2 ^ 12 % 2 ^ size = 0
    (r.getLsbD 63 = true → exec (.tlbInvalidate p v path) s = .next (s.setHreg .xlat off (r ||| 0x4000000000000000))) ∧
    (r.getLsbD 63 = false → ¬ good → exec (.tlbInvalidate p v path) s = .next (s.setHreg .xlat off ((v &&& 0x7F) ||| 0x4000000000000000))) ∧
    (r.getLsbD 63 = false → good → ∃ due, exec (.tlbInvalidate p v path) s = .next { s.setHreg .xlat off ((v &&& 0x7F) ||| 0x8000000000000000) with
      invals := s.invals ++ [⟨p, a % 2 ^ 12, a / 2 ^ 12 * 2 ^ 12, size, v.getLsbD 6, due⟩] })) ∧
  (∀ (s : State) p i, s.invals.find? (fun i => i.part == p) = some i → i.due ≤ s.clock →
    let lo := if i.whole then 0 else i.va
    let hi := if i.whole then 2 ^ 64 else i.va + 2 ^ i.sizeLog
    let meets (asid va n : Nat) : Prop := asid = i.asid ∧ va % 2 ^ 57 < lo % 2 ^ 57 + (hi - lo) ∧ lo % 2 ^ 57 < va % 2 ^ 57 + n
    let quiet : Prop := ((∀ q ∈ s.homeOps, ¬ meets q.loc.asid q.loc.va q.n) ∧
      ∀ q, s.sec.queues[p]? = some q → ∀ d ∈ q.descs, ∀ c ∈ d.locs, ¬ meets c.1.asid c.1.va c.2)
    (¬ quiet → exec (.invalidationComplete p) s = .next s) ∧
    (quiet → ∃ u : State, let w : State := ((s.queues.filter (fun q => q.asid == i.asid && vaMeets lo hi (q.va / 4096 * 4096) (4096 * q.frames.length))).foldl
        (fun (s : State) q => s.remapQueue p q) u)
      exec (.invalidationComplete p) s = .next { w.setHreg .xlat (0x1028 + 0x100 * p) (w.hreg .xlat (0x1028 + 0x100 * p) &&& 0x7FFFFFFFFFFFFFFF) with
        invals := w.invals.erase i } ∧
      { u with slices := s.slices, l1 := s.l1, replicas := s.replicas, tlb := s.tlb, walks := s.walks } = s ∧
      (∀ y ∈ u.tlb, 8 ≤ y.die ∨ s.partOf y.die = p → ¬ meets y.asid y.va (2 ^ y.sizeLog)) ∧
      (∀ x ∈ u.slices, 8 ≤ x.die ∨ s.partOf x.die = p → ¬ meets x.asid x.va 64) ∧
      (∀ w ∈ u.walks, w.asid = i.asid → w.die < 8 ∧ s.partOf w.die ≠ p) ∧
      (∀ x ∈ u.l1, 8 ≤ x.core / 64 ∨ s.partOf (x.core / 64) = p → ¬ meets x.asid x.va 64) ∧
      (∀ r, r ∈ u.replicas ↔ r ∈ s.replicas ∧ ¬ ((8 ≤ r.home ∨ s.partOf r.home = p) ∧ meets r.asid r.base (2 ^ r.sizeLog))) ∧
      ∀ r ∈ s.replicas, 8 ≤ r.home ∨ s.partOf r.home = p → meets r.asid r.base (2 ^ r.sizeLog) →
        ∀ x ∈ u.slices, x.replica = true → r.covers x.asid x.va = false)) ∧
  (∀ (s : State) p (q : Queue), q.frames.length = 1 →
    let r := s.translate ⟨q.asid, p, ((s.launch? q.seq).map Launch.slot).getD 0, homeDie (q.place 0).1, none⟩ (BitVec.ofNat 64 (q.va / 4096 * 4096)) .write
    (∀ u e, r = (u, .error e) → s.remapQueue p q = s) ∧
    (∀ u t, r = (u, .ok t) → s.remapQueue p q = { u with
      queues := u.queues.map (fun y => if y.asid = q.asid ∧ y.va = q.va then { y with frames := y.frames.set 0 (t.pa, t.key) } else y) })) ∧
  (∀ (s : State) k die, ∃ t, exec (.replicaInvalidation k die) s = .next t ∧ { t with slices := s.slices } = { s with
      replicas := s.replicas.map (fun r => if r.id = k ∧ r.collapse = true then { r with acks := r.acks.filter (fun d => d != die) } else r) } ∧
    ∀ x, x ∈ t.slices ↔ x ∈ s.slices ∧ ∀ r ∈ s.replicas, r.id = k → r.collapse = true → x.replica = true → x.die = die → r.covers x.asid x.va = false) ∧
  (∀ (s : State) k, exec (.collapseComplete k) s = .next { s with
    replicas := s.replicas.filter (fun r => !(r.id == k && r.collapse && r.acks.isEmpty)) }) ∧
  (∀ (s : State) die i v path, die < 8 → i < 5 → let off := 0x4000 + 0x40 * die + 8 * i
    s.Takes path .xlat off → (s.hreg .xlat off).getLsbD 63 = false →
    (s.hreg .xlat off &&& ~~~(v &&& 0xFFFF) = 0 → exec (.wayMaskWrite die i v path) s = .next (s.setHreg .xlat off (v &&& 0xFFFF))) ∧
    (s.hreg .xlat off &&& ~~~(v &&& 0xFFFF) ≠ 0 → exec (.wayMaskWrite die i v path) s = .next { s.setHreg .xlat off (s.hreg .xlat off ||| 0x8000000000000000) with
      wayChanges := s.wayChanges ++ [(die, i, (v &&& 0xFFFF).toNat)] })) ∧
  (∀ (s : State) die i c, s.wayChanges.find? (fun c => c.1 == die && c.2.1 == i) = some c → exec (.wayMaskChangeComplete die i) s = .next
    { s.setHreg .xlat (0x4000 + 0x40 * die + 8 * i) (BitVec.ofNat 64 c.2.2) with
      slices := s.slices.filter (fun x => !(x.die == die && x.index == i && !bit c.2.2 x.way))
      wayChanges := s.wayChanges.erase c })

/-! ### Debug -/

/-- R408-R418, R423: the debug block. DBGATT attaches and detaches; DBGCMD stops, continues and steps the attached launch and reads and writes its
registers and memory, with a STAT of 0 or why not; a comparator stops the launch before the word, an event of a lower fragment in the same cycle
taking its place; a stop takes effect once issued work is done. The order NOTATT, PERM, NOTSTOP, BADSEL, how long STOP and STEP show BUSY, when
issue halts and a DBGATT write that waits for a step's end are the model's choice (log entry 42). -/
def Obligations.DebugBlock : Prop :=
  (∀ (s : State) p v path, s.Takes path .debug (0x400 * p + 8) → ((s.dbg[p]?).bind Dbg.step).isSome = false →
    (v = 0 → exec (.dbgattWrite p v path) s = .next (s.detach p)) ∧
    (v ≠ 0 → exec (.dbgattWrite p v path) s = .next ((s.detach p).attach p v.toNat path))) ∧
  (∀ (s : State) p v path, s.Takes path .debug (0x400 * p + 8) → ((s.dbg[p]?).bind Dbg.step).isSome = true →
    exec (.dbgattWrite p v path) s = .next (s.modDbg p (fun d => { d with leave := some (v.toNat, path) }))) ∧
  (∀ (s : State) p d, s.dbg[p]? = some d → ∃ d', (s.detach p).dbg[p]? = some d' ∧ d'.att = false ∧ d'.seq = 0 ∧ d'.stopped = (d.stopped && !((s.attached p).isSome)) ∧ d'.step = none) ∧
  (∀ (s : State) p path i op, (i, op) ∈ [(Instr.stop p path, 1), (.dbgContinue p path, 2), (.dbgStep p path, 3), (.regrd p path, 4), (.regwr p path, 5),
      (.memrd p path, 6), (.memwr p path, 7)] → s.Takes path .debug (0x400 * p + 0x18) →
    let off := 0x400 * p + 0x18
    (s.dbgBusy p = true → exec i s = .next (s.put .debug off 0x00FF000000000000 (BitVec.ofNat 64 (5 * 2 ^ 48)))) ∧
    (Cells.wf 0 s.hregs = true → (s.hreg .debug off).getLsbD 63 = false →
      let t := s.put .debug off 0xF (BitVec.ofNat 64 op)
      (s.attached p = none → exec i s = .next (t.ended .debug off 1 false)) ∧
      (∀ d l, s.attached p = some (d, l) → let dat := 0x400 * p + 0x38
        (s.dbgPerm p ≠ 2 → exec i s = .next (t.ended .debug off 4 false)) ∧
        (s.dbgPerm p = 2 →
          (op = 1 → d.stopped = true → exec i s = .next (t.ended .debug off 0 false)) ∧
          (op = 1 → d.stopped = false → exec i s = .next ((t.askStop p { reason := 1, idx := 0, at_ := s.clock, frag := none }).ended .debug off 0 true)) ∧
          (op = 2 → d.stopped = true → exec i s = .next ((t.continueLaunch p).ended .debug off 0 false)) ∧
          (2 ≤ op → op ≤ 5 → d.stopped = false → exec i s = .next (t.ended .debug off 2 false)) ∧
          (3 ≤ op → op ≤ 5 → d.stopped = true → s.selected p d = none → exec i s = .next (t.ended .debug off 3 false)) ∧
          (∀ x, op = 3 → d.stopped = true → s.selected p d = some x → s.selFrag l x ≠ none → exec i s =
            (let u := t.modDbg p (fun d => { d with step := some x, stepEnd := none });
              .next (((u.selTeam l x).elim u u.releaseFaults).ended .debug off 0 true))) ∧
          (∀ x y g, d.stopped = true → s.selected p d = some x → s.selGroup l x = some (y, g) →
            let v := s.hreg .debug (0x400 * p + 0x28)
            let file := v.toNat / 2 ^ 24 % 2 ^ 4
            let lane := v.toNat / 2 ^ 30 % 2 ^ 6
            let k := v.toNat % 2 ^ 16
            (∀ w, op = 4 → t.debugRead l y x.2.2.1 g file lane k = some w → exec i s = .next ((t.setHreg .debug dat w).ended .debug off 0 false)) ∧
            (op = 4 → t.debugRead l y x.2.2.1 g file lane k = none → exec i s = .next (t.ended .debug off 3 false)) ∧
            (∀ n u, op = 5 → t.debugWrite l y x.2.2.1 g file lane k (s.hreg .debug dat) = (n, u) → exec i s = .next (u.ended .debug off n false))) ∧
          (op = 6 ∨ op = 7 → ∀ u, t.debugPlace l (if op = 6 then .read else .write) (s.hreg .debug (0x400 * p + 0x40)) = (u, none) →
            exec i s = .next (u.ended .debug off 3 false)) ∧
          (∀ u c, op = 6 → t.debugPlace l .read (s.hreg .debug (0x400 * p + 0x40)) = (u, some c) → exec i s =
            .next ((u.setHreg .debug dat (BitVec.ofNat 64 (leNat (u.homeBytes c.1 8)))).ended .debug off 0 false)) ∧
          (∀ u c, op = 7 → t.debugPlace l .write (s.hreg .debug (0x400 * p + 0x40)) = (u, some c) → u.hreg .debug dat = s.hreg .debug dat → exec i s =
            .next (((u.collapseAt l.asid (s.hreg .debug (0x400 * p + 0x40)).toNat).writeHome c.1 (leBytes 8 (s.hreg .debug dat).toNat)).ended
              .debug off 0 false)))))) ∧
  (∀ (s : State) (l : Launch) (t : Team) gi g lane k, let rd (file : Nat) := s.debugRead l t gi g file lane k
    rd 0 = (if k < l.r.vregs ∧ lane < l.r.width then some (g.raw (.v k lane)) else none) ∧ rd 1 = (if k < 64 then some (g.raw (.s k)) else none) ∧
    (∀ v, k < 64 → g.interlocked [.s k] = false →
      s.debugWrite l t gi g 1 lane k v = (0, s.modGroup t.id gi (fun g => { g with s := Cells.set 0 g.s k v }))) ∧
    (∀ v, k < 64 → g.interlocked [.s k] = true → s.debugWrite l t gi g 1 lane k v = (6, s))) ∧
  (∀ (s : State) p d l e, s.dbg[p]? = some d → d.att = true → s.launch? d.seq = some l → d.stopped = false → d.pending = some e → e.halts s.clock = true →
    (∀ t ∈ s.teams, t.seq = l.seq → t.res = .resident → s.settled l t = true) → ∃ t d', exec (.stopEffect p) s = .next t ∧ t.dbg[p]? = some d' ∧
      d'.stopped = true ∧ d'.reason = e.reason ∧ d'.idx = e.idx ∧ d'.fsel = e.frag ∧ d'.pending = none ∧
      t.teams = s.teams.map (fun t => if t.seq = l.seq ∧ t.res = .resident then { t with groups := t.groups.map Group.settle } else t)) ∧
  (∀ (s : State) p i t g e y x f d, s.team? t = some y → y.groups[g]? = some x → x.frag? e = some f → f.st = .ready → y.res = .resident →
    s.debugHolds y g e = false → s.comparator y g f = some (p, i) → s.dbg[p]? = some d → d.pending = none →
    let met : StopEvent :=
      { reason := 2, idx := i, at_ := s.clock, frag := some (y.span, y.idx, g, e), age := f.age, pc := f.pc,
        wrote := (0x115, f.pc, BitVec.ofNat 64 i), undo := (x.tcause, x.tpc, x.tval) }
    exec (.comparatorFire p i t g e) s = .next (((s.modFrag t g e (fun f => { f with wake := s.clock + 1 })).modGroup t g (fun g => { g with
      tcause := 0x115, tpc := f.pc, tval := BitVec.ofNat 64 i })).modDbg p (fun d => { d with pending := some met }))) ∧
  (∀ (s : State) (l : Launch) tid gi (e q : StopEvent), (s.dbgOf l).bind Dbg.pending = some q →
    (e.before q = false → s.meetStop l tid gi e = s) ∧
    (e.before q = true → let u := s.unmeet l.seq q
      let old := (((u.team? tid).bind (fun t => t.groups[gi]?)).map (fun g => (g.tcause, g.tpc, g.tval))).getD (0, 0, 0)
      s.meetStop l tid gi e = (u.modGroup tid gi (fun g => { g with tcause := e.wrote.1, tpc := e.wrote.2.1, tval := e.wrote.2.2 })).modDbg l.part
        (fun d => { d with pending := some { e with undo := old } }))) ∧
  (∀ (a b : StopEvent) x y, 2 ≤ a.reason → a.reason ≤ 4 → 2 ≤ b.reason → b.reason ≤ 4 → a.frag = some x → b.frag = some y →
    (a.before b = true ↔ a.at_ = b.at_ ∧ (x.1 < y.1 ∨ x.1 = y.1 ∧ (x.2.1 < y.2.1 ∨ x.2.1 = y.2.1 ∧ (x.2.2.1 < y.2.2.1 ∨ x.2.2.1 = y.2.2.1 ∧ a.age < b.age))))) ∧
  (∀ (s : State) p i v path, i < 8 → s.Takes path .debug (0x400 * p + 0x180 + 8 * i) → exec (.cntcfgWrite p i v path) s =
    .next ((s.setHreg .debug (0x400 * p + 0x180 + 8 * i) (v &&& 0xFF)).modDbg p (fun d => { d with counts := d.counts.set i 0 })))

/-! ### Metered regions -/

/-- R353, R426-R434, R445: metered regions. DEFINE makes the lowest free region over a range that can be metered, once the accesses translated in its
range are performed, and commits its first report; IMPORT continues the count of another package's report; COMMIT and the period commit reports;
QUERY answers the count where it is allowed; CLOSE ends a region with a report; after a level-3 alarm commands answer HALTED. A report carries the
region's count and the hash of the one before it. BADARG before NOSLOT, the order BADARG, NOSLOT, BADIMPORT, and NOSLOT for an IMPORT that finds
the list of imports full are the model's choice (log entry 56), BADIMPORT for a package that cannot be read is log entry 82, and what the tag of a
stored record covers is log entry 75. -/
def Obligations.MeteredRegions : Prop :=
  (∀ (s : State) p path i op, p < 4 → (i, op) ∈ [(Instr.regionDefine p path, 1), (.regionClose p path, 2), (.regionImport p path, 3), (.regionCommit p path, 4),
      (.regionQuery p path, 5)] → s.Takes path .sec (0x1000 + 0x40 * p) →
    let off := 0x1000 + 0x40 * p
    let t := s.put .sec off 0xF (BitVec.ofNat 64 op)
    ((s.hreg .sec off).getLsbD 63 = true → exec i s = .next (s.put .sec off 0x00FF000000000000 (BitVec.ofNat 64 (3 * 2 ^ 48)))) ∧
    ((s.hreg .sec off).getLsbD 63 = false → (s.sec.erased = true → exec i s = .next (t.ended .sec off 6 false)) ∧
      (s.sec.erased = false → Cells.wf 0 s.hregs = true →
        let arg := s.hreg .sec (off + 8)
        let base := arg.toNat
        let limit := (s.hreg .sec (off + 0x10)).toNat / 2 ^ 12 * 2 ^ 12
        let asid := (s.hreg .sec (off + 0x10)).toNat % 2 ^ 12
        let named := s.sec.regions.find? (fun r => r.id == arg.toNat % 2 ^ 12 && r.part == p)
        (op = 1 → s.badRange asid base limit = true → exec i s = .next (t.ended .sec off 2 false)) ∧
        (op = 1 → s.badRange asid base limit = false → s.freeRegion = none → exec i s = .next (t.ended .sec off 1 false)) ∧
        (∀ n, op = 1 → s.badRange asid base limit = false → s.freeRegion = some n → exec i s = .next (t.newRegion ⟨n, p, asid, base, limit, 0, 0, 0, 0, false, []⟩ 0)) ∧
        (op = 2 ∨ op = 5 → named = none → exec i s = .next (t.ended .sec off 2 false)) ∧
        (∀ r, op = 2 → named = some r → exec i s = .next ((t.modSec (fun x => { x with
          regions := x.regions.map (fun y => if y.id = r.id then { y with closing := true } else y) })).ended .sec off 0 true)) ∧
        (∀ r, op = 5 → named = some r →
          let res (v : Nat) (live : List Nat) : State := (({ t with
            sec := { t.sec with counted := t.sec.counted.filter (fun q => q != p) ++ live } } : State).setHreg .sec (off + 0x18) (BitVec.ofNat 64 v)).ended .sec off 0 false
          (t.answered p 2 path = true → exec i s = .next (res r.count [p])) ∧
          (t.answered p 2 path = false → exec i s = .next ((res 0 []).auditLog p 1 (pathCode path) (off + 0x18)))) ∧
        (op = 4 → exec i s = .next ((t.commitRegions 5 (fun r => r.part == p)).ended .sec off 0 false)) ∧
        (op = 3 → let x := t.readImport base
          (t.inPartDram p base 0xFE0 = false ∨ t.badRange (x.word 3 % 4096) (x.word 1) (x.word 2) = true → exec i s = .next (t.ended .sec off 2 false)) ∧
          (t.inPartDram p base 0xFE0 = true → t.badRange (x.word 3 % 4096) (x.word 1) (x.word 2) = false →
            (s.freeRegion = none → exec i s = .next (t.ended .sec off 1 false)) ∧
            (∀ n, s.freeRegion = some n →
              (t.badPhys base 0xFE0 = true ∨ t.badImport x = true → exec i s = .next (t.ended .sec off 4 false)) ∧
              (t.badPhys base 0xFE0 = false → t.badImport x = false →
                (8192 ≤ t.importing.length → exec i s = .next (t.ended .sec off 1 false)) ∧
                (t.importing.length < 8192 → exec i s = .next (t.newRegion
                  ⟨n, p, x.word 3, x.word 1, x.word 2, x.rword 0x18, x.rword 0x20, reportHash x.report, 0, false, []⟩ 4))))))))) ∧
  (∀ (s : State) n, s.freeRegion = some n → n < 4096 ∧ (∀ r ∈ s.takenRegions, r.id ≠ n) ∧ ∀ m, m < n → ∃ r ∈ s.takenRegions, r.id = m) ∧
  (∀ (s : State) asid base limit, s.takenRegions = s.sec.regions ++ s.sec.defining.map Prod.fst ∧
    (s.badRange asid base limit = true ↔ base % 4096 ≠ 0 ∨ limit % 4096 ≠ 0 ∨ limit ≤ base ∨
      ∃ r ∈ s.takenRegions, r.asid = asid ∧ base < r.limit ∧ r.base < limit)) ∧
  (∀ (s : State) (x : ImportPkg), s.badImport x = false ↔ x.word 0 / 2 ^ 16 = 0x4B593949 * 2 ^ 16 + 1 ∧ x.word 0 % 2 ^ 16 < 2 ∧ x.word 3 < 4096 ∧
    (∀ b ∈ x.head.drop 0x20, b = 0) ∧ Config.certChains (natsOf x.cert) = true ∧
    Config.verifies (natsOf x.cert) (sha256 (natsOf ((x.report.drop 8).take 0x40))) (natsOf ((x.report.drop 0x48).take 0x40)) = true ∧
    Config.certDevice (natsOf x.cert) = x.rword 8 ∧ (x.word 0 % 2 = 1 ∨ x.rword 0 / 2 ^ 8 % 2 ^ 8 = 3) ∧ reportHash x.report ∉ s.sec.imports ∧
    ∀ y ∈ s.sec.defining, y.2 = 4 → y.1.prev ≠ reportHash x.report) ∧
  (∀ (s : State) (r : Region) kind, let off := 0x1000 + 0x40 * r.part
    let quiet := s.rangeQuiet r.part r.asid r.base r.limit
    (quiet = false → s.newRegion r kind = ({ s with sec := { s.sec with defining := s.sec.defining ++ [(r, kind)] } } : State).ended .sec off 0 true) ∧
    (quiet = true → s.newRegion r kind = s.activate r kind) ∧
    (let u := s.invalidate r.part r.asid r.base r.limit
      let v : State := if kind = 4 then { u with sec := { u.sec with imports := u.sec.imports ++ [r.prev], storeCtr := u.sec.storeCtr + 1 } } else u
      let w : State := { v with sec := { v.sec with regions := v.sec.regions ++ [r], counted := v.sec.counted.filter (fun p => p != r.part) } }
      s.activate r kind = ((w.setHreg .sec (off + 0x18) (BitVec.ofNat 64 r.id)).commitRegion r.id kind).ended .sec off 0 false)) ∧
  (∀ (s : State) x, s.sec.defining.find? (fun x => s.rangeQuiet x.1.part x.1.asid x.1.base x.1.limit) = some x → s.finishRegion =
    some (({ s with sec := { s.sec with defining := s.sec.defining.erase x } } : State).activate x.1 x.2)) ∧
  (∀ (s : State) id kind r, s.sec.regions.find? (fun r => r.id == id) = some r → s.sec.erased = false → ∃ q,
    let t := s.commitRegion id kind
    t.sec.regions.find? (fun r => r.id == id) = some q ∧ q.count = r.count ∧ q.lastCount = r.count ∧ q.rnum = (if kind = 0 then r.rnum else r.rnum + 1) ∧
    q.latest = ({ r with rnum := q.rnum } : Region).report kind ∧ q.prev = reportHash q.latest ∧ q ∈ t.sec.store ∧ t.sec.storeCtr = s.sec.storeCtr + 1 ∧
    (id, t.sec.storeCtr, s.storeTag t.sec.storeCtr q) ∈ t.sec.storeTags) ∧
  (∀ (r : Region) kind, kind < 256 → r.id < 2 ^ 64 → r.count < 2 ^ 64 → r.rnum < 2 ^ 64 → let w (k : Nat) := leNat (((r.report kind).drop (8 * k)).take 8)
    w 0 = 0x4B59394D * 2 ^ 32 + 2 ^ 16 + kind * 2 ^ 8 ∧ w 2 = r.id ∧ w 3 = r.count ∧ w 4 = r.rnum ∧ ((r.report kind).drop 0x28).take 32 = beBytes 32 r.prev.toNat ∧
    (r.report kind).length = 160) ∧
  (∀ (s : State) id y, s.sec.regions.find? (fun y => y.id == id) = some y → y.closing = true →
    ((∃ t ∈ s.teams, ∃ x ∈ t.xfers, y.id ∈ x.seen) → (∀ z ∈ s.sec.regions, z.id = id → z = y) → exec (.regionCloseComplete id) s = .next s) ∧
    ((∀ t ∈ s.teams, ∀ x ∈ t.xfers, y.id ∉ x.seen) → exec (.regionCloseComplete id) s = .next (((s.commitRegion id 3).modSec (fun x => { x with
      regions := x.regions.filter (fun r => r.id != id)
      store := x.store.filter (fun r => r.id != id)
      storeTags := x.storeTags.filter (fun y => y.1 != id)
      storeCtr := x.storeCtr + 1 })).ended .sec (0x1000 + 0x40 * y.part) 0 false))) ∧
  (∀ (s : State) p, s.hreg .sec (0x1000 + 0x40 * p + 0x30) ≠ 0 →
    s.sec.periodAt.getD p 0 + (s.hreg .sec (0x1000 + 0x40 * p + 0x30)).toNat * (1000 * us) ≤ s.clock →
    exec (.periodicCommit p) s = .next ((s.modSec (fun x => { x with periodAt := x.periodAt.set p s.clock })).commitRegions 1 (fun r =>
      r.part == p && r.count != r.lastCount)))

/-! ### Errors, dies and power -/

/-- R435-R440: errors and repair. A corrected error is counted; an uncorrectable one ends a team, poisons a line or raises an alarm, and is counted; a die
reset drains, ends the launches on the die and the requests homed there, and gives the die back empty; a field swap is accepted once. Which dies are
cut off and that a die reset ends a launch as a whole are the model's choice (log entry 62), and so are the clocks of the drain and of the reset,
typical times of R439 (log entry 25). -/
def Obligations.ErrorsAndRepair : Prop :=
  (∀ (s : State),
    let count (d k : Nat) : State := s.setHreg .sensor ((if d = 8 then 0x840 else 0x40 + 0x100 * d) + 8 * k)
      ((s.hreg .sensor ((if d = 8 then 0x840 else 0x40 + 0x100 * d) + 8 * k) + 1) &&& 0x7FFFFFFFFFFFFFFF)
    let bad (t : State) (line : Nat) : State := { t with
      poisoned := Cells.set 0 t.poisoned line (~~~(0 : BitVec 64)), l1 := t.l1.filter (fun x => x.pa != 64 * line)
      slices := t.slices.filter (fun x => !(x.pa == 64 * line && Word.peer x.leaf == 0)) }
    (∀ t u y, s.team? t = some y → y.here = true → exec (.singleBitError (.team t u)) s = .next (count y.die 0) ∧
      exec (.uncorrectableError (.team t u)) s = .next ((count y.die 1).terminate t 0xFF 0 0x06 0x50 0 (BitVec.ofNat 64 u))) ∧
    (∀ d line, d < 8 → exec (.singleBitError (.cache d line)) s = .next (count d 0) ∧
      exec (.uncorrectableError (.cache d line)) s = .next (if inDram (64 * line) then bad (count d 1) line else count d 1)) ∧
    (∀ line, inDram (64 * line) = true → let d := homeDie (64 * line)
      exec (.singleBitError (.dram line)) s = .next (count d 2) ∧
      exec (.uncorrectableError (.dram line)) s = .next ((bad (count d 3) line).setHreg .sensor ((if d = 8 then 0x840 else 0x40 + 0x100 * d) + 8 * 4)
        (BitVec.ofNat 64 (64 * line)))) ∧
    exec (.singleBitError .secSram) s = .next (count 8 0) ∧ exec (.uncorrectableError .secSram) s = .next ((count 8 1).alarm 7 0 2) ∧
    ∀ pa, exec (.patrolScrub pa) s = .next s) ∧
  (∀ (s : State) v path, s.Takes path .repair 0 → s.sec.alarm < 3 → v.getLsbD 63 = true →
    let t := s.put .repair 0 0x17 v
    let die := v.toNat % 8
    let cut := s.cutOff (die :: s.dieResets.map DieReset.die)
    ((s.hreg .repair 0).getLsbD 63 = true → exec (.dieReset v path) s = .next (s.put .repair 0 0x00FF000000000000 (BitVec.ofNat 64 (2 ^ 48)))) ∧
    ((s.hreg .repair 0).getLsbD 63 = false →
      (cut ≠ [] → v.getLsbD 4 = false → exec (.dieReset v path) s = .next (t.ended .repair 0 2 false)) ∧
      (cut = [] ∨ v.getLsbD 4 = true → exec (.dieReset v path) s = .next { t.ended .repair 0 0 true with
        dieResets := s.dieResets ++ (die :: cut).map (fun d => ⟨d, s.clock + 100 * us, s.clock + 4000 * us, false⟩) }))) ∧
  (∀ (s : State) die, (∃ r ∈ s.dieResets, r.die = die ∧ r.drained = false ∧ r.drain ≤ s.clock) → ∃ t, exec (.transitDrainLimit die) s = .next t ∧
    (∀ r ∈ t.dieResets, r.die = die → r.drained = true) ∧ (∀ p ∈ t.homeOps, p.loc.peer = 0 → inDram p.loc.pa = true → homeDie p.loc.pa ≠ die) ∧
    ((s.launches.map Launch.seq).Nodup → ∀ l ∈ t.launches, l.st ≠ .retired → (∃ y ∈ s.teams, y.seq = l.seq ∧ y.here = true ∧ y.die = die) →
      l.status ≠ 0 ∧ ∀ q ∈ l.spans, q.st = .done)) ∧
  (∀ (s : State) die, (∃ r ∈ s.dieResets, r.die = die ∧ r.drained = true ∧ r.due ≤ s.clock) → ∃ t, exec (.dieResetComplete die) s = .next t ∧
    (∀ r ∈ t.dieResets, r.die ≠ die) ∧ (∀ x ∈ t.l1, x.core / 64 ≠ die) ∧ (∀ x ∈ t.slices, x.die ≠ die) ∧ (∀ y ∈ t.tlb, y.die ≠ die) ∧ (∀ w ∈ t.walks, w.die ≠ die) ∧
    (∀ r ∈ t.replicas, r.home ≠ die ∧ die ∉ r.dies) ∧ (∀ c ∈ t.sec.scrubCore, c.1 ≠ die) ∧ t.teams = s.teams ∧ t.mem = s.mem ∧
    (t.dieResets = [] → Cells.wf 0 s.hregs = true → (t.hreg .repair 0).getLsbD 63 = false)) ∧
  (∀ (s : State) v path, s.Takes path .repair 8 → s.sec.alarm < 3 → v.getLsbD 63 = true → (s.hreg .repair 8).getLsbD 63 = false →
    let t := s.put .repair 8 7 v
    (s.fuses.used = true → exec (.fieldSwap v path) s = .next (t.ended .repair 8 1 false)) ∧
    (s.fuses.used = false → s.fuses.spareOk = false → exec (.fieldSwap v path) s = .next (t.ended .repair 8 2 false)) ∧
    (s.fuses.used = false → s.fuses.spareOk = true →
      ((∃ x ∈ s.sec.tdi, x ≠ .unlocked) ∨ (∃ l ∈ s.launches, l.st ≠ .retired) → exec (.fieldSwap v path) s = .next (t.ended .repair 8 3 false)) ∧
      ((∀ x ∈ s.sec.tdi, x = .unlocked) → (∀ l ∈ s.launches, l.st = .retired) → exec (.fieldSwap v path) s = .next { t.ended .repair 8 0 false with
        fuses := { s.fuses with used := true, burnt := some (v.toNat % 8) } })))

/-- R441-R444, R447-R449: resets, power and alarms. A package reset keeps the host's memory, the fuses and the secure store and draws new keys; a request through
PKGCTL commits the regions first; islands rest when they have been idle long enough, and wake; a level sets the energy budget; alarms of level 2 end
keyed launches and retire keys, and of level 3 end every launch and erase the keys. That memory lists nothing after a reset is log entry 3, source 11
alone for a second voltage or clock fault and what stays erased after a reset log entry 61, the reset in the step of the write log entry 64, and
what the tag of a stored record covers and the store's answer log entry 75: the model's choices. -/
def Obligations.ResetsPowerAndAlarms : Prop :=
  (∀ s : State, ∃ t, exec .packageReset s = .next t ∧ t.hostMem = s.hostMem ∧ t.out = s.out ∧ t.fuses = { s.fuses with swapped := s.fuses.burnt } ∧
    t.mem = [] ∧ t.teams = [] ∧ t.launches = [] ∧ t.clock = 0 ∧ t.streams = List.replicate 8 Stream.reset ∧ t.hregs = [] ∧
    (∀ ws m ps, s.fuses.config = some ws → parseConfig ws = some (m, ps) → t.diemap = m ∧ t.pairs = ps) ∧
    (s.fuses.config.bind parseConfig = none → t.diemap = List.replicate 8 0 ∧ t.pairs = []) ∧
    t.sec.slots = [] ∧ t.sec.cins = [] ∧ t.sec.saves = [] ∧ t.sec.sessions = [] ∧ t.sec.epoch = s.sec.drawn ∧
    t.sec.imports = s.sec.imports ∧ t.sec.tdi = List.replicate 4 .unlocked ∧
    (let bad := if s.sec.erased then [] else (s.sec.store.filter s.storeBad).map Region.id
     let good := s.sec.store.filter (fun r => !bad.contains r.id)
     t.sec.store = good ∧ t.sec.storeTags = s.sec.storeTags.filter (fun y => !bad.contains y.1) ∧ t.sec.log = bad.map (fun id => ⟨0, 6, id, 1⟩) ∧ t.sec.alarm = (if s.sec.erased then 3 else if bad = [] then 0 else 1) ∧
       t.sec.regions = (if s.sec.erased then [] else good.map (fun r => { r with count := r.lastCount, closing := false })))) ∧
  (∀ (s : State) (r : Region) c, (s.storeBad r = false ↔ Config.storeFails s.nonce r.id = false ∧
      ∃ y, s.sec.storeTags.find? (fun y => y.1 == r.id) = some y ∧ s.storeTag y.2.1 r = y.2.2) ∧
    s.storeTag c r = BitVec.ofNat 256 (beNat (hmac (kdf ((List.range 32).map (fun j => (Config.deviceScalar j).toNat)) (asciiOf "KY9-STORE") [s.fuses.otpGen])
      (natsOf (beBytes 8 c ++ leBytes 2 r.id ++ r.latest))))) ∧
  (∀ (s : State) v path, s.Takes path .pkg 0 →
    (v.toNat / 2 ^ 32 = 0x4B395253 → v.getLsbD 0 = true → s.sec.erased = false →
      exec (.packageResetRequest v path) s = exec .packageReset (s.commitRegions 7 Region.changed)) ∧
    (v.toNat / 2 ^ 32 = 0x4B395253 → v.getLsbD 0 = true → s.sec.erased = true → exec (.packageResetRequest v path) s = exec .packageReset s) ∧
    (v.toNat / 2 ^ 32 ≠ 0x4B395253 ∨ v.getLsbD 0 = false → exec (.packageResetRequest v path) s = .next s)) ∧
  (∀ (s : State) i st, s.restState i = some st → ∃ t, exec (.powerStateEntry i) s = .next t ∧
    (∀ x, s.islands[i]? = some x → ∃ y, t.islands[i]? = some y ∧ y.st = st ∧ y.waking = none ∧ y.f = x.f) ∧
    (st = 3 → ∀ k, k < 3 → ∀ y, t.islands[i / 3 * 3 + k]? = some y → y.st = 3) ∧ t.teams = s.teams ∧ t.mem = s.mem) ∧
  (∀ (s : State) i st, s.restState i = some st → st ≠ 3 → s.islandSt i < st ∧ mayEnter i st = true ∧ wakeUs st ≤ (s.hreg .power 0).toNat ∧
    ∃ x c, s.islands[i]? = some x ∧ x.idleAt = some c ∧ c + 10 * wakeUs st * us ≤ s.clock) ∧
  (∀ (s : State) i, exec (.islandWake i) s = .next (s.wakeIsland i)) ∧
  (∀ (s : State) i x c, s.islands[i]? = some x → x.waking = some c → c ≤ s.clock → exec (.wakeComplete i) s = .next { s with
    islands := s.islands.modify i (fun x => { x with st := 0, waking := none, idleAt := none }) }) ∧
  (∀ (s : State) die lvl, die < 8 → lvl < 4 →
    let isl := s.islands.modify (3 * die) (fun x => { x with f := lvl })
    let b := (s.hreg .power 0x10).toNat % 2 ^ 8
    exec (.frequencyLevelChange die lvl) s = .next { s with
      islands := isl
      ebudget := (List.range 8).map (fun d => match ((isl[3 * d]?).map Island.f).getD 0 with
        | 0 => b
        | 1 => 3 * b / 4
        | 2 => b / 2
        | _ => b / 4) }) ∧
  (∀ (s : State) code path, s.Takes path .sec 0x2008 → code.toNat = 0x4B39A1A3 →
    exec (.alcmdLevel2 code path) s = .next (s.alarm 9 0 2) ∧ exec (.alcmdLevel3 code path) s = .next (s.alarm 12 0 3)) ∧
  (∀ (s : State) code path, code.toNat ≠ 0x4B39A1A3 → s.Takes path .sec 0x2008 → exec (.alcmdLevel2 code path) s = .next s ∧ exec (.alcmdLevel3 code path) s = .next s) ∧
  (∀ s : State, exec .tamperMeshBroken s = .next (s.alarm 10 0 3)) ∧
  (∀ s : State, let t : State := { s with sec := { s.sec with src8At := some s.clock } }
    ((∀ c, s.sec.src8At = some c → c + 1000000 * us < s.clock) → exec .voltageClockFault s = .next (t.alarm 8 0 2)) ∧
    (∀ c, s.sec.src8At = some c → s.clock ≤ c + 1000000 * us → exec .voltageClockFault s = .next (t.alarm 11 0 3))) ∧
  (∀ (s : State) src arg lvl, ⟨s.clock, src, arg, lvl⟩ ∈ (s.alarm src arg lvl).sec.log ∧ (s.alarm src arg lvl).sec.alarm = max s.sec.alarm lvl ∧
    ((s.launches.map Launch.seq).Nodup → Cells.wf freeSlot s.sec.slots = true →
      (lvl = 2 → (∀ l ∈ (s.alarm src arg lvl).launches, l.r.keyh ≠ 0 → l.st ≠ .retired → l.status ≠ 0 ∧ ∀ q ∈ l.spans, q.st = .done) ∧
        (∀ n, ((s.alarm src arg lvl).keySlot n).st ≠ .live) ∧ (∀ x ∈ (s.alarm src arg lvl).l1, Word.key x.leaf = 0) ∧
        ∀ x ∈ (s.alarm src arg lvl).slices, Word.key x.leaf = 0) ∧
      (lvl = 3 → (∀ l ∈ (s.alarm src arg lvl).launches, l.st ≠ .retired → l.status ≠ 0 ∧ ∀ q ∈ l.spans, q.st = .done) ∧
        (∀ n, ((s.alarm src arg lvl).keySlot n).st = .free) ∧ (s.alarm src arg lvl).sec.erased = true ∧ (s.alarm src arg lvl).sec.cins = [])))

/-! ### Words, steps and reset -/

/-- R12, R23, R25, R56: words that the spec writes out beside their assembly decode to the instructions they stand for, one or more of each
class; a word with an unassigned opcode, or with a reserved bit set, decodes to none. -/
def Obligations.SpecWordsDecode : Prop :=
  let no : Guard := ⟨false, 0⟩
  let hd (k : BitVec 4) : Hdr := ⟨k, 0, no, no⟩
  (decode 0x2056028280E18000).toOption = some (.iadd ⟨4, 0, ⟨false, 2⟩, ⟨true, 3⟩⟩ (.v 5) (.reg (.v 1)) (.s 3) .i32) ∧
  (decode 0x0000C003E2014C04).toOption = some (.ld (hd 0) (.v 7) ⟨4, some (2, 2)⟩ .b32 4) ∧
  (decode 0xA0C1024012060B00).toOption = some (.pairedIadd 2 ⟨.v 4, .v 9, 0, false, 0⟩ ⟨.fmul, ⟨.v 6, .v 11, 0, false, 0⟩⟩) ∧
  (decode 0x2800410101820002).toOption = some (.fmul (hd 5) (.v 2) (.reg (.v 3)) (.v 4) .f32 .rtz) ∧
  (decode 0x00000101807FFFFB).toOption = some (.movi (hd 0) (.v 3) 0x7FFFFB) ∧
  (decode 0x0000400402819840).toOption = some (.fadd (hd 0) (.v 8) (.acc ⟨5, 12, 0⟩) (.v 3) .f32 .dyn) ∧
  (decode 0x0020800000018007).toOption = some (.bra ⟨0, 0, ⟨false, 1⟩, no⟩ 3 7) ∧
  (decode 0x0000C40362014D40).toOption = some (.bred (hd 0) (.v 6) ⟨4, some (2, 2)⟩ .b32 .fadd 0) ∧
  (decode 0x000100046280CC4C).toOption = some (.atom (hd 0) 8 ⟨5, some (1, 2)⟩ .b32 .add .qnt) ∧
  (decode 0x00014081E2628F84).toOption = some (.mma (hd 0) 3 4 5 (.bfp 7 3 .rne)) ∧
  (decode 0x0001806262E30182).toOption = some (.cpy (hd 0) 4 5 6 false (some 3)) ∧
  (decode 0x0001C461E1000000).toOption = some (.lnch (hd 0) 3 2) ∧
  (decode 0x0001900000000000).toOption = none ∧
  (decode 0x0000000000000001).toOption = none

/-- R8-R27, R38: bit 63 of a word selects the form, and the all-zero word is nop; every well-formed word has an encoding, and decoding it gives the instruction back with every operand; a word that
decodes is the encoding of the one well-formed instruction it decodes to. -/
def Obligations.EncodeThenDecode : Prop :=
  (∀ i, isEvent i = false → i.wf = true → ∃ w, encode i = some w ∧ decode w = .ok i) ∧
  (∀ i w, decode w = .ok i → isEvent i = false ∧ i.wf = true ∧ encode i = some w) ∧
  (∀ i, isEvent i = true → encode i = none) ∧
  (∀ i w, decode w = .ok i → w.getLsbD 63 = i.pair?.isSome) ∧ decode 0 = .ok (.nop ⟨0, 0, ⟨false, 0⟩, ⟨false, 0⟩⟩)

/-- R11, R38, R255, R257, R355: a step runs the next event of the inbox, else the event that is due, else the word of the fragment or stream
whose turn it is: the bytes at its program counter are fetched and decoded, and the step is exec of the instruction at that state
(followed by what a debugger's step observes); a word that does not decode traps ILL. Otherwise what waits goes on, or the clock advances.
The order of the choices, the counter of the free values and the lines that caches have replaced when the step begins are the model's
(log entries 1, 8, 26 and 73). -/
def Obligations.StepRunsDecodedWord : Prop := ∀ s : State,
  let s1 : State := ({ s with nonce := s.nonce + 1, cur := .none } : State).evict
  let at_ (s : State) (c : Loc) : Word := BitVec.ofNat 64 (leNat (s.homeBytes c 8))
  (∀ i rest, s.inbox = i :: rest → isEvent i = true → step s = exec i { s1 with inbox := rest }) ∧
  (s.inbox = [] → ∀ i, s1.due = some i → step s = exec i s1) ∧
  (s.inbox = [] → s1.due = none →
    (∀ t gi g f l s2 r, s1.pick = some (.frag t gi g f) → s1.launch? t.seq = some l → g.atRc f = false → s1.comparator t gi f = none →
      s1.reach1 (l.space t.die) .fetch true false 8 f.pc = (s2, r) →
      let s3 : State := { s2 with cur := .frag t.id gi f.ent }
      let after : State → State := s1.acted l (t.span, t.idx, gi, f.ent)
      (∀ c tr, r = .ok (c, tr) → s3.coldHome c = false →
        (∀ i, decode (at_ s3 c) = .ok i → step s = andThen (exec i s3) after) ∧
        (∀ e, decode (at_ s3 c) = .error e → step s = .next (after (s3.takeTrap (.frag t.id gi f.ent) { code := cILL, tval := at_ s3 c })))) ∧
      (∀ e, r = .error e → replayable e = false →
        step s = .next (after (s2.takeTrap (.frag t.id gi f.ent) { code := cMEMF, sub := e, tval := f.pc })))) ∧
    (∀ n x s2 r, s1.pick = some (.stream n x) → s1.reach1 ⟨x.asid, x.part, 0, 8, none⟩ .fetch true false 8 x.pc = (s2, r) →
      let s3 : State := { s2 with cur := .stream n }
      (∀ c tr, r = .ok (c, tr) → s3.coldHome c = false →
        (∀ i, decode (at_ s3 c) = .ok i → step s = andThen (exec i s3) (fun s => { s with cur := .none })) ∧
        (∀ e, decode (at_ s3 c) = .error e →
          step s = .next { s3.takeTrap (.stream n) { code := cILL, tval := at_ s3 c } with cur := .none })) ∧
      (∀ e, r = .error e → step s = .next { s2.takeTrap (.stream n) { code := cMEMF, sub := e, tval := x.pc } with cur := .none })) ∧
    (s1.pick = none → (∀ s2, s1.resume = some s2 → step s = .next s2) ∧ (s1.resume = none → step s = .next s1.tick)))

/-- R13, R14, R15-R17, R32, R33, R35, R38, R39, R213: the checks at issue in their order: ILL, PRIV, ROLE, ACCIDX, STALLCHK trap with none of
the word's effect; a word that names a pending register, or reads a tile that is still to be written, waits; a word no lane
of which has a true condition only moves its fragment on; every other word issues, for the lanes whose condition is true. -/
def Obligations.IssueChecks : Prop := ∀ (s : State) (i : Instr) tid gi ent t g l f, isEvent i = false → s.cur = .frag tid gi ent →
  s.team? tid = some t → t.groups[gi]? = some g → s.launch? t.seq = some l → g.frag? ent = some f →
  let sh := i.shape l.r.width
  let refs := guardRefs i ++ sh.reads
  let legal : Prop := i.wf = true ∧ ∀ r ∈ sh.reads ++ sh.writes, r.below l.r.vregs = true
  let handler : Prop := g.handler = some ent
  let role : Prop := sh.role = none ∨ sh.role = some g.role
  let checks : Prop := l.r.chk = true ∧ g.mode.getLsbD 6 = true ∧ f.inInv = none
  let unit : Prop := s.freeUnit t (i.perLane l.r.width) ≠ none ∧ ¬ (i.perLane l.r.width = true ∧ s.clock < g.pipeAt)
  let act := actLanes i s l.r.width g f
  let moved := (s.modGroup tid gi (fun g => g.issued ent s.clock (stallOf i) (if i.perLane l.r.width then pipeCycles f.mask else 0))).charge t f act (i.perLane l.r.width)
  let x : Issue := ⟨.frag tid gi ent, t, gi, g, f, l, wordOf i, f.pc, act, moved⟩
  let trapW (c : Nat) : Prop := Traps i s { code := c, tval := wordOf i }
  (¬ legal → trapW cILL) ∧
  (legal →
    ((∃ h d a b tl, i = .lnch h d a ∨ i = .ldep h a b tl ∨ i = .lwait h a b tl ∨ i = .lsig h a b tl) → trapW cPRIV) ∧
    ((∃ h, i = .rtt h) → ¬ handler → trapW cPRIV) ∧
    (∀ h a sr, i = .wrsr h a sr → sr ≠ .mode → sr ≠ .flags → sr ≠ .gstat → (sr = .tpc → ¬ handler) →
      Traps i s { code := cPRIV, tval := BitVec.ofNat 64 sr.code }) ∧
    (privTrap i (wordOf i) (g.handler == some ent) = none →
      (¬ role → trapW cROLE) ∧
      (role →
        (accidx t l.r.width sh = true → trapW cACCIDX) ∧
        (accidx t l.r.width sh = false →
          ((∃ p ∈ g.pend, ∃ q ∈ p.regs, ∃ r ∈ refs ++ sh.writes, q.hits r = true) → exec i s = .next (s.tally t 5 1).retry) ∧
          ((∀ p ∈ g.pend, ∀ q ∈ p.regs, ∀ r ∈ refs ++ sh.writes, q.hits r = false) →
            (f.st = .ready → ¬ unit → exec i s = .next s.retry) ∧
            (f.st ≠ .ready ∨ unit →
              (∀ w, g.sourceWait t f sh = some w → exec i s = .next (s.modGroup tid gi (fun g => g.awaitTile f w.1 w.2)).retry) ∧
              (g.sourceWait t f sh = none →
                (∀ r, checks → refs.find? (g.early s.clock) = some r →
                  let c : Trap := { code := cSTALLCHK, tval := BitVec.ofNat 64 r.spec }
                  (act = 0 ∧ actsEmpty i = false ∨ (∃ h d v, i = .movi h d v) ∨ (∃ h d a b w, i = .iadd h d a b w) ∨ (∃ h d a b k m, i = .fmul h d a b k m) →
                    Traps i s c) ∧
                  (act ≠ 0 ∨ actsEmpty i = true → issue i s = .early c x ∧
                    (exec i s = .next s.retry ∨ Traps i s c ∨ ∃ d : Trap, d.code = cILL ∧ d.sub = 0 ∧ Traps i s d))) ∧
                ((checks → ∀ r ∈ refs, g.early s.clock r = false) →
                  (act = 0 → actsEmpty i = false → exec i s = .next moved) ∧ (act ≠ 0 → Issues i s x))))))))) ∧
  (∀ h lane, i.hdr? = some h → f.inInv = none → f.todo = none → lane < l.r.width → f.mask.getLsbD lane = true →
    ((actLanes i s l.r.width g f).getLsbD lane = true ↔
      g.guardOn s.clock s.nonce h.g0 lane = true ∧ g.guardOn s.clock s.nonce h.g1 lane = true)) ∧
  (∀ (x : Guard) lane, (x.idx = 0 → (g.guardOn s.clock s.nonce x lane = true ↔ x.neg = false)) ∧
    (x.idx ≠ 0 → (g.guardOn s.clock s.nonce x lane = true ↔
      (if x.neg then g.read s.clock s.nonce (.p x.idx.toNat lane) = 0 else g.read s.clock s.nonce (.p x.idx.toNat lane) ≠ 0))))

/-- A step keeps the canonical form of memory: DRAM, host memory, the keys its lines are stored under and the bytes that are bad list
addresses in rising order and nothing that reads as an unlisted address does, whatever the step does. -/
def Obligations.StepKeepsMemoryForm : Prop := StepKeeps State.MemOk

/-- R96, R253, R309, R322, R367, R370, R393, R442, R447: after package reset CLOCK is 0 and sequence numbers count from 1; no team, launch or
access is there; every stream is idle with its registers 0; every slot but slot 0 is FREE; no TDI is configured; no alarm is raised;
way masks, the power limit and the budget read as their tables give, every other register reads 0; islands 0 to 26 are active and 27
to 29 off. Memory holds nothing, in its canonical form (what an unwritten byte reads as is the model's choice, log entry 3). -/
def Obligations.ResetState : Prop :=
  let s := State.reset
  s.clock = 0 ∧ s.nextSeq = 1 ∧ s.teams = [] ∧ s.launches = [] ∧ s.homeOps = [] ∧ s.queues = [] ∧ s.l1 = [] ∧ s.tlb = [] ∧ s.chain = [] ∧ s.replicas = [] ∧ s.slices = [] ∧
  s.streams.length = 8 ∧ (∀ x ∈ s.streams, x.st = .idle ∧ x.s = [] ∧ x.cause = 0 ∧ x.sub = 0 ∧ x.smtpc = 0 ∧ x.smtval = 0 ∧ x.drop = false ∧
    x.arg = 0 ∧ x.ctab = 0 ∧ x.pseq = 0 ∧ x.deps = []) ∧
  s.sec.slots = [] ∧ s.sec.saves = [] ∧ s.sec.cins = [] ∧ s.sec.alarm = 0 ∧ s.sec.audit = [] ∧ (∀ p, s.tdiOf p = .unlocked) ∧
  (∀ b off, s.hreg b off = regReset b off) ∧ s.hreg .power 8 = 2800 ∧ s.hreg .power 0x10 = 48 ∧ (∀ d, d < 8 → s.hreg .xlat (0x4000 + 0x40 * d) = 0xFFFF) ∧
  (∀ i, i < 27 → (s.islands[i]?).map Island.st = some 0) ∧ (∀ i, 27 ≤ i → i < 30 → (s.islands[i]?).map Island.st = some 3) ∧
  (∀ d, d < 8 → s.ebudget[d]? = some 48) ∧ s.MemOk
end

