-- ==== Sys2Proof/Laws/Cells.lean ====
section
/-! SUPPORT. The laws of finite maps: a read after a write, and that every write keeps the canonical form. -/

namespace Sys2Proof.Machine

variable {α : Type}

/-- Every key of the map is at least n. -/
def Cells.From (n : Nat) (m : Cells α) : Prop := ∀ e ∈ m, n ≤ e.1

@[simp] theorem Cells.get_nil (d : α) (a : Nat) : Cells.get d [] a = d := rfl

theorem Cells.get_cons (d : α) (k : Nat) (v : α) (rest : Cells α) (a : Nat) :
    Cells.get d ((k, v) :: rest) a = if k = a then v else if a < k then d else Cells.get d rest a := rfl

/-- A key below every listed one reads as the default. -/
theorem Cells.get_of_lt (d : α) {m : Cells α} {a : Nat} (h : Cells.From (a + 1) m) : Cells.get d m a = d := by
  cases m with
  | nil => rfl
  | cons e rest =>
    have he := h e (by simp)
    rw [show e = (e.1, e.2) from rfl, Cells.get_cons, if_neg (by omega), if_pos (by omega)]

theorem Cells.From.mono {n k : Nat} {m : Cells α} (h : Cells.From n m) (hk : k ≤ n) : Cells.From k m :=
  fun e he => Nat.le_trans hk (h e he)

variable [DecidableEq α]

@[simp] theorem Cells.wf_nil (d : α) : Cells.wf d [] = true := rfl

/-- The canonical form, entry by entry. -/
theorem Cells.wf_cons (d : α) (k : Nat) (v : α) (rest : Cells α) :
    Cells.wf d ((k, v) :: rest) = true ↔ v ≠ d ∧ Cells.From (k + 1) rest ∧ Cells.wf d rest = true := by
  induction rest generalizing k v with
  | nil => simp [Cells.wf, Cells.From]
  | cons e tail ih =>
    obtain ⟨k', v'⟩ := e
    simp only [Cells.wf, Bool.and_eq_true, decide_eq_true_eq, Cells.From, List.mem_cons, forall_eq_or_imp]
    constructor
    · rintro ⟨⟨h1, h2⟩, h3⟩
      have h4 := ((ih k' v').1 h3).2.1
      exact ⟨h1, ⟨by omega, fun e he => by have := h4 e he; omega⟩, h3⟩
    · rintro ⟨h1, ⟨h2, -⟩, h3⟩
      exact ⟨⟨h1, by omega⟩, h3⟩

/-- The keys of a map after a write are its own and the written one. -/
theorem Cells.from_set (d : α) {n : Nat} {m : Cells α} (a : Nat) (x : α) (h : Cells.From n m) (ha : n ≤ a) :
    Cells.From n (Cells.set d m a x) := by
  induction m with
  | nil => unfold Cells.set; split <;> simp [Cells.From, ha]
  | cons e rest ih =>
    obtain ⟨k, v⟩ := e
    have hk : n ≤ k := h (k, v) (by simp)
    have hr : Cells.From n rest := fun e he => h e (by simp [he])
    unfold Cells.set
    split
    · split
      · exact hr
      · intro e he; simp only [List.mem_cons] at he; rcases he with rfl | he
        · exact ha
        · exact hr e he
    · split
      · split
        · exact h
        · intro e he; simp only [List.mem_cons] at he; rcases he with rfl | rfl | he
          · exact ha
          · exact hk
          · exact hr e he
      · intro e he; simp only [List.mem_cons] at he; rcases he with rfl | he
        · exact hk
        · exact ih hr e he

/-- A write keeps the canonical form. -/
theorem Cells.wf_set (d : α) {m : Cells α} (h : Cells.wf d m = true) (a : Nat) (x : α) :
    Cells.wf d (Cells.set d m a x) = true := by
  induction m with
  | nil => unfold Cells.set; split <;> simp_all [Cells.wf]
  | cons e rest ih =>
    obtain ⟨k, v⟩ := e
    obtain ⟨hv, hf, hw⟩ := (Cells.wf_cons d k v rest).1 h
    unfold Cells.set
    split
    · rename_i hk; subst hk
      split
      · exact hw
      · rename_i hx; exact (Cells.wf_cons ..).2 ⟨hx, hf, hw⟩
    · split
      · split
        · exact h
        · rename_i hk ha hx
          refine (Cells.wf_cons ..).2 ⟨hx, ?_, h⟩
          intro e he; simp only [List.mem_cons] at he; rcases he with rfl | he
          · exact ha
          · have := hf e he; omega
      · rename_i hk ha
        exact (Cells.wf_cons ..).2 ⟨hv, Cells.from_set d a x hf (by omega), ih hw⟩

/-- What a key reads as after a write. -/
theorem Cells.get_set (d : α) {m : Cells α} (h : Cells.wf d m = true) (a b : Nat) (x : α) :
    Cells.get d (Cells.set d m a x) b = if a = b then x else Cells.get d m b := by
  induction m with
  | nil => unfold Cells.set; split <;> split <;> simp_all [Cells.get]
  | cons e rest ih =>
    obtain ⟨k, v⟩ := e
    obtain ⟨hv, hf, hw⟩ := (Cells.wf_cons d k v rest).1 h
    unfold Cells.set
    split
    · rename_i hk; subst hk
      split
      · rename_i hx; subst hx
        by_cases hb : k = b
        · subst hb; simp [Cells.get_of_lt x hf]
        · rw [if_neg hb, Cells.get_cons, if_neg hb]
          split
          · rename_i hlt; exact Cells.get_of_lt x (hf.mono (by omega))
          · rfl
      · simp only [Cells.get_cons]
        split <;> rfl
    · rename_i hk
      split
      · rename_i ha
        split
        · rename_i hx; subst hx
          by_cases hb : a = b
          · subst hb; rw [Cells.get_cons, if_neg hk, if_pos ha]; simp
          · rw [if_neg hb]
        · simp only [Cells.get_cons]
          by_cases hb : a = b
          · simp [hb]
          · simp only [hb, if_false]
            split
            · rename_i hlt; rw [if_neg (by omega), if_pos (by omega)]
            · rfl
      · rename_i ha
        simp only [Cells.get_cons, ih hw]
        by_cases hb : k = b
        · have : a ≠ b := by omega
          simp [hb, this]
        · simp only [hb, if_false]
          split
          · rw [if_neg (by omega)]
          · rfl

@[simp] theorem Cells.get_set_same (d : α) {m : Cells α} (h : Cells.wf d m = true) (a : Nat) (x : α) :
    Cells.get d (Cells.set d m a x) a = x := by simp [Cells.get_set d h]

theorem Cells.get_set_ne (d : α) {m : Cells α} (h : Cells.wf d m = true) {a b : Nat} (hab : a ≠ b) (x : α) :
    Cells.get d (Cells.set d m a x) b = Cells.get d m b := by simp [Cells.get_set d h, hab]

/-- A filter of a canonical map is canonical. -/
theorem Cells.wf_filter (d : α) (p : Nat × α → Bool) {m : Cells α} (h : Cells.wf d m = true) : Cells.wf d (m.filter p) = true := by
  induction m with
  | nil => rfl
  | cons e rest ih =>
    obtain ⟨k, v⟩ := e
    obtain ⟨hv, hf, hw⟩ := (Cells.wf_cons d k v rest).1 h
    rw [List.filter_cons]
    split
    · exact (Cells.wf_cons ..).2 ⟨hv, fun e he => hf e ((List.mem_filter.1 he).1), ih hw⟩
    · exact ih hw

theorem Cells.wf_drop (d : α) (p : Nat → Bool) {m : Cells α} (h : Cells.wf d m = true) : Cells.wf d (Cells.drop p m) = true :=
  Cells.wf_filter d _ h

omit [DecidableEq α] in
/-- A key below every listed one, in a canonical map. -/
theorem Cells.get_cons_lt (d : α) {k : Nat} {v : α} {rest : Cells α} {a : Nat} (h : a < k) :
    Cells.get d ((k, v) :: rest) a = d := by rw [Cells.get_cons, if_neg (by omega), if_pos h]

omit [DecidableEq α] in
/-- The values at keys that are all below every listed one. -/
theorem Cells.replicate_eq (d : α) {m : Cells α} {lo n : Nat} (h : Cells.From (lo + n) m) :
    List.replicate n d = (List.range n).map (fun j => Cells.get d m (lo + j)) := by
  refine (List.eq_replicate_iff.2 ⟨by simp, fun b hb => ?_⟩).symm
  simp only [List.mem_map, List.mem_range] at hb
  obtain ⟨j, hj, rfl⟩ := hb
  exact Cells.get_of_lt d (h.mono (by omega))

/-- A slice is the values at its keys, in order. -/
theorem Cells.slice_eq (d : α) {m : Cells α} (h : Cells.wf d m = true) (lo n : Nat) :
    Cells.slice d m lo n = (List.range n).map (fun j => Cells.get d m (lo + j)) := by
  induction m generalizing lo n with
  | nil => exact Cells.replicate_eq d (m := []) (by simp [Cells.From])
  | cons e rest ih =>
    obtain ⟨k, v⟩ := e
    obtain ⟨hv, hf, hw⟩ := (Cells.wf_cons d k v rest).1 h
    unfold Cells.slice
    split
    · rename_i hlt
      rw [ih hw]
      exact List.map_congr_left fun j _ => by rw [Cells.get_cons, if_neg (by omega), if_neg (by omega)]
    · split
      · rename_i hle
        refine Cells.replicate_eq d (m := (k, v) :: rest) fun e he => ?_
        simp only [List.mem_cons] at he
        rcases he with rfl | he
        · exact hle
        · have := hf e he; omega
      · rename_i hk hle
        have hn : n = (k - lo) + (1 + (n - (k - lo) - 1)) := by omega
        rw [ih hw]
        conv => rhs; rw [hn, List.range_add, List.range_add]
        simp only [List.map_append, List.map_map, List.range_one, List.map_cons, Function.comp_def, List.singleton_append]
        congr 1
        · refine List.eq_replicate_iff.2 ⟨by simp, fun b hb => ?_⟩ |>.symm
          simp only [List.mem_map, List.mem_range] at hb
          obtain ⟨j, hj, rfl⟩ := hb
          exact Cells.get_cons_lt d (by omega)
        · congr 1
          · rw [Cells.get_cons, if_pos (by omega)]
          · exact List.map_congr_left fun j _ => by
              rw [Cells.get_cons, if_neg (by omega), if_neg (by omega)]; congr 1; omega

/-- What a list of values becomes as entries from a key upwards. -/
def Cells.entries (d : α) (lo : Nat) (xs : List α) (i : Nat) : Cells α :=
  (xs.zipIdx i).filterMap (fun x => if x.1 = d then none else some (lo + x.2, x.1))

theorem Cells.entries_cons (d : α) (lo : Nat) (x : α) (xs : List α) (i : Nat) :
    Cells.entries d lo (x :: xs) i = if x = d then Cells.entries d lo xs (i + 1) else (lo + i, x) :: Cells.entries d lo xs (i + 1) := by
  unfold Cells.entries
  rw [List.zipIdx_cons, List.filterMap_cons]
  by_cases h : x = d <;> simp [h]

theorem Cells.entries_from (d : α) (lo : Nat) (xs : List α) (i : Nat) : Cells.From (lo + i) (Cells.entries d lo xs i) := by
  induction xs generalizing i with
  | nil => intro e he; simp [Cells.entries] at he
  | cons x xs ih =>
    rw [Cells.entries_cons]
    split
    · exact (ih (i + 1)).mono (by omega)
    · intro e he
      simp only [List.mem_cons] at he
      rcases he with rfl | he
      · exact Nat.le_refl _
      · exact Nat.le_trans (by omega) (ih (i + 1) e he)

/-- Every key of the map is below n. -/
def Cells.Below (n : Nat) (m : Cells α) : Prop := ∀ e ∈ m, e.1 < n

theorem Cells.entries_below (d : α) (lo : Nat) (xs : List α) (i : Nat) :
    Cells.Below (lo + i + xs.length) (Cells.entries d lo xs i) := by
  induction xs generalizing i with
  | nil => intro e he; simp [Cells.entries] at he
  | cons x xs ih =>
    have h : Cells.Below (lo + i + (x :: xs).length) (Cells.entries d lo xs (i + 1)) := fun e he => by
      have := ih (i + 1) e he; simp only [List.length_cons]; omega
    rw [Cells.entries_cons]
    split
    · exact h
    · intro e he
      simp only [List.mem_cons] at he
      rcases he with rfl | he
      · simp only [List.length_cons]; omega
      · exact h e he

theorem Cells.wf_entries (d : α) (lo : Nat) (xs : List α) (i : Nat) : Cells.wf d (Cells.entries d lo xs i) = true := by
  induction xs generalizing i with
  | nil => rfl
  | cons x xs ih =>
    rw [Cells.entries_cons]
    split
    · exact ih _
    · rename_i h; exact (Cells.wf_cons ..).2 ⟨h, Cells.entries_from d lo xs (i + 1), ih _⟩

/-- Two canonical maps with the keys of one below those of the other. -/
theorem Cells.wf_append (d : α) {m k : Cells α} {n : Nat} (hm : Cells.wf d m = true) (hk : Cells.wf d k = true)
    (hb : Cells.Below n m) (hf : Cells.From n k) : Cells.wf d (m ++ k) = true := by
  induction m with
  | nil => exact hk
  | cons e rest ih =>
    obtain ⟨a, v⟩ := e
    obtain ⟨hv, hr, hw⟩ := (Cells.wf_cons d a v rest).1 hm
    rw [List.cons_append]
    refine (Cells.wf_cons ..).2 ⟨hv, fun e he => ?_, ih hw fun e he => hb e (by simp [he])⟩
    simp only [List.mem_append] at he
    rcases he with he | he
    · exact hr e he
    · have h1 := hf e he
      have h2 := hb (a, v) (by simp)
      simp only at h2; omega

theorem Cells.get_append (d : α) {m k : Cells α} {n : Nat} (hm : Cells.wf d m = true) (hb : Cells.Below n m) (hf : Cells.From n k) (a : Nat) :
    Cells.get d (m ++ k) a = if a < n then Cells.get d m a else Cells.get d k a := by
  induction m with
  | nil =>
    simp only [List.nil_append, Cells.get_nil]
    split
    · rename_i h; exact Cells.get_of_lt d (hf.mono h)
    · rfl
  | cons e rest ih =>
    obtain ⟨b, v⟩ := e
    obtain ⟨hv, hr, hw⟩ := (Cells.wf_cons d b v rest).1 hm
    have hbn := hb (b, v) (by simp)
    simp only at hbn
    rw [List.cons_append, Cells.get_cons, ih hw (fun e he => hb e (by simp [he])), Cells.get_cons]
    by_cases h1 : b = a
    · simp [h1]; omega
    · by_cases h2 : a < b
      · simp [h1, h2]; omega
      · simp [h1, h2]

theorem Cells.get_entries (d : α) (lo : Nat) (xs : List α) (i a : Nat) :
    Cells.get d (Cells.entries d lo xs i) a = if lo + i ≤ a then xs.getD (a - lo - i) d else d := by
  induction xs generalizing i with
  | nil => simp [Cells.entries]
  | cons x xs ih =>
    rw [Cells.entries_cons]
    have hx : ∀ z, lo + i < a → (x :: xs).getD (a - lo - i) z = xs.getD (a - lo - (i + 1)) z := fun z h => by
      rw [show a - lo - i = (a - lo - (i + 1)) + 1 by omega, List.getD_cons_succ]
    by_cases h0 : a = lo + i
    · subst h0
      split
      · rename_i h; subst h; rw [ih, if_neg (by omega)]; simp
      · simp [Cells.get_cons]
    · split
      · rw [ih]
        by_cases h1 : lo + i ≤ a
        · rw [if_pos h1, if_pos (by omega), hx d (by omega)]
        · rw [if_neg h1, if_neg (by omega)]
      · rw [Cells.get_cons, if_neg (by omega), ih]
        by_cases h1 : lo + i ≤ a
        · rw [if_neg (by omega), if_pos h1, if_pos (by omega), hx d (by omega)]
        · rw [if_neg h1, if_pos (by omega)]

theorem Cells.get_filter_lt (d : α) {m : Cells α} (h : Cells.wf d m = true) (n a : Nat) :
    Cells.get d (m.filter (fun e => decide (e.1 < n))) a = if a < n then Cells.get d m a else d := by
  induction m with
  | nil => simp
  | cons e rest ih =>
    obtain ⟨k, v⟩ := e
    obtain ⟨hv, hf, hw⟩ := (Cells.wf_cons d k v rest).1 h
    rw [List.filter_cons]
    by_cases hk : k < n
    · simp only [hk, decide_true, if_true, Cells.get_cons, ih hw]
      by_cases h1 : k = a
      · simp [h1] at hk ⊢; omega
      · by_cases h2 : a < k
        · simp [h1, h2]
        · simp [h1, h2]
    · simp only [hk, decide_false, Bool.false_eq_true, if_false, ih hw, Cells.get_cons]
      split
      · rename_i ha
        rw [if_neg (by omega), if_pos (by omega)]
        exact Cells.get_of_lt d (hf.mono (by omega))
      · rfl

theorem Cells.get_filter_ge (d : α) {m : Cells α} (h : Cells.wf d m = true) (n a : Nat) (ha : n ≤ a) :
    Cells.get d (m.filter (fun e => decide (n ≤ e.1))) a = Cells.get d m a := by
  induction m with
  | nil => simp
  | cons e rest ih =>
    obtain ⟨k, v⟩ := e
    obtain ⟨hv, hf, hw⟩ := (Cells.wf_cons d k v rest).1 h
    rw [List.filter_cons]
    by_cases hk : n ≤ k
    · simp only [hk, decide_true, if_true, Cells.get_cons, ih hw]
    · simp only [hk, decide_false, Bool.false_eq_true, if_false, ih hw, Cells.get_cons]
      rw [if_neg (by omega), if_neg (by omega)]

/-- Replacing a range keeps the canonical form. -/
theorem Cells.wf_splice (d : α) {m : Cells α} (h : Cells.wf d m = true) (lo : Nat) (xs : List α) :
    Cells.wf d (Cells.splice d m lo xs) = true := by
  have h1 : Cells.Below lo (m.filter (fun e => decide (e.1 < lo))) := fun e he => by simpa using (List.mem_filter.1 he).2
  have h2 : Cells.From lo (Cells.entries d lo xs 0) := (Cells.entries_from d lo xs 0).mono (by omega)
  have h3 : Cells.Below (lo + xs.length) (m.filter (fun e => decide (e.1 < lo)) ++ Cells.entries d lo xs 0) := fun e he => by
    simp only [List.mem_append] at he
    rcases he with he | he
    · have := h1 e he; omega
    · exact Cells.entries_below d lo xs 0 e he
  have h4 : Cells.From (lo + xs.length) (m.filter (fun e => decide (lo + xs.length ≤ e.1))) := fun e he => by simpa using (List.mem_filter.1 he).2
  exact Cells.wf_append d (Cells.wf_append d (Cells.wf_filter d _ h) (Cells.wf_entries d lo xs 0) h1 h2) (Cells.wf_filter d _ h) h3 h4

/-- What a key reads as once a range is replaced. -/
theorem Cells.get_splice (d : α) {m : Cells α} (h : Cells.wf d m = true) (lo : Nat) (xs : List α) (a : Nat) :
    Cells.get d (Cells.splice d m lo xs) a =
      if lo ≤ a ∧ a < lo + xs.length then xs.getD (a - lo) d else Cells.get d m a := by
  have h1 : Cells.Below lo (m.filter (fun e => decide (e.1 < lo))) := fun e he => by simpa using (List.mem_filter.1 he).2
  have h2 : Cells.From lo (Cells.entries d lo xs 0) := (Cells.entries_from d lo xs 0).mono (by omega)
  have h3 : Cells.Below (lo + xs.length) (m.filter (fun e => decide (e.1 < lo)) ++ Cells.entries d lo xs 0) := fun e he => by
    simp only [List.mem_append] at he
    rcases he with he | he
    · have := h1 e he; omega
    · exact Cells.entries_below d lo xs 0 e he
  have h4 : Cells.From (lo + xs.length) (m.filter (fun e => decide (lo + xs.length ≤ e.1))) := fun e he => by simpa using (List.mem_filter.1 he).2
  have hw := Cells.wf_append d (Cells.wf_filter d _ h) (Cells.wf_entries d lo xs 0) h1 h2
  change Cells.get d ((m.filter (fun e => decide (e.1 < lo)) ++ Cells.entries d lo xs 0) ++ m.filter (fun e => decide (lo + xs.length ≤ e.1))) a = _
  rw [Cells.get_append d hw h3 h4, Cells.get_append d (Cells.wf_filter d _ h) h1 h2, Cells.get_filter_lt d h, Cells.get_entries]
  by_cases c1 : a < lo
  · have : a < lo + xs.length := by omega
    simp [c1, this, show ¬ lo ≤ a by omega]
  · by_cases c2 : a < lo + xs.length
    · simp [c1, c2, show lo ≤ a by omega]
    · simp only [c2, if_false, and_false]
      exact Cells.get_filter_ge d h _ _ (by omega)

end Sys2Proof.Machine
end

