-- ==== Sys2Proof/Laws/Crypto.lean ====
section
/-! SUPPORT. The lengths of what the algorithms give: a block of AES-256, a key of the KDF, a tag of GCM. -/

namespace Sys2Proof.Machine

/-- Every word of the key schedule has four bytes. -/
theorem aesExpand_length : ∀ (fuel i rcon : Nat) (ws : List (List Nat)), 8 ≤ ws.length → (∀ w ∈ ws, w.length = 4) →
    (aesExpand fuel i rcon ws).length = ws.length + fuel ∧ ∀ w ∈ aesExpand fuel i rcon ws, w.length = 4
  | 0, _, _, _, _, h => ⟨rfl, h⟩
  | fuel + 1, i, rcon, ws, h8, h => by
    have hl : (ws.headD []).length = 4 := by
      cases ws with
      | nil => simp at h8
      | cons w ws => exact h w (by simp)
    have hb : (ws.getD 7 []).length = 4 := by
      rw [List.getD_eq_getElem?_getD, List.getElem?_eq_getElem (by omega)]
      exact h _ (List.getElem_mem _)
    obtain ⟨h1, h2⟩ := aesExpand_length fuel (i + 1) (if i % 8 = 0 then xtime rcon else rcon)
      (xorList (ws.getD 7 []) (if i % 8 = 0 then xorList (subWord ((ws.headD []).drop 1 ++ (ws.headD []).take 1)) [rcon, 0, 0, 0]
        else if i % 8 = 4 then subWord (ws.headD []) else ws.headD []) :: ws) (by simp; omega) (by
        intro w hw
        rcases List.mem_cons.1 hw with rfl | hw
        · split
          · simp only [xorList, subWord, List.length_zipWith, List.length_map, List.length_append, List.length_drop, List.length_take, hl, hb, List.length_cons,
              List.length_nil]
            rfl
          · split <;> simp only [xorList, subWord, List.length_zipWith, List.length_map, hl, hb] <;> rfl
        · exact h w hw)
    exact ⟨by rw [aesExpand, h1, List.length_cons]; omega, by rw [aesExpand]; exact h2⟩

theorem aesKeys_last (key : List Nat) (h : key.length = 32) : ((aesKeys key).getD 14 []).length = 16 := by
  obtain ⟨h1, h2⟩ := aesExpand_length 52 8 1 ((List.range 8).map (fun j => (key.drop (4 * j)).take 4)).reverse (by simp) (by
    intro w hw
    simp only [List.mem_reverse, List.mem_map, List.mem_range] at hw
    obtain ⟨j, hj, rfl⟩ := hw
    simp only [List.length_take, List.length_drop, h]
    omega)
  have hf : (aesExpand 52 8 1 ((List.range 8).map (fun j => (key.drop (4 * j)).take 4)).reverse).reverse.flatten.length = 240 := by
    rw [List.length_flatten, List.map_congr_left (g := fun _ => 4) (fun w hw => h2 w (List.mem_reverse.1 hw)), List.map_const', List.length_reverse, h1]
    simp
  simp only [aesKeys]
  rw [List.getD_eq_getElem?_getD, List.getElem?_eq_getElem (by simp)]
  simp only [Option.getD_some, List.getElem_map, List.getElem_range, List.length_take, List.length_drop, hf]
  rfl

/-- A block under a key of 32 bytes has 16 bytes. -/
theorem aesWith_length (key blk : List Nat) (h : key.length = 32) : (aesWith (aesKeys key) blk).length = 16 := by
  simp only [aesWith, xorList, shiftRows, List.length_zipWith, List.length_map, List.length_range, aesKeys_last key h]
  rfl

/-- A key of the KDF under a key of 32 bytes has 32 bytes. -/
theorem kdf_length (key label ctx : List Nat) (h : key.length = 32) : (kdf key label ctx).length = 32 := by
  simp only [kdf, h, if_pos, List.length_append, cmac, aesWith_length key _ h]

theorem gcmTag_length (key iv aad ct : List Nat) (h : key.length = 32) : (gcmTag key iv aad ct).length = 16 := by
  have hb (n : Nat) : (beBytes 16 n).length = 16 := rfl
  simp only [gcmTag, xorList, List.length_zipWith, aesWith_length key _ h, List.length_map, hb]
  rfl

end Sys2Proof.Machine
end

