-- ==== Sys2Proof/Laws/State.lean ====
section
/-! SUPPORT. One lemma for each field of the state and each operation that changes another one, so that no later proof unfolds a
record update. -/

namespace Sys2Proof.Machine

variable (s : State)

@[simp] theorem State.modTeam_nonce (id : Nat) (f : Team → Team) : (s.modTeam id f).nonce = s.nonce := rfl
@[simp] theorem State.modTeam_inbox (id : Nat) (f : Team → Team) : (s.modTeam id f).inbox = s.inbox := rfl
@[simp] theorem State.modTeam_cur (id : Nat) (f : Team → Team) : (s.modTeam id f).cur = s.cur := rfl
@[simp] theorem State.modTeam_clock (id : Nat) (f : Team → Team) : (s.modTeam id f).clock = s.clock := rfl
@[simp] theorem State.modTeam_mem (id : Nat) (f : Team → Team) : (s.modTeam id f).mem = s.mem := rfl
@[simp] theorem State.modTeam_hostMem (id : Nat) (f : Team → Team) : (s.modTeam id f).hostMem = s.hostMem := rfl
@[simp] theorem State.modTeam_slotOf (id : Nat) (f : Team → Team) : (s.modTeam id f).slotOf = s.slotOf := rfl
@[simp] theorem State.modTeam_poisoned (id : Nat) (f : Team → Team) : (s.modTeam id f).poisoned = s.poisoned := rfl
@[simp] theorem State.modTeam_nextId (id : Nat) (f : Team → Team) : (s.modTeam id f).nextId = s.nextId := rfl
@[simp] theorem State.modTeam_l1 (id : Nat) (f : Team → Team) : (s.modTeam id f).l1 = s.l1 := rfl
@[simp] theorem State.modTeam_homeOps (id : Nat) (f : Team → Team) : (s.modTeam id f).homeOps = s.homeOps := rfl
@[simp] theorem State.modTeam_queues (id : Nat) (f : Team → Team) : (s.modTeam id f).queues = s.queues := rfl
@[simp] theorem State.modTeam_tlb (id : Nat) (f : Team → Team) : (s.modTeam id f).tlb = s.tlb := rfl
@[simp] theorem State.modTeam_walks (id : Nat) (f : Team → Team) : (s.modTeam id f).walks = s.walks := rfl
@[simp] theorem State.modTeam_replicas (id : Nat) (f : Team → Team) : (s.modTeam id f).replicas = s.replicas := rfl
@[simp] theorem State.modTeam_invals (id : Nat) (f : Team → Team) : (s.modTeam id f).invals = s.invals := rfl
@[simp] theorem State.modTeam_combiners (id : Nat) (f : Team → Team) : (s.modTeam id f).combiners = s.combiners := rfl
@[simp] theorem State.modTeam_combMsgs (id : Nat) (f : Team → Team) : (s.modTeam id f).combMsgs = s.combMsgs := rfl
@[simp] theorem State.modTeam_chain (id : Nat) (f : Team → Team) : (s.modTeam id f).chain = s.chain := rfl
@[simp] theorem State.modTeam_broken (id : Nat) (f : Team → Team) : (s.modTeam id f).broken = s.broken := rfl
@[simp] theorem State.modTeam_msgs (id : Nat) (f : Team → Team) : (s.modTeam id f).msgs = s.msgs := rfl
@[simp] theorem State.modTeam_overflow (id : Nat) (f : Team → Team) : (s.modTeam id f).overflow = s.overflow := rfl
@[simp] theorem State.modTeam_recvs (id : Nat) (f : Team → Team) : (s.modTeam id f).recvs = s.recvs := rfl
@[simp] theorem State.modTeam_pfHeld (id : Nat) (f : Team → Team) : (s.modTeam id f).pfHeld = s.pfHeld := rfl
@[simp] theorem State.modTeam_streams (id : Nat) (f : Team → Team) : (s.modTeam id f).streams = s.streams := rfl
@[simp] theorem State.modTeam_ctxs (id : Nat) (f : Team → Team) : (s.modTeam id f).ctxs = s.ctxs := rfl
@[simp] theorem State.modTeam_launches (id : Nat) (f : Team → Team) : (s.modTeam id f).launches = s.launches := rfl
@[simp] theorem State.modTeam_nextSeq (id : Nat) (f : Team → Team) : (s.modTeam id f).nextSeq = s.nextSeq := rfl
@[simp] theorem State.modTeam_diemap (id : Nat) (f : Team → Team) : (s.modTeam id f).diemap = s.diemap := rfl
@[simp] theorem State.modTeam_pairs (id : Nat) (f : Team → Team) : (s.modTeam id f).pairs = s.pairs := rfl
@[simp] theorem State.modTeam_hands (id : Nat) (f : Team → Team) : (s.modTeam id f).hands = s.hands := rfl
@[simp] theorem State.modTeam_words (id : Nat) (f : Team → Team) : (s.modTeam id f).words = s.words := rfl
@[simp] theorem State.modTeam_dealing (id : Nat) (f : Team → Team) : (s.modTeam id f).dealing = s.dealing := rfl
@[simp] theorem State.modTeam_sec (id : Nat) (f : Team → Team) : (s.modTeam id f).sec = s.sec := rfl
@[simp] theorem State.modTeam_dbg (id : Nat) (f : Team → Team) : (s.modTeam id f).dbg = s.dbg := rfl
@[simp] theorem State.modTeam_islands (id : Nat) (f : Team → Team) : (s.modTeam id f).islands = s.islands := rfl
@[simp] theorem State.modTeam_ebudget (id : Nat) (f : Team → Team) : (s.modTeam id f).ebudget = s.ebudget := rfl
@[simp] theorem State.modTeam_fuses (id : Nat) (f : Team → Team) : (s.modTeam id f).fuses = s.fuses := rfl
@[simp] theorem State.modTeam_dieResets (id : Nat) (f : Team → Team) : (s.modTeam id f).dieResets = s.dieResets := rfl
@[simp] theorem State.modTeam_wayChanges (id : Nat) (f : Team → Team) : (s.modTeam id f).wayChanges = s.wayChanges := rfl
@[simp] theorem State.modTeam_peerDown (id : Nat) (f : Team → Team) : (s.modTeam id f).peerDown = s.peerDown := rfl
@[simp] theorem State.modTeam_hregs (id : Nat) (f : Team → Team) : (s.modTeam id f).hregs = s.hregs := rfl
@[simp] theorem State.modTeam_shared (id : Nat) (f : Team → Team) : (s.modTeam id f).shared = s.shared := rfl
@[simp] theorem State.modTeam_out (id : Nat) (f : Team → Team) : (s.modTeam id f).out = s.out := rfl
@[simp] theorem State.modTeam_slices (id : Nat) (f : Team → Team) : (s.modTeam id f).slices = s.slices := rfl
@[simp] theorem State.modTeam_peerMem (id : Nat) (f : Team → Team) : (s.modTeam id f).peerMem = s.peerMem := rfl
@[simp] theorem State.modTeam_inForce (id : Nat) (f : Team → Team) : (s.modTeam id f).inForce = s.inForce := rfl
@[simp] theorem State.modTeam_confRefused (id : Nat) (f : Team → Team) : (s.modTeam id f).confRefused = s.confRefused := rfl
@[simp] theorem State.modTeam_pipes (id : Nat) (f : Team → Team) : (s.modTeam id f).pipes = s.pipes := rfl
@[simp] theorem State.modTeam_passes (id : Nat) (f : Team → Team) : (s.modTeam id f).passes = s.passes := rfl
@[simp] theorem State.modTeam_winAt (id : Nat) (f : Team → Team) : (s.modTeam id f).winAt = s.winAt := rfl
@[simp] theorem State.modTeam_flits (id : Nat) (f : Team → Team) : (s.modTeam id f).flits = s.flits := rfl

@[simp] theorem State.modGroup_nonce (id g : Nat) (f : Group → Group) : (s.modGroup id g f).nonce = s.nonce := rfl
@[simp] theorem State.modGroup_inbox (id g : Nat) (f : Group → Group) : (s.modGroup id g f).inbox = s.inbox := rfl
@[simp] theorem State.modGroup_cur (id g : Nat) (f : Group → Group) : (s.modGroup id g f).cur = s.cur := rfl
@[simp] theorem State.modGroup_clock (id g : Nat) (f : Group → Group) : (s.modGroup id g f).clock = s.clock := rfl
@[simp] theorem State.modGroup_mem (id g : Nat) (f : Group → Group) : (s.modGroup id g f).mem = s.mem := rfl
@[simp] theorem State.modGroup_hostMem (id g : Nat) (f : Group → Group) : (s.modGroup id g f).hostMem = s.hostMem := rfl
@[simp] theorem State.modGroup_slotOf (id g : Nat) (f : Group → Group) : (s.modGroup id g f).slotOf = s.slotOf := rfl
@[simp] theorem State.modGroup_poisoned (id g : Nat) (f : Group → Group) : (s.modGroup id g f).poisoned = s.poisoned := rfl
@[simp] theorem State.modGroup_nextId (id g : Nat) (f : Group → Group) : (s.modGroup id g f).nextId = s.nextId := rfl
@[simp] theorem State.modGroup_l1 (id g : Nat) (f : Group → Group) : (s.modGroup id g f).l1 = s.l1 := rfl
@[simp] theorem State.modGroup_homeOps (id g : Nat) (f : Group → Group) : (s.modGroup id g f).homeOps = s.homeOps := rfl
@[simp] theorem State.modGroup_queues (id g : Nat) (f : Group → Group) : (s.modGroup id g f).queues = s.queues := rfl
@[simp] theorem State.modGroup_tlb (id g : Nat) (f : Group → Group) : (s.modGroup id g f).tlb = s.tlb := rfl
@[simp] theorem State.modGroup_walks (id g : Nat) (f : Group → Group) : (s.modGroup id g f).walks = s.walks := rfl
@[simp] theorem State.modGroup_replicas (id g : Nat) (f : Group → Group) : (s.modGroup id g f).replicas = s.replicas := rfl
@[simp] theorem State.modGroup_invals (id g : Nat) (f : Group → Group) : (s.modGroup id g f).invals = s.invals := rfl
@[simp] theorem State.modGroup_combiners (id g : Nat) (f : Group → Group) : (s.modGroup id g f).combiners = s.combiners := rfl
@[simp] theorem State.modGroup_combMsgs (id g : Nat) (f : Group → Group) : (s.modGroup id g f).combMsgs = s.combMsgs := rfl
@[simp] theorem State.modGroup_chain (id g : Nat) (f : Group → Group) : (s.modGroup id g f).chain = s.chain := rfl
@[simp] theorem State.modGroup_broken (id g : Nat) (f : Group → Group) : (s.modGroup id g f).broken = s.broken := rfl
@[simp] theorem State.modGroup_msgs (id g : Nat) (f : Group → Group) : (s.modGroup id g f).msgs = s.msgs := rfl
@[simp] theorem State.modGroup_overflow (id g : Nat) (f : Group → Group) : (s.modGroup id g f).overflow = s.overflow := rfl
@[simp] theorem State.modGroup_recvs (id g : Nat) (f : Group → Group) : (s.modGroup id g f).recvs = s.recvs := rfl
@[simp] theorem State.modGroup_pfHeld (id g : Nat) (f : Group → Group) : (s.modGroup id g f).pfHeld = s.pfHeld := rfl
@[simp] theorem State.modGroup_streams (id g : Nat) (f : Group → Group) : (s.modGroup id g f).streams = s.streams := rfl
@[simp] theorem State.modGroup_ctxs (id g : Nat) (f : Group → Group) : (s.modGroup id g f).ctxs = s.ctxs := rfl
@[simp] theorem State.modGroup_launches (id g : Nat) (f : Group → Group) : (s.modGroup id g f).launches = s.launches := rfl
@[simp] theorem State.modGroup_nextSeq (id g : Nat) (f : Group → Group) : (s.modGroup id g f).nextSeq = s.nextSeq := rfl
@[simp] theorem State.modGroup_diemap (id g : Nat) (f : Group → Group) : (s.modGroup id g f).diemap = s.diemap := rfl
@[simp] theorem State.modGroup_pairs (id g : Nat) (f : Group → Group) : (s.modGroup id g f).pairs = s.pairs := rfl
@[simp] theorem State.modGroup_hands (id g : Nat) (f : Group → Group) : (s.modGroup id g f).hands = s.hands := rfl
@[simp] theorem State.modGroup_words (id g : Nat) (f : Group → Group) : (s.modGroup id g f).words = s.words := rfl
@[simp] theorem State.modGroup_dealing (id g : Nat) (f : Group → Group) : (s.modGroup id g f).dealing = s.dealing := rfl
@[simp] theorem State.modGroup_sec (id g : Nat) (f : Group → Group) : (s.modGroup id g f).sec = s.sec := rfl
@[simp] theorem State.modGroup_dbg (id g : Nat) (f : Group → Group) : (s.modGroup id g f).dbg = s.dbg := rfl
@[simp] theorem State.modGroup_islands (id g : Nat) (f : Group → Group) : (s.modGroup id g f).islands = s.islands := rfl
@[simp] theorem State.modGroup_ebudget (id g : Nat) (f : Group → Group) : (s.modGroup id g f).ebudget = s.ebudget := rfl
@[simp] theorem State.modGroup_fuses (id g : Nat) (f : Group → Group) : (s.modGroup id g f).fuses = s.fuses := rfl
@[simp] theorem State.modGroup_dieResets (id g : Nat) (f : Group → Group) : (s.modGroup id g f).dieResets = s.dieResets := rfl
@[simp] theorem State.modGroup_wayChanges (id g : Nat) (f : Group → Group) : (s.modGroup id g f).wayChanges = s.wayChanges := rfl
@[simp] theorem State.modGroup_peerDown (id g : Nat) (f : Group → Group) : (s.modGroup id g f).peerDown = s.peerDown := rfl
@[simp] theorem State.modGroup_hregs (id g : Nat) (f : Group → Group) : (s.modGroup id g f).hregs = s.hregs := rfl
@[simp] theorem State.modGroup_shared (id g : Nat) (f : Group → Group) : (s.modGroup id g f).shared = s.shared := rfl
@[simp] theorem State.modGroup_out (id g : Nat) (f : Group → Group) : (s.modGroup id g f).out = s.out := rfl
@[simp] theorem State.modGroup_slices (id g : Nat) (f : Group → Group) : (s.modGroup id g f).slices = s.slices := rfl
@[simp] theorem State.modGroup_peerMem (id g : Nat) (f : Group → Group) : (s.modGroup id g f).peerMem = s.peerMem := rfl
@[simp] theorem State.modGroup_inForce (id g : Nat) (f : Group → Group) : (s.modGroup id g f).inForce = s.inForce := rfl
@[simp] theorem State.modGroup_confRefused (id g : Nat) (f : Group → Group) : (s.modGroup id g f).confRefused = s.confRefused := rfl
@[simp] theorem State.modGroup_pipes (id g : Nat) (f : Group → Group) : (s.modGroup id g f).pipes = s.pipes := rfl
@[simp] theorem State.modGroup_passes (id g : Nat) (f : Group → Group) : (s.modGroup id g f).passes = s.passes := rfl
@[simp] theorem State.modGroup_winAt (id g : Nat) (f : Group → Group) : (s.modGroup id g f).winAt = s.winAt := rfl
@[simp] theorem State.modGroup_flits (id g : Nat) (f : Group → Group) : (s.modGroup id g f).flits = s.flits := rfl

@[simp] theorem State.modFrag_nonce (id g e : Nat) (f : Frag → Frag) : (s.modFrag id g e f).nonce = s.nonce := rfl
@[simp] theorem State.modFrag_inbox (id g e : Nat) (f : Frag → Frag) : (s.modFrag id g e f).inbox = s.inbox := rfl
@[simp] theorem State.modFrag_cur (id g e : Nat) (f : Frag → Frag) : (s.modFrag id g e f).cur = s.cur := rfl
@[simp] theorem State.modFrag_clock (id g e : Nat) (f : Frag → Frag) : (s.modFrag id g e f).clock = s.clock := rfl
@[simp] theorem State.modFrag_mem (id g e : Nat) (f : Frag → Frag) : (s.modFrag id g e f).mem = s.mem := rfl
@[simp] theorem State.modFrag_hostMem (id g e : Nat) (f : Frag → Frag) : (s.modFrag id g e f).hostMem = s.hostMem := rfl
@[simp] theorem State.modFrag_slotOf (id g e : Nat) (f : Frag → Frag) : (s.modFrag id g e f).slotOf = s.slotOf := rfl
@[simp] theorem State.modFrag_poisoned (id g e : Nat) (f : Frag → Frag) : (s.modFrag id g e f).poisoned = s.poisoned := rfl
@[simp] theorem State.modFrag_nextId (id g e : Nat) (f : Frag → Frag) : (s.modFrag id g e f).nextId = s.nextId := rfl
@[simp] theorem State.modFrag_l1 (id g e : Nat) (f : Frag → Frag) : (s.modFrag id g e f).l1 = s.l1 := rfl
@[simp] theorem State.modFrag_homeOps (id g e : Nat) (f : Frag → Frag) : (s.modFrag id g e f).homeOps = s.homeOps := rfl
@[simp] theorem State.modFrag_queues (id g e : Nat) (f : Frag → Frag) : (s.modFrag id g e f).queues = s.queues := rfl
@[simp] theorem State.modFrag_tlb (id g e : Nat) (f : Frag → Frag) : (s.modFrag id g e f).tlb = s.tlb := rfl
@[simp] theorem State.modFrag_walks (id g e : Nat) (f : Frag → Frag) : (s.modFrag id g e f).walks = s.walks := rfl
@[simp] theorem State.modFrag_replicas (id g e : Nat) (f : Frag → Frag) : (s.modFrag id g e f).replicas = s.replicas := rfl
@[simp] theorem State.modFrag_invals (id g e : Nat) (f : Frag → Frag) : (s.modFrag id g e f).invals = s.invals := rfl
@[simp] theorem State.modFrag_combiners (id g e : Nat) (f : Frag → Frag) : (s.modFrag id g e f).combiners = s.combiners := rfl
@[simp] theorem State.modFrag_combMsgs (id g e : Nat) (f : Frag → Frag) : (s.modFrag id g e f).combMsgs = s.combMsgs := rfl
@[simp] theorem State.modFrag_chain (id g e : Nat) (f : Frag → Frag) : (s.modFrag id g e f).chain = s.chain := rfl
@[simp] theorem State.modFrag_broken (id g e : Nat) (f : Frag → Frag) : (s.modFrag id g e f).broken = s.broken := rfl
@[simp] theorem State.modFrag_msgs (id g e : Nat) (f : Frag → Frag) : (s.modFrag id g e f).msgs = s.msgs := rfl
@[simp] theorem State.modFrag_overflow (id g e : Nat) (f : Frag → Frag) : (s.modFrag id g e f).overflow = s.overflow := rfl
@[simp] theorem State.modFrag_recvs (id g e : Nat) (f : Frag → Frag) : (s.modFrag id g e f).recvs = s.recvs := rfl
@[simp] theorem State.modFrag_pfHeld (id g e : Nat) (f : Frag → Frag) : (s.modFrag id g e f).pfHeld = s.pfHeld := rfl
@[simp] theorem State.modFrag_streams (id g e : Nat) (f : Frag → Frag) : (s.modFrag id g e f).streams = s.streams := rfl
@[simp] theorem State.modFrag_ctxs (id g e : Nat) (f : Frag → Frag) : (s.modFrag id g e f).ctxs = s.ctxs := rfl
@[simp] theorem State.modFrag_launches (id g e : Nat) (f : Frag → Frag) : (s.modFrag id g e f).launches = s.launches := rfl
@[simp] theorem State.modFrag_nextSeq (id g e : Nat) (f : Frag → Frag) : (s.modFrag id g e f).nextSeq = s.nextSeq := rfl
@[simp] theorem State.modFrag_diemap (id g e : Nat) (f : Frag → Frag) : (s.modFrag id g e f).diemap = s.diemap := rfl
@[simp] theorem State.modFrag_pairs (id g e : Nat) (f : Frag → Frag) : (s.modFrag id g e f).pairs = s.pairs := rfl
@[simp] theorem State.modFrag_hands (id g e : Nat) (f : Frag → Frag) : (s.modFrag id g e f).hands = s.hands := rfl
@[simp] theorem State.modFrag_words (id g e : Nat) (f : Frag → Frag) : (s.modFrag id g e f).words = s.words := rfl
@[simp] theorem State.modFrag_dealing (id g e : Nat) (f : Frag → Frag) : (s.modFrag id g e f).dealing = s.dealing := rfl
@[simp] theorem State.modFrag_sec (id g e : Nat) (f : Frag → Frag) : (s.modFrag id g e f).sec = s.sec := rfl
@[simp] theorem State.modFrag_dbg (id g e : Nat) (f : Frag → Frag) : (s.modFrag id g e f).dbg = s.dbg := rfl
@[simp] theorem State.modFrag_islands (id g e : Nat) (f : Frag → Frag) : (s.modFrag id g e f).islands = s.islands := rfl
@[simp] theorem State.modFrag_ebudget (id g e : Nat) (f : Frag → Frag) : (s.modFrag id g e f).ebudget = s.ebudget := rfl
@[simp] theorem State.modFrag_fuses (id g e : Nat) (f : Frag → Frag) : (s.modFrag id g e f).fuses = s.fuses := rfl
@[simp] theorem State.modFrag_dieResets (id g e : Nat) (f : Frag → Frag) : (s.modFrag id g e f).dieResets = s.dieResets := rfl
@[simp] theorem State.modFrag_wayChanges (id g e : Nat) (f : Frag → Frag) : (s.modFrag id g e f).wayChanges = s.wayChanges := rfl
@[simp] theorem State.modFrag_peerDown (id g e : Nat) (f : Frag → Frag) : (s.modFrag id g e f).peerDown = s.peerDown := rfl
@[simp] theorem State.modFrag_hregs (id g e : Nat) (f : Frag → Frag) : (s.modFrag id g e f).hregs = s.hregs := rfl
@[simp] theorem State.modFrag_shared (id g e : Nat) (f : Frag → Frag) : (s.modFrag id g e f).shared = s.shared := rfl
@[simp] theorem State.modFrag_out (id g e : Nat) (f : Frag → Frag) : (s.modFrag id g e f).out = s.out := rfl
@[simp] theorem State.modFrag_slices (id g e : Nat) (f : Frag → Frag) : (s.modFrag id g e f).slices = s.slices := rfl
@[simp] theorem State.modFrag_peerMem (id g e : Nat) (f : Frag → Frag) : (s.modFrag id g e f).peerMem = s.peerMem := rfl
@[simp] theorem State.modFrag_inForce (id g e : Nat) (f : Frag → Frag) : (s.modFrag id g e f).inForce = s.inForce := rfl
@[simp] theorem State.modFrag_confRefused (id g e : Nat) (f : Frag → Frag) : (s.modFrag id g e f).confRefused = s.confRefused := rfl
@[simp] theorem State.modFrag_pipes (id g e : Nat) (f : Frag → Frag) : (s.modFrag id g e f).pipes = s.pipes := rfl
@[simp] theorem State.modFrag_passes (id g e : Nat) (f : Frag → Frag) : (s.modFrag id g e f).passes = s.passes := rfl
@[simp] theorem State.modFrag_winAt (id g e : Nat) (f : Frag → Frag) : (s.modFrag id g e f).winAt = s.winAt := rfl
@[simp] theorem State.modFrag_flits (id g e : Nat) (f : Frag → Frag) : (s.modFrag id g e f).flits = s.flits := rfl

@[simp] theorem State.modLaunch_nonce (seq : Nat) (f : Launch → Launch) : (s.modLaunch seq f).nonce = s.nonce := rfl
@[simp] theorem State.modLaunch_inbox (seq : Nat) (f : Launch → Launch) : (s.modLaunch seq f).inbox = s.inbox := rfl
@[simp] theorem State.modLaunch_cur (seq : Nat) (f : Launch → Launch) : (s.modLaunch seq f).cur = s.cur := rfl
@[simp] theorem State.modLaunch_clock (seq : Nat) (f : Launch → Launch) : (s.modLaunch seq f).clock = s.clock := rfl
@[simp] theorem State.modLaunch_mem (seq : Nat) (f : Launch → Launch) : (s.modLaunch seq f).mem = s.mem := rfl
@[simp] theorem State.modLaunch_hostMem (seq : Nat) (f : Launch → Launch) : (s.modLaunch seq f).hostMem = s.hostMem := rfl
@[simp] theorem State.modLaunch_slotOf (seq : Nat) (f : Launch → Launch) : (s.modLaunch seq f).slotOf = s.slotOf := rfl
@[simp] theorem State.modLaunch_poisoned (seq : Nat) (f : Launch → Launch) : (s.modLaunch seq f).poisoned = s.poisoned := rfl
@[simp] theorem State.modLaunch_teams (seq : Nat) (f : Launch → Launch) : (s.modLaunch seq f).teams = s.teams := rfl
@[simp] theorem State.modLaunch_nextId (seq : Nat) (f : Launch → Launch) : (s.modLaunch seq f).nextId = s.nextId := rfl
@[simp] theorem State.modLaunch_l1 (seq : Nat) (f : Launch → Launch) : (s.modLaunch seq f).l1 = s.l1 := rfl
@[simp] theorem State.modLaunch_homeOps (seq : Nat) (f : Launch → Launch) : (s.modLaunch seq f).homeOps = s.homeOps := rfl
@[simp] theorem State.modLaunch_queues (seq : Nat) (f : Launch → Launch) : (s.modLaunch seq f).queues = s.queues := rfl
@[simp] theorem State.modLaunch_tlb (seq : Nat) (f : Launch → Launch) : (s.modLaunch seq f).tlb = s.tlb := rfl
@[simp] theorem State.modLaunch_walks (seq : Nat) (f : Launch → Launch) : (s.modLaunch seq f).walks = s.walks := rfl
@[simp] theorem State.modLaunch_replicas (seq : Nat) (f : Launch → Launch) : (s.modLaunch seq f).replicas = s.replicas := rfl
@[simp] theorem State.modLaunch_invals (seq : Nat) (f : Launch → Launch) : (s.modLaunch seq f).invals = s.invals := rfl
@[simp] theorem State.modLaunch_combiners (seq : Nat) (f : Launch → Launch) : (s.modLaunch seq f).combiners = s.combiners := rfl
@[simp] theorem State.modLaunch_combMsgs (seq : Nat) (f : Launch → Launch) : (s.modLaunch seq f).combMsgs = s.combMsgs := rfl
@[simp] theorem State.modLaunch_chain (seq : Nat) (f : Launch → Launch) : (s.modLaunch seq f).chain = s.chain := rfl
@[simp] theorem State.modLaunch_broken (seq : Nat) (f : Launch → Launch) : (s.modLaunch seq f).broken = s.broken := rfl
@[simp] theorem State.modLaunch_msgs (seq : Nat) (f : Launch → Launch) : (s.modLaunch seq f).msgs = s.msgs := rfl
@[simp] theorem State.modLaunch_overflow (seq : Nat) (f : Launch → Launch) : (s.modLaunch seq f).overflow = s.overflow := rfl
@[simp] theorem State.modLaunch_recvs (seq : Nat) (f : Launch → Launch) : (s.modLaunch seq f).recvs = s.recvs := rfl
@[simp] theorem State.modLaunch_pfHeld (seq : Nat) (f : Launch → Launch) : (s.modLaunch seq f).pfHeld = s.pfHeld := rfl
@[simp] theorem State.modLaunch_streams (seq : Nat) (f : Launch → Launch) : (s.modLaunch seq f).streams = s.streams := rfl
@[simp] theorem State.modLaunch_ctxs (seq : Nat) (f : Launch → Launch) : (s.modLaunch seq f).ctxs = s.ctxs := rfl
@[simp] theorem State.modLaunch_nextSeq (seq : Nat) (f : Launch → Launch) : (s.modLaunch seq f).nextSeq = s.nextSeq := rfl
@[simp] theorem State.modLaunch_diemap (seq : Nat) (f : Launch → Launch) : (s.modLaunch seq f).diemap = s.diemap := rfl
@[simp] theorem State.modLaunch_pairs (seq : Nat) (f : Launch → Launch) : (s.modLaunch seq f).pairs = s.pairs := rfl
@[simp] theorem State.modLaunch_hands (seq : Nat) (f : Launch → Launch) : (s.modLaunch seq f).hands = s.hands := rfl
@[simp] theorem State.modLaunch_words (seq : Nat) (f : Launch → Launch) : (s.modLaunch seq f).words = s.words := rfl
@[simp] theorem State.modLaunch_dealing (seq : Nat) (f : Launch → Launch) : (s.modLaunch seq f).dealing = s.dealing := rfl
@[simp] theorem State.modLaunch_sec (seq : Nat) (f : Launch → Launch) : (s.modLaunch seq f).sec = s.sec := rfl
@[simp] theorem State.modLaunch_dbg (seq : Nat) (f : Launch → Launch) : (s.modLaunch seq f).dbg = s.dbg := rfl
@[simp] theorem State.modLaunch_islands (seq : Nat) (f : Launch → Launch) : (s.modLaunch seq f).islands = s.islands := rfl
@[simp] theorem State.modLaunch_ebudget (seq : Nat) (f : Launch → Launch) : (s.modLaunch seq f).ebudget = s.ebudget := rfl
@[simp] theorem State.modLaunch_fuses (seq : Nat) (f : Launch → Launch) : (s.modLaunch seq f).fuses = s.fuses := rfl
@[simp] theorem State.modLaunch_dieResets (seq : Nat) (f : Launch → Launch) : (s.modLaunch seq f).dieResets = s.dieResets := rfl
@[simp] theorem State.modLaunch_wayChanges (seq : Nat) (f : Launch → Launch) : (s.modLaunch seq f).wayChanges = s.wayChanges := rfl
@[simp] theorem State.modLaunch_peerDown (seq : Nat) (f : Launch → Launch) : (s.modLaunch seq f).peerDown = s.peerDown := rfl
@[simp] theorem State.modLaunch_hregs (seq : Nat) (f : Launch → Launch) : (s.modLaunch seq f).hregs = s.hregs := rfl
@[simp] theorem State.modLaunch_shared (seq : Nat) (f : Launch → Launch) : (s.modLaunch seq f).shared = s.shared := rfl
@[simp] theorem State.modLaunch_out (seq : Nat) (f : Launch → Launch) : (s.modLaunch seq f).out = s.out := rfl
@[simp] theorem State.modLaunch_slices (seq : Nat) (f : Launch → Launch) : (s.modLaunch seq f).slices = s.slices := rfl
@[simp] theorem State.modLaunch_peerMem (seq : Nat) (f : Launch → Launch) : (s.modLaunch seq f).peerMem = s.peerMem := rfl
@[simp] theorem State.modLaunch_inForce (seq : Nat) (f : Launch → Launch) : (s.modLaunch seq f).inForce = s.inForce := rfl
@[simp] theorem State.modLaunch_confRefused (seq : Nat) (f : Launch → Launch) : (s.modLaunch seq f).confRefused = s.confRefused := rfl
@[simp] theorem State.modLaunch_pipes (seq : Nat) (f : Launch → Launch) : (s.modLaunch seq f).pipes = s.pipes := rfl
@[simp] theorem State.modLaunch_passes (seq : Nat) (f : Launch → Launch) : (s.modLaunch seq f).passes = s.passes := rfl
@[simp] theorem State.modLaunch_winAt (seq : Nat) (f : Launch → Launch) : (s.modLaunch seq f).winAt = s.winAt := rfl
@[simp] theorem State.modLaunch_flits (seq : Nat) (f : Launch → Launch) : (s.modLaunch seq f).flits = s.flits := rfl

@[simp] theorem State.modCtx_nonce (h : Nat) (f : Ctx → Ctx) : (s.modCtx h f).nonce = s.nonce := rfl
@[simp] theorem State.modCtx_inbox (h : Nat) (f : Ctx → Ctx) : (s.modCtx h f).inbox = s.inbox := rfl
@[simp] theorem State.modCtx_cur (h : Nat) (f : Ctx → Ctx) : (s.modCtx h f).cur = s.cur := rfl
@[simp] theorem State.modCtx_clock (h : Nat) (f : Ctx → Ctx) : (s.modCtx h f).clock = s.clock := rfl
@[simp] theorem State.modCtx_mem (h : Nat) (f : Ctx → Ctx) : (s.modCtx h f).mem = s.mem := rfl
@[simp] theorem State.modCtx_hostMem (h : Nat) (f : Ctx → Ctx) : (s.modCtx h f).hostMem = s.hostMem := rfl
@[simp] theorem State.modCtx_slotOf (h : Nat) (f : Ctx → Ctx) : (s.modCtx h f).slotOf = s.slotOf := rfl
@[simp] theorem State.modCtx_poisoned (h : Nat) (f : Ctx → Ctx) : (s.modCtx h f).poisoned = s.poisoned := rfl
@[simp] theorem State.modCtx_teams (h : Nat) (f : Ctx → Ctx) : (s.modCtx h f).teams = s.teams := rfl
@[simp] theorem State.modCtx_nextId (h : Nat) (f : Ctx → Ctx) : (s.modCtx h f).nextId = s.nextId := rfl
@[simp] theorem State.modCtx_l1 (h : Nat) (f : Ctx → Ctx) : (s.modCtx h f).l1 = s.l1 := rfl
@[simp] theorem State.modCtx_homeOps (h : Nat) (f : Ctx → Ctx) : (s.modCtx h f).homeOps = s.homeOps := rfl
@[simp] theorem State.modCtx_queues (h : Nat) (f : Ctx → Ctx) : (s.modCtx h f).queues = s.queues := rfl
@[simp] theorem State.modCtx_tlb (h : Nat) (f : Ctx → Ctx) : (s.modCtx h f).tlb = s.tlb := rfl
@[simp] theorem State.modCtx_walks (h : Nat) (f : Ctx → Ctx) : (s.modCtx h f).walks = s.walks := rfl
@[simp] theorem State.modCtx_replicas (h : Nat) (f : Ctx → Ctx) : (s.modCtx h f).replicas = s.replicas := rfl
@[simp] theorem State.modCtx_invals (h : Nat) (f : Ctx → Ctx) : (s.modCtx h f).invals = s.invals := rfl
@[simp] theorem State.modCtx_combiners (h : Nat) (f : Ctx → Ctx) : (s.modCtx h f).combiners = s.combiners := rfl
@[simp] theorem State.modCtx_combMsgs (h : Nat) (f : Ctx → Ctx) : (s.modCtx h f).combMsgs = s.combMsgs := rfl
@[simp] theorem State.modCtx_chain (h : Nat) (f : Ctx → Ctx) : (s.modCtx h f).chain = s.chain := rfl
@[simp] theorem State.modCtx_broken (h : Nat) (f : Ctx → Ctx) : (s.modCtx h f).broken = s.broken := rfl
@[simp] theorem State.modCtx_msgs (h : Nat) (f : Ctx → Ctx) : (s.modCtx h f).msgs = s.msgs := rfl
@[simp] theorem State.modCtx_overflow (h : Nat) (f : Ctx → Ctx) : (s.modCtx h f).overflow = s.overflow := rfl
@[simp] theorem State.modCtx_recvs (h : Nat) (f : Ctx → Ctx) : (s.modCtx h f).recvs = s.recvs := rfl
@[simp] theorem State.modCtx_pfHeld (h : Nat) (f : Ctx → Ctx) : (s.modCtx h f).pfHeld = s.pfHeld := rfl
@[simp] theorem State.modCtx_streams (h : Nat) (f : Ctx → Ctx) : (s.modCtx h f).streams = s.streams := rfl
@[simp] theorem State.modCtx_launches (h : Nat) (f : Ctx → Ctx) : (s.modCtx h f).launches = s.launches := rfl
@[simp] theorem State.modCtx_nextSeq (h : Nat) (f : Ctx → Ctx) : (s.modCtx h f).nextSeq = s.nextSeq := rfl
@[simp] theorem State.modCtx_diemap (h : Nat) (f : Ctx → Ctx) : (s.modCtx h f).diemap = s.diemap := rfl
@[simp] theorem State.modCtx_pairs (h : Nat) (f : Ctx → Ctx) : (s.modCtx h f).pairs = s.pairs := rfl
@[simp] theorem State.modCtx_hands (h : Nat) (f : Ctx → Ctx) : (s.modCtx h f).hands = s.hands := rfl
@[simp] theorem State.modCtx_words (h : Nat) (f : Ctx → Ctx) : (s.modCtx h f).words = s.words := rfl
@[simp] theorem State.modCtx_dealing (h : Nat) (f : Ctx → Ctx) : (s.modCtx h f).dealing = s.dealing := rfl
@[simp] theorem State.modCtx_sec (h : Nat) (f : Ctx → Ctx) : (s.modCtx h f).sec = s.sec := rfl
@[simp] theorem State.modCtx_dbg (h : Nat) (f : Ctx → Ctx) : (s.modCtx h f).dbg = s.dbg := rfl
@[simp] theorem State.modCtx_islands (h : Nat) (f : Ctx → Ctx) : (s.modCtx h f).islands = s.islands := rfl
@[simp] theorem State.modCtx_ebudget (h : Nat) (f : Ctx → Ctx) : (s.modCtx h f).ebudget = s.ebudget := rfl
@[simp] theorem State.modCtx_fuses (h : Nat) (f : Ctx → Ctx) : (s.modCtx h f).fuses = s.fuses := rfl
@[simp] theorem State.modCtx_dieResets (h : Nat) (f : Ctx → Ctx) : (s.modCtx h f).dieResets = s.dieResets := rfl
@[simp] theorem State.modCtx_wayChanges (h : Nat) (f : Ctx → Ctx) : (s.modCtx h f).wayChanges = s.wayChanges := rfl
@[simp] theorem State.modCtx_peerDown (h : Nat) (f : Ctx → Ctx) : (s.modCtx h f).peerDown = s.peerDown := rfl
@[simp] theorem State.modCtx_hregs (h : Nat) (f : Ctx → Ctx) : (s.modCtx h f).hregs = s.hregs := rfl
@[simp] theorem State.modCtx_shared (h : Nat) (f : Ctx → Ctx) : (s.modCtx h f).shared = s.shared := rfl
@[simp] theorem State.modCtx_out (h : Nat) (f : Ctx → Ctx) : (s.modCtx h f).out = s.out := rfl
@[simp] theorem State.modCtx_slices (h : Nat) (f : Ctx → Ctx) : (s.modCtx h f).slices = s.slices := rfl
@[simp] theorem State.modCtx_peerMem (h : Nat) (f : Ctx → Ctx) : (s.modCtx h f).peerMem = s.peerMem := rfl
@[simp] theorem State.modCtx_inForce (h : Nat) (f : Ctx → Ctx) : (s.modCtx h f).inForce = s.inForce := rfl
@[simp] theorem State.modCtx_confRefused (h : Nat) (f : Ctx → Ctx) : (s.modCtx h f).confRefused = s.confRefused := rfl
@[simp] theorem State.modCtx_pipes (h : Nat) (f : Ctx → Ctx) : (s.modCtx h f).pipes = s.pipes := rfl
@[simp] theorem State.modCtx_passes (h : Nat) (f : Ctx → Ctx) : (s.modCtx h f).passes = s.passes := rfl
@[simp] theorem State.modCtx_winAt (h : Nat) (f : Ctx → Ctx) : (s.modCtx h f).winAt = s.winAt := rfl
@[simp] theorem State.modCtx_flits (h : Nat) (f : Ctx → Ctx) : (s.modCtx h f).flits = s.flits := rfl

@[simp] theorem State.modStream_nonce (n : Nat) (f : Stream → Stream) : (s.modStream n f).nonce = s.nonce := rfl
@[simp] theorem State.modStream_inbox (n : Nat) (f : Stream → Stream) : (s.modStream n f).inbox = s.inbox := rfl
@[simp] theorem State.modStream_cur (n : Nat) (f : Stream → Stream) : (s.modStream n f).cur = s.cur := rfl
@[simp] theorem State.modStream_clock (n : Nat) (f : Stream → Stream) : (s.modStream n f).clock = s.clock := rfl
@[simp] theorem State.modStream_mem (n : Nat) (f : Stream → Stream) : (s.modStream n f).mem = s.mem := rfl
@[simp] theorem State.modStream_hostMem (n : Nat) (f : Stream → Stream) : (s.modStream n f).hostMem = s.hostMem := rfl
@[simp] theorem State.modStream_slotOf (n : Nat) (f : Stream → Stream) : (s.modStream n f).slotOf = s.slotOf := rfl
@[simp] theorem State.modStream_poisoned (n : Nat) (f : Stream → Stream) : (s.modStream n f).poisoned = s.poisoned := rfl
@[simp] theorem State.modStream_teams (n : Nat) (f : Stream → Stream) : (s.modStream n f).teams = s.teams := rfl
@[simp] theorem State.modStream_nextId (n : Nat) (f : Stream → Stream) : (s.modStream n f).nextId = s.nextId := rfl
@[simp] theorem State.modStream_l1 (n : Nat) (f : Stream → Stream) : (s.modStream n f).l1 = s.l1 := rfl
@[simp] theorem State.modStream_homeOps (n : Nat) (f : Stream → Stream) : (s.modStream n f).homeOps = s.homeOps := rfl
@[simp] theorem State.modStream_queues (n : Nat) (f : Stream → Stream) : (s.modStream n f).queues = s.queues := rfl
@[simp] theorem State.modStream_tlb (n : Nat) (f : Stream → Stream) : (s.modStream n f).tlb = s.tlb := rfl
@[simp] theorem State.modStream_walks (n : Nat) (f : Stream → Stream) : (s.modStream n f).walks = s.walks := rfl
@[simp] theorem State.modStream_replicas (n : Nat) (f : Stream → Stream) : (s.modStream n f).replicas = s.replicas := rfl
@[simp] theorem State.modStream_invals (n : Nat) (f : Stream → Stream) : (s.modStream n f).invals = s.invals := rfl
@[simp] theorem State.modStream_combiners (n : Nat) (f : Stream → Stream) : (s.modStream n f).combiners = s.combiners := rfl
@[simp] theorem State.modStream_combMsgs (n : Nat) (f : Stream → Stream) : (s.modStream n f).combMsgs = s.combMsgs := rfl
@[simp] theorem State.modStream_chain (n : Nat) (f : Stream → Stream) : (s.modStream n f).chain = s.chain := rfl
@[simp] theorem State.modStream_broken (n : Nat) (f : Stream → Stream) : (s.modStream n f).broken = s.broken := rfl
@[simp] theorem State.modStream_msgs (n : Nat) (f : Stream → Stream) : (s.modStream n f).msgs = s.msgs := rfl
@[simp] theorem State.modStream_overflow (n : Nat) (f : Stream → Stream) : (s.modStream n f).overflow = s.overflow := rfl
@[simp] theorem State.modStream_recvs (n : Nat) (f : Stream → Stream) : (s.modStream n f).recvs = s.recvs := rfl
@[simp] theorem State.modStream_pfHeld (n : Nat) (f : Stream → Stream) : (s.modStream n f).pfHeld = s.pfHeld := rfl
@[simp] theorem State.modStream_ctxs (n : Nat) (f : Stream → Stream) : (s.modStream n f).ctxs = s.ctxs := rfl
@[simp] theorem State.modStream_launches (n : Nat) (f : Stream → Stream) : (s.modStream n f).launches = s.launches := rfl
@[simp] theorem State.modStream_nextSeq (n : Nat) (f : Stream → Stream) : (s.modStream n f).nextSeq = s.nextSeq := rfl
@[simp] theorem State.modStream_diemap (n : Nat) (f : Stream → Stream) : (s.modStream n f).diemap = s.diemap := rfl
@[simp] theorem State.modStream_pairs (n : Nat) (f : Stream → Stream) : (s.modStream n f).pairs = s.pairs := rfl
@[simp] theorem State.modStream_hands (n : Nat) (f : Stream → Stream) : (s.modStream n f).hands = s.hands := rfl
@[simp] theorem State.modStream_words (n : Nat) (f : Stream → Stream) : (s.modStream n f).words = s.words := rfl
@[simp] theorem State.modStream_dealing (n : Nat) (f : Stream → Stream) : (s.modStream n f).dealing = s.dealing := rfl
@[simp] theorem State.modStream_sec (n : Nat) (f : Stream → Stream) : (s.modStream n f).sec = s.sec := rfl
@[simp] theorem State.modStream_dbg (n : Nat) (f : Stream → Stream) : (s.modStream n f).dbg = s.dbg := rfl
@[simp] theorem State.modStream_islands (n : Nat) (f : Stream → Stream) : (s.modStream n f).islands = s.islands := rfl
@[simp] theorem State.modStream_ebudget (n : Nat) (f : Stream → Stream) : (s.modStream n f).ebudget = s.ebudget := rfl
@[simp] theorem State.modStream_fuses (n : Nat) (f : Stream → Stream) : (s.modStream n f).fuses = s.fuses := rfl
@[simp] theorem State.modStream_dieResets (n : Nat) (f : Stream → Stream) : (s.modStream n f).dieResets = s.dieResets := rfl
@[simp] theorem State.modStream_wayChanges (n : Nat) (f : Stream → Stream) : (s.modStream n f).wayChanges = s.wayChanges := rfl
@[simp] theorem State.modStream_peerDown (n : Nat) (f : Stream → Stream) : (s.modStream n f).peerDown = s.peerDown := rfl
@[simp] theorem State.modStream_hregs (n : Nat) (f : Stream → Stream) : (s.modStream n f).hregs = s.hregs := rfl
@[simp] theorem State.modStream_shared (n : Nat) (f : Stream → Stream) : (s.modStream n f).shared = s.shared := rfl
@[simp] theorem State.modStream_out (n : Nat) (f : Stream → Stream) : (s.modStream n f).out = s.out := rfl
@[simp] theorem State.modStream_slices (n : Nat) (f : Stream → Stream) : (s.modStream n f).slices = s.slices := rfl
@[simp] theorem State.modStream_peerMem (n : Nat) (f : Stream → Stream) : (s.modStream n f).peerMem = s.peerMem := rfl
@[simp] theorem State.modStream_inForce (n : Nat) (f : Stream → Stream) : (s.modStream n f).inForce = s.inForce := rfl
@[simp] theorem State.modStream_confRefused (n : Nat) (f : Stream → Stream) : (s.modStream n f).confRefused = s.confRefused := rfl
@[simp] theorem State.modStream_pipes (n : Nat) (f : Stream → Stream) : (s.modStream n f).pipes = s.pipes := rfl
@[simp] theorem State.modStream_passes (n : Nat) (f : Stream → Stream) : (s.modStream n f).passes = s.passes := rfl
@[simp] theorem State.modStream_winAt (n : Nat) (f : Stream → Stream) : (s.modStream n f).winAt = s.winAt := rfl
@[simp] theorem State.modStream_flits (n : Nat) (f : Stream → Stream) : (s.modStream n f).flits = s.flits := rfl

@[simp] theorem State.modSec_nonce (f : Sec → Sec) : (s.modSec f).nonce = s.nonce := rfl
@[simp] theorem State.modSec_inbox (f : Sec → Sec) : (s.modSec f).inbox = s.inbox := rfl
@[simp] theorem State.modSec_cur (f : Sec → Sec) : (s.modSec f).cur = s.cur := rfl
@[simp] theorem State.modSec_clock (f : Sec → Sec) : (s.modSec f).clock = s.clock := rfl
@[simp] theorem State.modSec_mem (f : Sec → Sec) : (s.modSec f).mem = s.mem := rfl
@[simp] theorem State.modSec_hostMem (f : Sec → Sec) : (s.modSec f).hostMem = s.hostMem := rfl
@[simp] theorem State.modSec_slotOf (f : Sec → Sec) : (s.modSec f).slotOf = s.slotOf := rfl
@[simp] theorem State.modSec_poisoned (f : Sec → Sec) : (s.modSec f).poisoned = s.poisoned := rfl
@[simp] theorem State.modSec_teams (f : Sec → Sec) : (s.modSec f).teams = s.teams := rfl
@[simp] theorem State.modSec_nextId (f : Sec → Sec) : (s.modSec f).nextId = s.nextId := rfl
@[simp] theorem State.modSec_l1 (f : Sec → Sec) : (s.modSec f).l1 = s.l1 := rfl
@[simp] theorem State.modSec_homeOps (f : Sec → Sec) : (s.modSec f).homeOps = s.homeOps := rfl
@[simp] theorem State.modSec_queues (f : Sec → Sec) : (s.modSec f).queues = s.queues := rfl
@[simp] theorem State.modSec_tlb (f : Sec → Sec) : (s.modSec f).tlb = s.tlb := rfl
@[simp] theorem State.modSec_walks (f : Sec → Sec) : (s.modSec f).walks = s.walks := rfl
@[simp] theorem State.modSec_replicas (f : Sec → Sec) : (s.modSec f).replicas = s.replicas := rfl
@[simp] theorem State.modSec_invals (f : Sec → Sec) : (s.modSec f).invals = s.invals := rfl
@[simp] theorem State.modSec_combiners (f : Sec → Sec) : (s.modSec f).combiners = s.combiners := rfl
@[simp] theorem State.modSec_combMsgs (f : Sec → Sec) : (s.modSec f).combMsgs = s.combMsgs := rfl
@[simp] theorem State.modSec_chain (f : Sec → Sec) : (s.modSec f).chain = s.chain := rfl
@[simp] theorem State.modSec_broken (f : Sec → Sec) : (s.modSec f).broken = s.broken := rfl
@[simp] theorem State.modSec_msgs (f : Sec → Sec) : (s.modSec f).msgs = s.msgs := rfl
@[simp] theorem State.modSec_overflow (f : Sec → Sec) : (s.modSec f).overflow = s.overflow := rfl
@[simp] theorem State.modSec_recvs (f : Sec → Sec) : (s.modSec f).recvs = s.recvs := rfl
@[simp] theorem State.modSec_pfHeld (f : Sec → Sec) : (s.modSec f).pfHeld = s.pfHeld := rfl
@[simp] theorem State.modSec_streams (f : Sec → Sec) : (s.modSec f).streams = s.streams := rfl
@[simp] theorem State.modSec_ctxs (f : Sec → Sec) : (s.modSec f).ctxs = s.ctxs := rfl
@[simp] theorem State.modSec_launches (f : Sec → Sec) : (s.modSec f).launches = s.launches := rfl
@[simp] theorem State.modSec_nextSeq (f : Sec → Sec) : (s.modSec f).nextSeq = s.nextSeq := rfl
@[simp] theorem State.modSec_diemap (f : Sec → Sec) : (s.modSec f).diemap = s.diemap := rfl
@[simp] theorem State.modSec_pairs (f : Sec → Sec) : (s.modSec f).pairs = s.pairs := rfl
@[simp] theorem State.modSec_hands (f : Sec → Sec) : (s.modSec f).hands = s.hands := rfl
@[simp] theorem State.modSec_words (f : Sec → Sec) : (s.modSec f).words = s.words := rfl
@[simp] theorem State.modSec_dealing (f : Sec → Sec) : (s.modSec f).dealing = s.dealing := rfl
@[simp] theorem State.modSec_dbg (f : Sec → Sec) : (s.modSec f).dbg = s.dbg := rfl
@[simp] theorem State.modSec_islands (f : Sec → Sec) : (s.modSec f).islands = s.islands := rfl
@[simp] theorem State.modSec_ebudget (f : Sec → Sec) : (s.modSec f).ebudget = s.ebudget := rfl
@[simp] theorem State.modSec_fuses (f : Sec → Sec) : (s.modSec f).fuses = s.fuses := rfl
@[simp] theorem State.modSec_dieResets (f : Sec → Sec) : (s.modSec f).dieResets = s.dieResets := rfl
@[simp] theorem State.modSec_wayChanges (f : Sec → Sec) : (s.modSec f).wayChanges = s.wayChanges := rfl
@[simp] theorem State.modSec_peerDown (f : Sec → Sec) : (s.modSec f).peerDown = s.peerDown := rfl
@[simp] theorem State.modSec_hregs (f : Sec → Sec) : (s.modSec f).hregs = s.hregs := rfl
@[simp] theorem State.modSec_shared (f : Sec → Sec) : (s.modSec f).shared = s.shared := rfl
@[simp] theorem State.modSec_out (f : Sec → Sec) : (s.modSec f).out = s.out := rfl
@[simp] theorem State.modSec_slices (f : Sec → Sec) : (s.modSec f).slices = s.slices := rfl
@[simp] theorem State.modSec_peerMem (f : Sec → Sec) : (s.modSec f).peerMem = s.peerMem := rfl
@[simp] theorem State.modSec_inForce (f : Sec → Sec) : (s.modSec f).inForce = s.inForce := rfl
@[simp] theorem State.modSec_confRefused (f : Sec → Sec) : (s.modSec f).confRefused = s.confRefused := rfl
@[simp] theorem State.modSec_pipes (f : Sec → Sec) : (s.modSec f).pipes = s.pipes := rfl
@[simp] theorem State.modSec_passes (f : Sec → Sec) : (s.modSec f).passes = s.passes := rfl
@[simp] theorem State.modSec_winAt (f : Sec → Sec) : (s.modSec f).winAt = s.winAt := rfl
@[simp] theorem State.modSec_flits (f : Sec → Sec) : (s.modSec f).flits = s.flits := rfl

@[simp] theorem State.modDbg_nonce (p : Nat) (f : Dbg → Dbg) : (s.modDbg p f).nonce = s.nonce := rfl
@[simp] theorem State.modDbg_inbox (p : Nat) (f : Dbg → Dbg) : (s.modDbg p f).inbox = s.inbox := rfl
@[simp] theorem State.modDbg_cur (p : Nat) (f : Dbg → Dbg) : (s.modDbg p f).cur = s.cur := rfl
@[simp] theorem State.modDbg_clock (p : Nat) (f : Dbg → Dbg) : (s.modDbg p f).clock = s.clock := rfl
@[simp] theorem State.modDbg_mem (p : Nat) (f : Dbg → Dbg) : (s.modDbg p f).mem = s.mem := rfl
@[simp] theorem State.modDbg_hostMem (p : Nat) (f : Dbg → Dbg) : (s.modDbg p f).hostMem = s.hostMem := rfl
@[simp] theorem State.modDbg_slotOf (p : Nat) (f : Dbg → Dbg) : (s.modDbg p f).slotOf = s.slotOf := rfl
@[simp] theorem State.modDbg_poisoned (p : Nat) (f : Dbg → Dbg) : (s.modDbg p f).poisoned = s.poisoned := rfl
@[simp] theorem State.modDbg_teams (p : Nat) (f : Dbg → Dbg) : (s.modDbg p f).teams = s.teams := rfl
@[simp] theorem State.modDbg_nextId (p : Nat) (f : Dbg → Dbg) : (s.modDbg p f).nextId = s.nextId := rfl
@[simp] theorem State.modDbg_l1 (p : Nat) (f : Dbg → Dbg) : (s.modDbg p f).l1 = s.l1 := rfl
@[simp] theorem State.modDbg_homeOps (p : Nat) (f : Dbg → Dbg) : (s.modDbg p f).homeOps = s.homeOps := rfl
@[simp] theorem State.modDbg_queues (p : Nat) (f : Dbg → Dbg) : (s.modDbg p f).queues = s.queues := rfl
@[simp] theorem State.modDbg_tlb (p : Nat) (f : Dbg → Dbg) : (s.modDbg p f).tlb = s.tlb := rfl
@[simp] theorem State.modDbg_walks (p : Nat) (f : Dbg → Dbg) : (s.modDbg p f).walks = s.walks := rfl
@[simp] theorem State.modDbg_replicas (p : Nat) (f : Dbg → Dbg) : (s.modDbg p f).replicas = s.replicas := rfl
@[simp] theorem State.modDbg_invals (p : Nat) (f : Dbg → Dbg) : (s.modDbg p f).invals = s.invals := rfl
@[simp] theorem State.modDbg_combiners (p : Nat) (f : Dbg → Dbg) : (s.modDbg p f).combiners = s.combiners := rfl
@[simp] theorem State.modDbg_combMsgs (p : Nat) (f : Dbg → Dbg) : (s.modDbg p f).combMsgs = s.combMsgs := rfl
@[simp] theorem State.modDbg_chain (p : Nat) (f : Dbg → Dbg) : (s.modDbg p f).chain = s.chain := rfl
@[simp] theorem State.modDbg_broken (p : Nat) (f : Dbg → Dbg) : (s.modDbg p f).broken = s.broken := rfl
@[simp] theorem State.modDbg_msgs (p : Nat) (f : Dbg → Dbg) : (s.modDbg p f).msgs = s.msgs := rfl
@[simp] theorem State.modDbg_overflow (p : Nat) (f : Dbg → Dbg) : (s.modDbg p f).overflow = s.overflow := rfl
@[simp] theorem State.modDbg_recvs (p : Nat) (f : Dbg → Dbg) : (s.modDbg p f).recvs = s.recvs := rfl
@[simp] theorem State.modDbg_pfHeld (p : Nat) (f : Dbg → Dbg) : (s.modDbg p f).pfHeld = s.pfHeld := rfl
@[simp] theorem State.modDbg_streams (p : Nat) (f : Dbg → Dbg) : (s.modDbg p f).streams = s.streams := rfl
@[simp] theorem State.modDbg_ctxs (p : Nat) (f : Dbg → Dbg) : (s.modDbg p f).ctxs = s.ctxs := rfl
@[simp] theorem State.modDbg_launches (p : Nat) (f : Dbg → Dbg) : (s.modDbg p f).launches = s.launches := rfl
@[simp] theorem State.modDbg_nextSeq (p : Nat) (f : Dbg → Dbg) : (s.modDbg p f).nextSeq = s.nextSeq := rfl
@[simp] theorem State.modDbg_diemap (p : Nat) (f : Dbg → Dbg) : (s.modDbg p f).diemap = s.diemap := rfl
@[simp] theorem State.modDbg_pairs (p : Nat) (f : Dbg → Dbg) : (s.modDbg p f).pairs = s.pairs := rfl
@[simp] theorem State.modDbg_hands (p : Nat) (f : Dbg → Dbg) : (s.modDbg p f).hands = s.hands := rfl
@[simp] theorem State.modDbg_words (p : Nat) (f : Dbg → Dbg) : (s.modDbg p f).words = s.words := rfl
@[simp] theorem State.modDbg_dealing (p : Nat) (f : Dbg → Dbg) : (s.modDbg p f).dealing = s.dealing := rfl
@[simp] theorem State.modDbg_sec (p : Nat) (f : Dbg → Dbg) : (s.modDbg p f).sec = s.sec := rfl
@[simp] theorem State.modDbg_islands (p : Nat) (f : Dbg → Dbg) : (s.modDbg p f).islands = s.islands := rfl
@[simp] theorem State.modDbg_ebudget (p : Nat) (f : Dbg → Dbg) : (s.modDbg p f).ebudget = s.ebudget := rfl
@[simp] theorem State.modDbg_fuses (p : Nat) (f : Dbg → Dbg) : (s.modDbg p f).fuses = s.fuses := rfl
@[simp] theorem State.modDbg_dieResets (p : Nat) (f : Dbg → Dbg) : (s.modDbg p f).dieResets = s.dieResets := rfl
@[simp] theorem State.modDbg_wayChanges (p : Nat) (f : Dbg → Dbg) : (s.modDbg p f).wayChanges = s.wayChanges := rfl
@[simp] theorem State.modDbg_peerDown (p : Nat) (f : Dbg → Dbg) : (s.modDbg p f).peerDown = s.peerDown := rfl
@[simp] theorem State.modDbg_hregs (p : Nat) (f : Dbg → Dbg) : (s.modDbg p f).hregs = s.hregs := rfl
@[simp] theorem State.modDbg_shared (p : Nat) (f : Dbg → Dbg) : (s.modDbg p f).shared = s.shared := rfl
@[simp] theorem State.modDbg_out (p : Nat) (f : Dbg → Dbg) : (s.modDbg p f).out = s.out := rfl
@[simp] theorem State.modDbg_slices (p : Nat) (f : Dbg → Dbg) : (s.modDbg p f).slices = s.slices := rfl
@[simp] theorem State.modDbg_peerMem (p : Nat) (f : Dbg → Dbg) : (s.modDbg p f).peerMem = s.peerMem := rfl
@[simp] theorem State.modDbg_inForce (p : Nat) (f : Dbg → Dbg) : (s.modDbg p f).inForce = s.inForce := rfl
@[simp] theorem State.modDbg_confRefused (p : Nat) (f : Dbg → Dbg) : (s.modDbg p f).confRefused = s.confRefused := rfl
@[simp] theorem State.modDbg_pipes (p : Nat) (f : Dbg → Dbg) : (s.modDbg p f).pipes = s.pipes := rfl
@[simp] theorem State.modDbg_passes (p : Nat) (f : Dbg → Dbg) : (s.modDbg p f).passes = s.passes := rfl
@[simp] theorem State.modDbg_winAt (p : Nat) (f : Dbg → Dbg) : (s.modDbg p f).winAt = s.winAt := rfl
@[simp] theorem State.modDbg_flits (p : Nat) (f : Dbg → Dbg) : (s.modDbg p f).flits = s.flits := rfl

@[simp] theorem State.setHreg_nonce (b : Blk) (o : Nat) (v : Word) : (s.setHreg b o v).nonce = s.nonce := rfl
@[simp] theorem State.setHreg_inbox (b : Blk) (o : Nat) (v : Word) : (s.setHreg b o v).inbox = s.inbox := rfl
@[simp] theorem State.setHreg_cur (b : Blk) (o : Nat) (v : Word) : (s.setHreg b o v).cur = s.cur := rfl
@[simp] theorem State.setHreg_clock (b : Blk) (o : Nat) (v : Word) : (s.setHreg b o v).clock = s.clock := rfl
@[simp] theorem State.setHreg_mem (b : Blk) (o : Nat) (v : Word) : (s.setHreg b o v).mem = s.mem := rfl
@[simp] theorem State.setHreg_hostMem (b : Blk) (o : Nat) (v : Word) : (s.setHreg b o v).hostMem = s.hostMem := rfl
@[simp] theorem State.setHreg_slotOf (b : Blk) (o : Nat) (v : Word) : (s.setHreg b o v).slotOf = s.slotOf := rfl
@[simp] theorem State.setHreg_poisoned (b : Blk) (o : Nat) (v : Word) : (s.setHreg b o v).poisoned = s.poisoned := rfl
@[simp] theorem State.setHreg_teams (b : Blk) (o : Nat) (v : Word) : (s.setHreg b o v).teams = s.teams := rfl
@[simp] theorem State.setHreg_nextId (b : Blk) (o : Nat) (v : Word) : (s.setHreg b o v).nextId = s.nextId := rfl
@[simp] theorem State.setHreg_l1 (b : Blk) (o : Nat) (v : Word) : (s.setHreg b o v).l1 = s.l1 := rfl
@[simp] theorem State.setHreg_homeOps (b : Blk) (o : Nat) (v : Word) : (s.setHreg b o v).homeOps = s.homeOps := rfl
@[simp] theorem State.setHreg_queues (b : Blk) (o : Nat) (v : Word) : (s.setHreg b o v).queues = s.queues := rfl
@[simp] theorem State.setHreg_tlb (b : Blk) (o : Nat) (v : Word) : (s.setHreg b o v).tlb = s.tlb := rfl
@[simp] theorem State.setHreg_walks (b : Blk) (o : Nat) (v : Word) : (s.setHreg b o v).walks = s.walks := rfl
@[simp] theorem State.setHreg_replicas (b : Blk) (o : Nat) (v : Word) : (s.setHreg b o v).replicas = s.replicas := rfl
@[simp] theorem State.setHreg_invals (b : Blk) (o : Nat) (v : Word) : (s.setHreg b o v).invals = s.invals := rfl
@[simp] theorem State.setHreg_combiners (b : Blk) (o : Nat) (v : Word) : (s.setHreg b o v).combiners = s.combiners := rfl
@[simp] theorem State.setHreg_combMsgs (b : Blk) (o : Nat) (v : Word) : (s.setHreg b o v).combMsgs = s.combMsgs := rfl
@[simp] theorem State.setHreg_chain (b : Blk) (o : Nat) (v : Word) : (s.setHreg b o v).chain = s.chain := rfl
@[simp] theorem State.setHreg_broken (b : Blk) (o : Nat) (v : Word) : (s.setHreg b o v).broken = s.broken := rfl
@[simp] theorem State.setHreg_msgs (b : Blk) (o : Nat) (v : Word) : (s.setHreg b o v).msgs = s.msgs := rfl
@[simp] theorem State.setHreg_overflow (b : Blk) (o : Nat) (v : Word) : (s.setHreg b o v).overflow = s.overflow := rfl
@[simp] theorem State.setHreg_recvs (b : Blk) (o : Nat) (v : Word) : (s.setHreg b o v).recvs = s.recvs := rfl
@[simp] theorem State.setHreg_pfHeld (b : Blk) (o : Nat) (v : Word) : (s.setHreg b o v).pfHeld = s.pfHeld := rfl
@[simp] theorem State.setHreg_streams (b : Blk) (o : Nat) (v : Word) : (s.setHreg b o v).streams = s.streams := rfl
@[simp] theorem State.setHreg_ctxs (b : Blk) (o : Nat) (v : Word) : (s.setHreg b o v).ctxs = s.ctxs := rfl
@[simp] theorem State.setHreg_launches (b : Blk) (o : Nat) (v : Word) : (s.setHreg b o v).launches = s.launches := rfl
@[simp] theorem State.setHreg_nextSeq (b : Blk) (o : Nat) (v : Word) : (s.setHreg b o v).nextSeq = s.nextSeq := rfl
@[simp] theorem State.setHreg_diemap (b : Blk) (o : Nat) (v : Word) : (s.setHreg b o v).diemap = s.diemap := rfl
@[simp] theorem State.setHreg_pairs (b : Blk) (o : Nat) (v : Word) : (s.setHreg b o v).pairs = s.pairs := rfl
@[simp] theorem State.setHreg_hands (b : Blk) (o : Nat) (v : Word) : (s.setHreg b o v).hands = s.hands := rfl
@[simp] theorem State.setHreg_words (b : Blk) (o : Nat) (v : Word) : (s.setHreg b o v).words = s.words := rfl
@[simp] theorem State.setHreg_dealing (b : Blk) (o : Nat) (v : Word) : (s.setHreg b o v).dealing = s.dealing := rfl
@[simp] theorem State.setHreg_sec (b : Blk) (o : Nat) (v : Word) : (s.setHreg b o v).sec = s.sec := rfl
@[simp] theorem State.setHreg_dbg (b : Blk) (o : Nat) (v : Word) : (s.setHreg b o v).dbg = s.dbg := rfl
@[simp] theorem State.setHreg_islands (b : Blk) (o : Nat) (v : Word) : (s.setHreg b o v).islands = s.islands := rfl
@[simp] theorem State.setHreg_ebudget (b : Blk) (o : Nat) (v : Word) : (s.setHreg b o v).ebudget = s.ebudget := rfl
@[simp] theorem State.setHreg_fuses (b : Blk) (o : Nat) (v : Word) : (s.setHreg b o v).fuses = s.fuses := rfl
@[simp] theorem State.setHreg_dieResets (b : Blk) (o : Nat) (v : Word) : (s.setHreg b o v).dieResets = s.dieResets := rfl
@[simp] theorem State.setHreg_wayChanges (b : Blk) (o : Nat) (v : Word) : (s.setHreg b o v).wayChanges = s.wayChanges := rfl
@[simp] theorem State.setHreg_peerDown (b : Blk) (o : Nat) (v : Word) : (s.setHreg b o v).peerDown = s.peerDown := rfl
@[simp] theorem State.setHreg_shared (b : Blk) (o : Nat) (v : Word) : (s.setHreg b o v).shared = s.shared := rfl
@[simp] theorem State.setHreg_out (b : Blk) (o : Nat) (v : Word) : (s.setHreg b o v).out = s.out := rfl
@[simp] theorem State.setHreg_slices (b : Blk) (o : Nat) (v : Word) : (s.setHreg b o v).slices = s.slices := rfl
@[simp] theorem State.setHreg_peerMem (b : Blk) (o : Nat) (v : Word) : (s.setHreg b o v).peerMem = s.peerMem := rfl
@[simp] theorem State.setHreg_inForce (b : Blk) (o : Nat) (v : Word) : (s.setHreg b o v).inForce = s.inForce := rfl
@[simp] theorem State.setHreg_confRefused (b : Blk) (o : Nat) (v : Word) : (s.setHreg b o v).confRefused = s.confRefused := rfl
@[simp] theorem State.setHreg_pipes (b : Blk) (o : Nat) (v : Word) : (s.setHreg b o v).pipes = s.pipes := rfl
@[simp] theorem State.setHreg_passes (b : Blk) (o : Nat) (v : Word) : (s.setHreg b o v).passes = s.passes := rfl
@[simp] theorem State.setHreg_winAt (b : Blk) (o : Nat) (v : Word) : (s.setHreg b o v).winAt = s.winAt := rfl
@[simp] theorem State.setHreg_flits (b : Blk) (o : Nat) (v : Word) : (s.setHreg b o v).flits = s.flits := rfl

end Sys2Proof.Machine
end

