-- ==== Sys2Proof/Laws/Issue.lean ====
section
/-! SUPPORT. What the issue of a word says, once: the issuer and everything the word works with (R38-R40, R32, R14), the state it
starts from, and how a word's meaning follows from its own effect. -/

namespace Sys2Proof.Machine

open Host (Outcome)

/-! ### Counters (R423) -/

/-- A tally changes performance counters alone. -/
theorem State.tally_eq (s : State) (t : Team) (e n : Nat) : s.tally t e n = { s with dbg := (s.tally t e n).dbg } := by
  unfold State.tally
  split
  · rfl
  · split
    · rfl
    · split <;> rfl

/-- With no debugger attached a tally changes nothing. -/
theorem State.tally_none (s : State) (t : Team) (e n : Nat) (h : s.dbg.all (fun d => !d.att) = true) : s.tally t e n = s := by
  unfold State.tally; rw [if_pos h]

theorem State.tallyWord_eq (s : State) (t : Team) (f : Frag) (act : Lanes) (p : Bool) :
    s.tallyWord t f act p = { s with dbg := (s.tallyWord t f act p).dbg } := by
  unfold State.tallyWord
  split
  · rw [State.tally_eq ((s.tally t 2 1).tally t 3 (slicesOf f.mask)), State.tally_eq (s.tally t 2 1), State.tally_eq s]
  · rw [State.tally_eq s]

theorem State.tallyWord_none (s : State) (t : Team) (f : Frag) (act : Lanes) (p : Bool) (h : s.dbg.all (fun d => !d.att) = true) :
    s.tallyWord t f act p = s := by
  unfold State.tallyWord
  simp [State.tally_none, h]

/-- R255: taking a unit changes the core's units alone. -/
theorem State.occupy_eq (s : State) (t : Team) (f : Frag) (p : Bool) : s.occupy t f p = { s with pipes := (s.occupy t f p).pipes } := by
  unfold State.occupy; split <;> rfl

/-- R255, R423: what an issued word costs is counters and a unit of its core. -/
theorem State.charge_eq (s : State) (t : Team) (f : Frag) (act : Lanes) (p : Bool) :
    s.charge t f act p = { s with dbg := (s.charge t f act p).dbg, pipes := (s.charge t f act p).pipes } := by
  unfold State.charge
  split
  · rfl
  · rw [State.tallyWord_eq, State.occupy_eq]

/-- R423: with no debugger attached no counter changes. -/
theorem State.charge_none (s : State) (t : Team) (f : Frag) (act : Lanes) (p : Bool) (h : s.dbg.all (fun d => !d.att) = true) :
    (s.charge t f act p).dbg = s.dbg := by
  unfold State.charge
  split
  · rfl
  · rw [State.tallyWord_none _ _ _ _ _ (by rw [State.occupy_eq]; exact h), State.occupy_eq]

/-! ### The issuer -/

/-- What a fragment's word issues with. -/
structure IssuedBy (i : Instr) (s : State) (x : Issue) (tid gi ent : Nat) : Prop where
  who   : x.who = s.cur
  word  : x.word = wordOf i
  pc    : x.pc = x.frag.pc
  team  : s.team? tid = some x.team
  grp   : x.team.groups[gi]? = some x.grp
  la    : s.launch? x.team.seq = some x.la
  frag  : x.grp.frag? ent = some x.frag
  lanes : x.lanes = actLanes i s x.la.r.width x.grp x.frag
  acts  : x.lanes ≠ 0 ∨ actsEmpty i = true
  legal : issueTrap i (wordOf i) x.team x.grp x.la ent = none
  early : earlyTrap i s.clock x.grp x.la x.frag = none
  unit  : (x.frag.st == .ready && s.cur == .frag tid gi ent && !s.unitReady x.team x.grp (i.perLane x.la.r.width)) = false
  free  : x.grp.interlocked (guardRefs i ++ (i.shape x.la.r.width).reads ++ (i.shape x.la.r.width).writes) = false
  state : x.s = (s.modGroup tid gi (fun g => g.issued ent s.clock (stallOf i) (holdOf i x.la.r.width x.frag.mask))).charge x.team x.frag x.lanes (i.perLane x.la.r.width)
  index : x.gi = gi
  tile  : x.grp.sourceWait x.team x.frag (i.shape x.la.r.width) = none

theorem issueFrag_go {i : Instr} {s : State} {x : Issue} {tid gi ent : Nat} (h : issueFrag i s tid gi ent = .go x) :
    IssuedBy i s x tid gi ent := by
  unfold issueFrag at h
  split at h
  · cases h
  · rename_i t ht
    split at h
    · rename_i g l hg hl
      split at h
      · cases h
      · rename_i f hf
        split at h
        · cases h
        · rename_i hc
          dsimp only at h
          split at h
          · cases h
          · rename_i hi
            split at h
            · cases h
            · rename_i hu
              split at h
              · cases h
              · rename_i hb
                split at h
                · split at h <;> cases h
                · rename_i he
                  split at h
                  · cases h
                  · rename_i ha
                    injection h with h
                    subst h
                    refine ⟨rfl, rfl, rfl, ht, hg, hl, hf, rfl, ?_, hc, he, Bool.not_eq_true _ ▸ hu, by simpa using hi, rfl, rfl, hb⟩
                    by_cases hz : actLanes i s l.r.width g f = 0
                    · right; simpa [hz] using ha
                    · exact .inl hz
    · cases h

/-- What a stream's word issues with. -/
structure IssuedByStream (i : Instr) (s : State) (x : Issue) (n : Nat) (y : Stream) : Prop where
  strm  : s.streams[n]? = some y
  who   : x.who = .stream n
  word  : x.word = wordOf i
  pc    : x.pc = y.pc
  grp   : x.grp = y.asGroup
  la    : x.la = { Launch.blank with stream := n, part := y.part, asid := y.asid }
  lanes : x.lanes = 1
  legal : i.legal = true
  ok    : scalarOk i = true
  state : x.s = s.modStream n (fun z => { z with pc := nextPc z.pc, wake := s.clock + max (stallOf i) 1 })

theorem issueStream_go {i : Instr} {s : State} {x : Issue} {n : Nat} (h : issueStream i s n = .go x) :
    ∃ y, IssuedByStream i s x n y := by
  unfold issueStream at h
  split at h
  · cases h
  · rename_i y hy
    dsimp only at h
    split at h
    · cases h
    · rename_i hl
      split at h
      · cases h
      · split at h
        · split at h
          · cases h
          · injection h with h
            subst h
            simp only [Bool.or_eq_true, Bool.not_eq_true', not_or, Bool.not_eq_false] at hl
            exact ⟨y, hy, rfl, rfl, rfl, rfl, rfl, rfl, hl.1, hl.2, rfl⟩
        · split at h
          · cases h
          · injection h with h
            subst h
            simp only [Bool.or_eq_true, Bool.not_eq_true', not_or, Bool.not_eq_false] at hl
            exact ⟨y, hy, rfl, rfl, rfl, rfl, rfl, rfl, hl.1, hl.2, rfl⟩

/-- Every word that issues is issued by a fragment, as the body of an inv by a fragment, or by a stream. -/
theorem Issues.cases {i : Instr} {s : State} {x : Issue} (h : Issues i s x) :
    (∃ tid gi ent, (s.cur = .frag tid gi ent ∨ s.cur = .body tid gi ent) ∧ IssuedBy i s x tid gi ent) ∨
      (∃ n y, s.cur = .stream n ∧ IssuedByStream i s x n y) := by
  unfold Issues issue at h
  split at h
  · cases h
  · rename_i n hc
    obtain ⟨y, hy⟩ := issueStream_go h
    exact .inr ⟨n, y, hc, hy⟩
  · rename_i tid gi ent hc
    exact .inl ⟨tid, gi, ent, .inl hc, issueFrag_go h⟩
  · rename_i tid gi ent hc
    exact .inl ⟨tid, gi, ent, .inr hc, issueFrag_go h⟩

/-- R38: a word that issues is legal. -/
theorem Issues.legal {i : Instr} {s : State} {x : Issue} (h : Issues i s x) : i.legal = true := by
  rcases h.cases with ⟨tid, gi, ent, -, hx⟩ | ⟨n, y, -, hx⟩
  · have hl := hx.legal
    unfold issueTrap at hl
    dsimp only at hl
    split at hl
    · cases hl
    · rename_i hn
      simp only [Bool.or_eq_true, Bool.not_eq_true', not_or, Bool.not_eq_false] at hn
      exact hn.1
  · exact hx.legal

/-- A word that issues meets its own operand rules. -/
theorem Issues.ok {i : Instr} {s : State} {x : Issue} (h : Issues i s x) : (i.shape 32).ok = true := by
  have hl := h.legal
  unfold Instr.legal at hl
  simp only [Bool.and_eq_true] at hl
  exact hl.1.1.1

/-! ### What a word's meaning answers -/

/-- A word that issues does what its own effect says. -/
theorem word_of_issues {i : Instr} {s : State} {x : Issue} (h : Issues i s x) (body : Issue → Act) :
    word i s body = .next ((body x).after s) := by
  unfold word; rw [show issue i s = .go x from h]

theorem word_done {i : Instr} {s : State} {x : Issue} (h : Issues i s x) {body : Issue → Act} {t : State} (hb : body x = .done t) :
    word i s body = .next t := by rw [word_of_issues h, hb]; rfl

theorem word_trap {i : Instr} {s : State} {x : Issue} (h : Issues i s x) {body : Issue → Act} {c : Trap} (hb : body x = .trap c) :
    word i s body = .next (s.takeTrap s.cur c) := by rw [word_of_issues h, hb]; rfl

/-- R39: a word that meets an issue check takes its trap. -/
theorem word_issueTrap {i : Instr} {s : State} {c : Trap} (h : issue i s = .trap c) (body : Issue → Act) :
    word i s body = .next (s.takeTrap s.cur c) := by unfold word; rw [h]

/-- A word answers a next state unless nothing is issuing it. -/
theorem word_goesOn {i : Instr} {s : State} (h : issue i s ≠ .noIssuer) (body : Issue → Act) : GoesOn (word i s body) := by
  unfold word
  split
  · contradiction
  all_goals exact ⟨_, rfl⟩

end Sys2Proof.Machine
end

