-- ==== Sys2Proof/Laws/Group.lean ====
section
/-! SUPPORT. Register cells and results in flight (R30-R34): what a read gives once a result has set out, and what a fixed-latency
word leaves unchanged. -/

namespace Sys2Proof.Machine

/-! ### Reads -/

theorem readFlights_append (now nonce : Nat) (k : Key) (f : Flight) (fs : List Flight) (n : Nat) (cur : Word) :
    readFlights now nonce k n (fs ++ [f]) cur =
      match f.find k with
      | none => readFlights now nonce k n fs cur
      | some x => if f.ready ≤ now then x
                  else if Config.early nonce (k.code + 0x40000 * (n + fs.length)) then x else readFlights now nonce k n fs cur := by
  induction fs generalizing n cur with
  | nil => rfl
  | cons y ys ih =>
    simp only [List.cons_append, readFlights, List.length_cons]
    rw [ih, show n + 1 + ys.length = n + (ys.length + 1) by omega]

/-- R31: a read once one more result is on its way. -/
theorem Group.read_launchFlight (g : Group) (f : Flight) (now nonce : Nat) (k : Key) :
    (g.launchFlight f).read now nonce k =
      match f.find k with
      | none => g.read now nonce k
      | some x => if f.ready ≤ now then x
                  else if Config.early nonce (k.code + 0x40000 * g.flights.length) then x else g.read now nonce k := by
  have h := readFlights_append now nonce k f g.flights 0 (g.raw k)
  rw [Nat.zero_add] at h
  exact h

/-- R31: from its ready cycle on a result is what its cells read. -/
theorem Group.read_ready (g : Group) (f : Flight) {now : Nat} (nonce : Nat) {k : Key} {v : Word} (hf : f.find k = some v)
    (hr : f.ready ≤ now) : (g.launchFlight f).read now nonce k = v := by
  rw [Group.read_launchFlight, hf]; simp [hr]

theorem Flight.find_none {f : Flight} {k : Key} (h : ¬ ∃ w ∈ f.writes, w.key = k) : f.find k = none := by
  unfold Flight.find
  rw [Option.map_eq_none_iff, List.find?_eq_none]
  intro w hw
  simp only [beq_iff_eq]
  exact fun he => h ⟨w, hw, he⟩

/-- A cell that a result does not write reads as before. -/
theorem Group.read_other (g : Group) (f : Flight) (now nonce : Nat) {k : Key} (h : ¬ ∃ w ∈ f.writes, w.key = k) :
    (g.launchFlight f).read now nonce k = g.read now nonce k := by
  rw [Group.read_launchFlight, Flight.find_none h]

/-- A read looks at the cells and the results in flight alone. -/
theorem Group.read_congr {g h : Group} (hv : g.v = h.v) (hs : g.s = h.s) (hp : g.p = h.p) (hf : g.flights = h.flights)
    (now nonce : Nat) (k : Key) : g.read now nonce k = h.read now nonce k := by
  unfold Group.read Group.raw
  rw [hf]; cases k <;> simp only [hv, hs, hp]

/-! ### Flags (R74, R75) -/

theorem Group.write_flags (g : Group) (k : Key) (x : Word) : (g.write k x).flags = g.flags := by
  unfold Group.write; cases k <;> rfl

theorem Group.writes_flags (g : Group) (ws : List RegWrite) : (g.writes ws).flags = g.flags := by
  unfold Group.writes
  induction ws generalizing g with
  | nil => rfl
  | cons w ws ih => rw [List.foldl_cons, ih, Group.write_flags]

theorem Group.land_flags (g : Group) (f : Flight) : (g.land f).flags = g.flags ||| f.flags := by
  unfold Group.land Group.orFlags; simp [Group.writes_flags]

theorem Group.foldl_land_flags (fs : List Flight) (g h : Group) (he : g.flags = h.flags) :
    (fs.foldl Group.land g).flags = (fs.foldl Group.land h).flags := by
  induction fs generalizing g h with
  | nil => exact he
  | cons f fs ih => exact ih _ _ (by rw [Group.land_flags, Group.land_flags, he])

/-- The flags once every result has landed depend on the flags and the results in flight alone. -/
theorem Group.settle_flags_congr {g h : Group} (hf : g.flights = h.flights) (he : g.flags = h.flags) :
    g.settle.flags = h.settle.flags := by
  unfold Group.settle
  simp only [hf]
  exact Group.foldl_land_flags _ _ _ he

/-- The flags of one more result join those of the others. -/
theorem Group.settle_launchFlight (g : Group) (f : Flight) : (g.launchFlight f).settle.flags = g.settle.flags ||| f.flags := by
  unfold Group.settle Group.launchFlight
  simp only [List.foldl_append, List.foldl_cons, List.foldl_nil, Group.land_flags]
  rw [Group.foldl_land_flags g.flights { g with flights := g.flights ++ [f] } g rfl]

/-! ### Looking up after a change -/

theorem State.team?_modTeam (s : State) (id j : Nat) (f : Team → Team) (hf : ∀ t, (f t).id = t.id) :
    (s.modTeam id f).team? j = (s.team? j).map (fun t => if t.id = id then f t else t) := by
  unfold State.team? State.modTeam
  simp only
  generalize s.teams = ts
  induction ts with
  | nil => rfl
  | cons t ts ih =>
    rw [List.map_cons, List.find?_cons, List.find?_cons]
    have : ((if t.id = id then f t else t).id == j) = (t.id == j) := by split <;> simp [hf]
    rw [this]
    cases t.id == j
    · exact ih
    · rfl

theorem State.team?_id {s : State} {id : Nat} {t : Team} (h : s.team? id = some t) : t.id = id := by
  have := List.find?_some h; simpa using this

theorem State.team?_modGroup (s : State) (id g j : Nat) (f : Group → Group) :
    (s.modGroup id g f).team? j = (s.team? j).map (fun t => if t.id = id then { t with groups := modNth t.groups g f } else t) :=
  State.team?_modTeam s id j _ (fun _ => rfl)

theorem modNth_get {α : Type} (l : List α) (k : Nat) (f : α → α) : (modNth l k f)[k]? = (l[k]?).map f := by
  unfold modNth; simp

theorem modNth_get_ne {α : Type} (l : List α) {k j : Nat} (f : α → α) (h : j ≠ k) : (modNth l k f)[j]? = l[j]? := by
  unfold modNth; rw [List.getElem?_modify]; simp [Ne.symm h]

/-- The issuing team after two changes of its group. -/
theorem State.team?_modGroup2 (s : State) (id g : Nat) (f h : Group → Group) {t : Team} (ht : s.team? id = some t) :
    ((s.modGroup id g f).modGroup id g h).team? id = some { t with groups := modNth (modNth t.groups g f) g h } := by
  rw [State.team?_modGroup, State.team?_modGroup, ht]
  simp [State.team?_id ht]

end Sys2Proof.Machine
end

