-- ==== Sys2Proof/Laws/Within.lean ====
section
/-! SUPPORT. Words that act on their own group or stream alone: issuing, a change of the group or of the fragment, and counting keep
within it. -/

namespace Sys2Proof.Machine

/-- A change of teams, streams, counters and units alone leaves every byte as it was. -/
theorem byteAt_congr {s t : State} (h : { t with teams := s.teams, streams := s.streams, dbg := s.dbg, pipes := s.pipes } = s) (slot a : Nat) :
    t.byteAt slot a = s.byteAt slot a := by
  rw [← h]; rfl

theorem Issue.Within.refl (x : Issue) (s : State) : x.Within s s :=
  ⟨rfl, fun _ _ => rfl, fun _ => rfl, fun _ _ => rfl, fun _ _ _ _ y z hy hz => by rw [hy] at hz; cases hz; exact ⟨rfl, fun _ _ => rfl⟩,
    fun _ _ => rfl⟩

/-- A change of the issuing group. -/
theorem Issue.Within.modGroup {x : Issue} {s t : State} (h : x.Within s t) {tid gi e : Nat} (hw : x.who = .frag tid gi e ∨ x.who = .body tid gi e)
    (f : Group → Group) : x.Within s (t.modGroup tid gi f) := by
  have hst : { t.modGroup tid gi f with teams := s.teams, streams := s.streams, dbg := s.dbg, pipes := s.pipes } = s := h.state
  refine ⟨hst, byteAt_congr hst, h.count, fun id hid => ?_, fun id gi' e' hid y z hy hz => ?_, h.strms⟩
  · have hne : id ≠ tid := by
      rintro rfl
      rcases hw with hw | hw
      · exact (hid gi e).1 hw
      · exact (hid gi e).2 hw
    rw [State.team?_modGroup, h.teams id hid]
    cases hq : s.team? id with
    | none => rfl
    | some a => simp [State.team?_id hq, hne]
  · have hsame : id = tid ∧ gi' = gi := by
      rcases hw with hw | hw <;> rcases hid with hid | hid <;> rw [hw] at hid <;> cases hid <;> exact ⟨rfl, rfl⟩
    obtain ⟨rfl, rfl⟩ := hsame
    rw [State.team?_modGroup] at hz
    cases hq : t.team? id with
    | none => rw [hq] at hz; cases hz
    | some a =>
      rw [hq] at hz
      simp only [Option.map_some, Option.some.injEq] at hz
      rw [if_pos (State.team?_id hq)] at hz
      subst hz
      have := h.team id gi' e' hid y a hy hq
      exact ⟨this.1, fun k hk => by rw [modNth_get_ne _ _ hk]; exact this.2 k hk⟩

/-- A change of the issuing stream. -/
theorem Issue.Within.modStream {x : Issue} {s t : State} (h : x.Within s t) {n : Nat} (hw : x.who = .stream n) (f : Stream → Stream) :
    x.Within s (t.modStream n f) := by
  have hst : { t.modStream n f with teams := s.teams, streams := s.streams, dbg := s.dbg, pipes := s.pipes } = s := h.state
  refine ⟨hst, byteAt_congr hst, h.count, h.teams, h.team, fun m hm => ?_⟩
  have hne : m ≠ n := by rintro rfl; exact hm hw
  rw [← h.strms m hm]
  exact modNth_get_ne _ _ hne

theorem Issue.Within.modG {x : Issue} {s t : State} (h : x.Within s t) (f : Group → Group) : x.Within s (x.modG t f) := by
  unfold Issue.modG
  split
  · rename_i hw; exact h.modGroup (.inl hw) f
  · rename_i hw; exact h.modGroup (.inr hw) f
  · rename_i hw; exact h.modStream hw _
  · exact h

theorem Issue.Within.modF {x : Issue} {s t : State} (h : x.Within s t) (f : Frag → Frag) : x.Within s (x.modF t f) := by
  unfold Issue.modF
  split
  · rename_i hw; exact h.modGroup (.inl hw) _
  · rename_i hw; exact h.modGroup (.inr hw) _
  · exact h

theorem Issue.Within.tally {x : Issue} {s t : State} (h : x.Within s t) (y : Team) (e n : Nat) : x.Within s (t.tally y e n) := by
  have ht := State.tally_eq t y e n
  have hst : { t.tally y e n with teams := s.teams, streams := s.streams, dbg := s.dbg, pipes := s.pipes } = s := by rw [ht]; exact h.state
  refine ⟨hst, byteAt_congr hst, fun ha => ?_, ?_, ?_, ?_⟩
  · rw [State.tally_none t y e n (by rw [h.count ha]; exact ha)]; exact h.count ha
  · rw [ht]; exact h.teams
  · rw [ht]; exact h.team
  · rw [ht]; exact h.strms

theorem Issue.Within.charge {x : Issue} {s t : State} (h : x.Within s t) (y : Team) (f : Frag) (m : Lanes) (p : Bool) :
    x.Within s (t.charge y f m p) := by
  have ht := State.charge_eq t y f m p
  have hst : { t.charge y f m p with teams := s.teams, streams := s.streams, dbg := s.dbg, pipes := s.pipes } = s := by rw [ht]; exact h.state
  refine ⟨hst, byteAt_congr hst, fun ha => ?_, ?_, ?_, ?_⟩
  · rw [State.charge_none t y f m p (by rw [h.count ha]; exact ha)]; exact h.count ha
  · rw [ht]; exact h.teams
  · rw [ht]; exact h.team
  · rw [ht]; exact h.strms

/-- Issuing keeps within the issuing group or stream. -/
theorem Issues.within {i : Instr} {s : State} {x : Issue} (h : Issues i s x) : x.Within s x.s := by
  rcases h.cases with ⟨tid, gi, ent, hc, hx⟩ | ⟨n, y, hc, hx⟩
  · have hw : x.who = .frag tid gi ent ∨ x.who = .body tid gi ent := by rw [hx.who]; exact hc
    rw [hx.state]
    exact ((Issue.Within.refl x s).modGroup hw _).charge _ _ _ _
  · rw [hx.state]
    exact (Issue.Within.refl x s).modStream hx.who _

end Sys2Proof.Machine
end

