-- ==== Sys2Proof/Laws/Result.lean ====
section
/-! SUPPORT. What every word of fixed latency does: its result sets out, its issuer moves on, and nothing else changes. -/

namespace Sys2Proof.Machine

theorem Group.issued_read (g : Group) (ent now stall hold n k : Nat) (key : Key) :
    (g.issued ent now stall hold).read n k key = g.read n k key :=
  Group.read_congr rfl rfl rfl rfl n k key

/-- A change of a group's results alone: those on their way and those pending. -/
structure ResultsOnly (f : Group → Group) : Prop where
  rest : ∀ g, { f g with flights := g.flights, pend := g.pend } = g
  congr : ∀ g h, g.flights = h.flights → g.pend = h.pend → (f g).flights = (f h).flights ∧ (f g).pend = (f h).pend

theorem ResultsOnly.frame {f : Group → Group} (hf : ResultsOnly f) (g : Group) (ent now stall hold : Nat) :
    { f (g.issued ent now stall hold) with flights := g.flights, pend := g.pend, frags := g.frags, last := g.last, pipeAt := g.pipeAt, afWait := g.afWait } = g := by
  have h := hf.rest (g.issued ent now stall hold)
  generalize f (g.issued ent now stall hold) = g' at h
  cases g; cases g'; simp only [Group.issued, Group.modFrag, Group.mk.injEq] at h ⊢
  simp [h]

theorem ResultsOnly.read {f : Group → Group} (hf : ResultsOnly f) {g h : Group} (hg : f h = g) (now nonce : Nat) (k : Key) :
    g.read now nonce k = { h with flights := g.flights }.read now nonce k := by
  have hr := hf.rest h
  rw [hg] at hr
  have hv : g.v = h.v := by have e := congrArg Group.v hr; exact e
  have hs : g.s = h.s := by have e := congrArg Group.s hr; exact e
  have hp : g.p = h.p := by have e := congrArg Group.p hr; exact e
  exact Group.read_congr (g := g) (h := { h with flights := g.flights }) hv hs hp rfl _ _ _

/-- What a word that only changes its group's results leads to: its group, and the frame. -/
theorem modG_after {i : Instr} {s : State} {x : Issue} (h : Issues i s x) (f : Group → Group) (hf : ResultsOnly f) :
    ∃ g, x.groupAfter (x.modG x.s f) = some g ∧ g.flights = (f x.grp).flights ∧ g.pend = (f x.grp).pend ∧
      (∀ now nonce k, g.read now nonce k = (f x.grp).read now nonce k) ∧ g.flags = x.grp.flags ∧
      ∀ dst : Key → Prop, (∀ now nonce k, ¬ dst k → (f x.grp).read now nonce k = x.grp.read now nonce k) →
        x.Frame s (x.modG x.s f) g dst := by
  rcases h.cases with ⟨tid, gi, ent, hc, hx⟩ | ⟨n, y, hc, hx⟩
  · have hw : x.who = .frag tid gi ent ∨ x.who = .body tid gi ent := by rw [hx.who]; exact hc
    let g : Group := f (x.grp.issued ent s.clock (stallOf i) (holdOf i x.la.r.width x.frag.mask))
    have hfix : x.modG x.s f = x.s.modGroup tid gi f := by
      unfold Issue.modG
      rcases hw with hw | hw <;> rw [hw]
    have hs : x.s = { s.modGroup tid gi (fun g => g.issued ent s.clock (stallOf i) (holdOf i x.la.r.width x.frag.mask)) with dbg := x.s.dbg, pipes := x.s.pipes } := by
      have := State.charge_eq (s.modGroup tid gi (fun g => g.issued ent s.clock (stallOf i) (holdOf i x.la.r.width x.frag.mask))) x.team x.frag x.lanes (i.perLane x.la.r.width)
      rw [← hx.state] at this
      exact this
    have hfix2 : x.modG x.s f = { (s.modGroup tid gi (fun g => g.issued ent s.clock (stallOf i) (holdOf i x.la.r.width x.frag.mask))).modGroup tid gi f with dbg := x.s.dbg, pipes := x.s.pipes } := by
      rw [hfix, hs]; rfl
    have hteam : (x.modG x.s f).team? tid =
        some { x.team with groups := modNth (modNth x.team.groups gi (fun g => g.issued ent s.clock (stallOf i) (holdOf i x.la.r.width x.frag.mask))) gi f } := by
      rw [hfix2]; exact State.team?_modGroup2 s tid gi _ _ hx.team
    have hgrp : x.groupAfter (x.modG x.s f) = some g := by
      unfold Issue.groupAfter
      rcases hw with hw | hw <;> rw [hw] <;> simp only [hteam, Option.bind_some, modNth_get, hx.grp, Option.map_some] <;> rfl
    have hres := hf.congr (x.grp.issued ent s.clock (stallOf i) (holdOf i x.la.r.width x.frag.mask)) x.grp rfl rfl
    have hframe : { g with flights := x.grp.flights, pend := x.grp.pend, frags := x.grp.frags, last := x.grp.last, pipeAt := x.grp.pipeAt, afWait := x.grp.afWait } = x.grp := hf.frame ..
    have hread : ∀ now nonce k, g.read now nonce k = (f x.grp).read now nonce k := fun now nonce k => by
      rw [hf.read (h := x.grp.issued ent s.clock (stallOf i) (holdOf i x.la.r.width x.frag.mask)) rfl, hf.read (h := x.grp) rfl]
      exact Group.read_congr (g := { x.grp.issued ent s.clock (stallOf i) (holdOf i x.la.r.width x.frag.mask) with flights := g.flights })
        (h := { x.grp with flights := (f x.grp).flights }) rfl rfl rfl hres.1 now nonce k
    refine ⟨g, hgrp, hres.1, hres.2, hread, ?_, fun dst hdst => ?_⟩
    · rw [← hframe]
    · refine ⟨h.within.modG f, ?_, ?_, hframe⟩
      · intro n hn; rcases hw with hw | hw <;> rw [hw] at hn <;> cases hn
      · intro now nonce k hk
        rw [hread]; exact hdst now nonce k hk
  · have hw := hx.who
    let z : Stream := { y with pc := nextPc y.pc, wake := s.clock + max (stallOf i) 1, flights := (f y.asGroup).flights, pend := (f y.asGroup).pend }
    have hsr : (f y.asGroup).s = y.s := congrArg Group.s (hf.rest y.asGroup)
    have hfix : x.modG x.s f = x.s.modStream n (fun y =>
        let g := f y.asGroup
        { y with s := g.s, flights := g.flights, pend := g.pend }) := by
      unfold Issue.modG; rw [hw]
    have hz : (x.modG x.s f).streams[n]? = some z := by
      rw [hfix, hx.state]
      unfold State.modStream
      simp only [modNth_get, hx.strm, Option.map_some, z]
      have hy : Stream.asGroup { y with pc := nextPc y.pc, wake := s.clock + max (stallOf i) 1 } = y.asGroup := rfl
      rw [hy, hsr]
    have hgrp : x.groupAfter (x.modG x.s f) = some z.asGroup := by
      unfold Issue.groupAfter; rw [hw]; simp [hz]
    have hrest : { f x.grp with flights := x.grp.flights, pend := x.grp.pend } = x.grp := hf.rest x.grp
    have hread : ∀ now nonce k, z.asGroup.read now nonce k = (f x.grp).read now nonce k := fun now nonce k => by
      rw [hf.read (h := x.grp) rfl, hx.grp]
      exact Group.read_congr rfl rfl rfl rfl now nonce k
    refine ⟨z.asGroup, hgrp, by rw [hx.grp]; rfl, by rw [hx.grp]; rfl, hread, by rw [hx.grp]; rfl, fun dst hdst => ?_⟩
    · refine ⟨h.within.modG f, ?_, ?_, ?_⟩
      · intro m hm a b ha hb
        have : m = n := by rw [hw] at hm; cases hm; rfl
        subst this
        rw [hx.strm] at ha; rw [hz] at hb
        cases ha; cases hb; rfl
      · intro now nonce k hk
        rw [hread]; exact hdst now nonce k hk
      · rw [hx.grp]; rfl

theorem resultsOnly_launchFlight (F : Flight) : ResultsOnly (fun g => g.launchFlight F) :=
  ⟨fun _ => rfl, fun g h hf hp => ⟨by simp [Group.launchFlight, hf], hp⟩⟩

theorem resultsOnly_pend (p : Pend) : ResultsOnly (fun g => { g with pend := g.pend ++ [p] }) :=
  ⟨fun _ => rfl, fun g h hf hp => ⟨hf, by simp [hp]⟩⟩

/-- What a word of fixed latency leads to: its group with the result on its way, and the frame. -/
theorem fixed_after {i : Instr} {s : State} {x : Issue} (h : Issues i s x) (lat : Nat) (ws : List RegWrite) (fl : BitVec 6) :
    ∃ g, x.groupAfter (x.fixed lat ws fl) = some g ∧
      (∀ now nonce k, g.read now nonce k = (x.grp.launchFlight ⟨x.s.clock + lat, ws, fl, none⟩).read now nonce k) ∧
      g.settle.flags = x.grp.settle.flags ||| fl ∧
      x.Frame s (x.fixed lat ws fl) g (fun k => ∃ w ∈ ws, w.key = k) := by
  obtain ⟨g, hg, hfl, -, hr, hflags, hframe⟩ := modG_after h _ (resultsOnly_launchFlight ⟨x.s.clock + lat, ws, fl, none⟩)
  refine ⟨g, hg, hr, ?_, hframe _ fun now nonce k hk => Group.read_other _ _ _ _ hk⟩
  rw [Group.settle_flags_congr hfl hflags]
  exact Group.settle_launchFlight x.grp ⟨x.s.clock + lat, ws, fl, none⟩

/-- What a word of variable latency leads to: its group with the result pending, and the frame. -/
theorem variable_after {i : Instr} {s : State} {x : Issue} (h : Issues i s x) (regs : List PendReg) (ws : List RegWrite) (fl : BitVec 6)
    (left due : Nat) (acq : Bool) :
    ∃ t g, x.variable x.s regs ws fl left due acq = { t with nextId := s.nextId + 1 } ∧ t.nextId = s.nextId ∧
      x.groupAfter t = some g ∧ g.pend = x.grp.pend ++ [⟨s.nextId, x.frag.mask, regs, ws, fl, left, due, acq⟩] ∧
      g.flags = x.grp.flags ∧ x.Frame s t g (fun _ => False) := by
  have hid : x.s.nextId = s.nextId := by
    rcases h.cases with ⟨tid, gi, ent, hc, hx⟩ | ⟨n, y, hc, hx⟩
    · rw [hx.state, State.charge_eq]; rfl
    · rw [hx.state]; rfl
  obtain ⟨g, hg, -, hp, -, hflags, hframe⟩ := modG_after h _ (resultsOnly_pend ⟨s.nextId, x.frag.mask, regs, ws, fl, left, due, acq⟩)
  refine ⟨_, g, ?_, ?_, hg, hp, hflags, hframe _ fun now nonce k _ => rfl⟩
  · unfold Issue.variable; rw [hid]
  · have e := (hframe (fun _ => False) (fun _ _ _ _ => rfl)).state
    have e := congrArg State.nextId e
    exact e

end Sys2Proof.Machine
end

