-- ==== Sys2Proof/Laws/Lanes.lean ====
section
/-! SUPPORT. Results computed lane by lane: what each lane's destination holds once the result is ready. -/

namespace Sys2Proof.Machine

/-! ### Lanes -/

theorem laneList_nodup (W : Nat) (m : Lanes) : (laneList W m).Nodup := List.nodup_range.filter _

theorem Issue.dstLanes_nodup (x : Issue) (d : Opr) : (x.dstLanes d).Nodup := by
  unfold Issue.dstLanes
  split
  · simp
  · exact laneList_nodup _ _

/-- Looking up a key among the writes of many lanes, where only one lane's writes may hold it. -/
theorem find_flatMap {ls : List Nat} (f : Nat → List RegWrite) {k : Key} {l : Nat} (hl : l ∈ ls)
    (ho : ∀ j ∈ ls, j ≠ l → ∀ w ∈ f j, w.key ≠ k) :
    (ls.flatMap f).find? (fun w => w.key == k) = (f l).find? (fun w => w.key == k) := by
  induction ls with
  | nil => cases hl
  | cons j ls ih =>
    rw [List.flatMap_cons, List.find?_append]
    by_cases hj : j = l
    · subst hj
      cases hq : (f j).find? (fun w => w.key == k) with
      | some w => rfl
      | none =>
        by_cases hm : j ∈ ls
        · rw [ih hm (fun i hi => ho i (by simp [hi])), hq]; rfl
        · have : (ls.flatMap f).find? (fun w => w.key == k) = none := by
            rw [List.find?_eq_none]
            intro w hw
            obtain ⟨i, hi, hwi⟩ := List.mem_flatMap.1 hw
            have := ho i (by simp [hi]) (by rintro rfl; exact hm hi) w hwi
            simpa using this
          rw [this]; rfl
    · have hn : (f j).find? (fun w => w.key == k) = none := by
        rw [List.find?_eq_none]
        intro w hw
        simpa using ho j (by simp) hj w hw
      rw [hn]
      rcases List.mem_cons.1 hl with rfl | hm
      · exact absurd rfl hj
      · simpa using ih hm (fun i hi => ho i (by simp [hi]))

/-! ### Values -/

theorem toNat_zext (y n : Nat) (hn : n ≤ 64) : (zext y n).toNat = y % 2 ^ n := by
  unfold zext
  rw [BitVec.toNat_ofNat]
  exact Nat.mod_eq_of_lt (Nat.lt_of_lt_of_le (Nat.mod_lt _ (Nat.two_pow_pos n)) (Nat.pow_le_pow_right (by omega) hn))

theorem toNat_sext32 (y : Nat) : ((sext y 32).toNat : Int) = (y : Int).bmod (2 ^ 32) % 2 ^ 64 := by
  unfold sext
  have h : y % 2 ^ 32 < 2 ^ 32 := Nat.mod_lt _ (Nat.two_pow_pos 32)
  rw [Int.bmod_def]
  simp only
  have e : (y : Int) % ((2 ^ 32 : Nat) : Int) = ((y % 2 ^ 32 : Nat) : Int) := by omega
  rw [e]
  generalize y % 2 ^ 32 = r at h
  by_cases hr : r < 2 ^ 31
  · rw [if_neg (by decide), if_pos (by omega), BitVec.toNat_ofNat, if_pos (by omega)]; omega
  · rw [if_neg (by decide), if_neg (by omega), BitVec.toNat_ofNat, if_neg (by omega)]; omega

theorem writtenAs_congr {w : Nat} {sg : Bool} {d : Opr} {u v : Int} (h : u % 2 ^ w = v % 2 ^ w) :
    writtenAs w sg d u = writtenAs w sg d v := by
  unfold writtenAs
  split
  · rename_i hc
    have hw : w = 32 := by simp only [Bool.and_eq_true, beq_iff_eq] at hc; exact hc.2
    subst hw
    have : u.bmod (2 ^ 32) = v.bmod (2 ^ 32) := by
      rw [Int.bmod_def, Int.bmod_def]
      have : u % ((2 ^ 32 : Nat) : Int) = v % ((2 ^ 32 : Nat) : Int) := by simpa using h
      rw [this]
    rw [this]
  · exact h

/-! ### Writes of one lane -/

/-- The cells one lane's write at a width sets. -/
theorem putInt_keys {w : Nat} {sg : Bool} {d : Opr} {l y : Nat} {k : Key} :
    (∃ q ∈ putInt w sg d l y, q.key = k) ↔
      match d with
      | .v n => k = .v n.val l ∨ (w = 64 ∧ k = .v (n.val + 1) l)
      | .s n => k = .s n.val := by
  unfold putInt
  cases d with
  | v n =>
    by_cases hw : w = 64
    · simp only [hw, if_true, vPair, List.mem_cons, List.not_mem_nil, or_false, true_and, exists_eq_or_imp, exists_eq_left]
      rw [@eq_comm _ k, @eq_comm _ k]
    · simp only [hw, if_false, List.mem_singleton, exists_eq_left, false_and, or_false]
      exact eq_comm
  | s n =>
    simp only [List.mem_singleton, exists_eq_left]
    exact eq_comm

theorem putInt_other {w : Nat} {sg : Bool} {d : Opr} {l j y : Nat} (hd : d.isS = false) (hj : j ≠ l) :
    ∀ q ∈ putInt w sg d j y, ∀ n, q.key ≠ .v n l := by
  cases d with
  | s n => cases hd
  | v m =>
    intro q hq n he
    have := (putInt_keys (w := w) (sg := sg) (d := .v m) (l := j) (y := y)).1 ⟨q, hq, he⟩
    simp only [Key.v.injEq] at this
    rcases this with ⟨-, h⟩ | ⟨-, -, h⟩ <;> exact hj h.symm

/-- The writes of a word at one width, one per lane. -/
def putLanes (x : Issue) (w : Nat) (sg : Bool) (d : Opr) (y : Nat → Nat) : List RegWrite :=
  (x.dstLanes d).flatMap (fun l => putInt w sg d l (y l))

theorem putLanes_keys {x : Issue} {w : Nat} {sg : Bool} {d : Opr} {y : Nat → Nat} {k : Key} :
    (∃ q ∈ putLanes x w sg d y, q.key = k) ↔ cellsOf w d (x.dstLanes d) k := by
  unfold putLanes cellsOf
  constructor
  · rintro ⟨q, hq, hk⟩
    obtain ⟨l, hl, hql⟩ := List.mem_flatMap.1 hq
    have := putInt_keys.1 ⟨q, hql, hk⟩
    cases d with
    | v n => exact ⟨l, hl, this⟩
    | s n => exact this
  · intro h
    cases d with
    | v n =>
      obtain ⟨l, hl, h⟩ := h
      obtain ⟨q, hq, hk⟩ := (putInt_keys (w := w) (sg := sg) (d := .v n) (l := l) (y := y l)).2 h
      exact ⟨q, List.mem_flatMap.2 ⟨l, hl, hq⟩, hk⟩
    | s n =>
      have h0 : (0 : Nat) ∈ x.dstLanes (.s n) := by simp [Issue.dstLanes, Opr.isS]
      obtain ⟨q, hq, hk⟩ := (putInt_keys (w := w) (sg := sg) (d := .s n) (l := 0) (y := y 0)).2 h
      exact ⟨q, List.mem_flatMap.2 ⟨0, h0, hq⟩, hk⟩

theorem toNat_setLane {y w : Nat} (hw : w ≤ 32) : (zext y w).toNat = y % 2 ^ w := toNat_zext y w (by omega)

/-- What the cells of a destination hold once the writes of its lanes are what reads find. -/
theorem putLanes_dstVal {x : Issue} {w : Nat} {sg : Bool} {d : Opr} {y : Nat → Nat} {g : Group} {now nonce l : Nat}
    (hw : w ≤ 32 ∨ w = 64) (hl : l ∈ x.dstLanes d)
    (hr : ∀ k v, ((putLanes x w sg d y).find? (fun q => q.key == k)).map RegWrite.val = some v → g.read now nonce k = v) :
    (g.dstVal now nonce w d l : Int) = writtenAs w sg d (y l) := by
  unfold Group.dstVal writtenAs
  cases d with
  | v n =>
    have ho : ∀ m, ∀ j ∈ x.dstLanes (.v n), j ≠ l → ∀ q ∈ putInt w sg (.v n) j (y j), q.key ≠ .v m l :=
      fun m j _ hj q hq => putInt_other rfl hj q hq m
    have hf : ∀ m, (putLanes x w sg (.v n) y).find? (fun q => q.key == .v m l) = (putInt w sg (.v n) l (y l)).find? (fun q => q.key == .v m l) :=
      fun m => find_flatMap _ hl (ho m)
    by_cases h64 : w = 64
    · subst h64
      have h1 := hr (.v n.val l) (zext (y l) 32) (by rw [hf]; simp [putInt, vPair])
      have h2 := hr (.v (n.val + 1) l) (zext (y l / 2 ^ 32) 32) (by rw [hf]; simp [putInt, vPair])
      simp only [h1, h2, if_true, Opr.isS, Bool.false_and, Bool.false_eq_true, if_false, toNat_zext _ 32 (by omega)]
      omega
    · have h1 := hr (.v n.val l) (zext (y l) w) (by rw [hf]; simp [putInt, h64])
      simp only [h1, h64, if_false, Opr.isS, Bool.false_and, Bool.false_eq_true, toNat_zext _ w (by omega)]
      push_cast; rfl
  | s n =>
    have h0 : l = 0 := by simpa [Issue.dstLanes, Opr.isS] using hl
    subst h0
    have hf : (putLanes x w sg (.s n) y).find? (fun q => q.key == .s n.val) = (putInt w sg (.s n) 0 (y 0)).find? (fun q => q.key == .s n.val) :=
      find_flatMap _ hl (fun j hj hj0 => absurd (by simpa [Issue.dstLanes, Opr.isS] using hj) hj0)
    by_cases hs : (sg && w == 32) = true
    · have h1 := hr (.s n.val) (sext (y 0) 32) (by rw [hf]; simp [putInt, hs])
      simp only [h1, Opr.isS, Bool.true_and, hs, if_true, toNat_sext32]
    · have h1 := hr (.s n.val) (zext (y 0) w) (by rw [hf]; simp [putInt, hs])
      simp only [h1, Opr.isS, Bool.true_and, hs, toNat_zext _ w (by omega)]
      push_cast; rfl

theorem flight_reads {x : Issue} {g : Group} {lat : Nat} {ws : List RegWrite} {fl : BitVec 6}
    (hread : ∀ now nonce k, g.read now nonce k = (x.grp.launchFlight ⟨x.s.clock + lat, ws, fl, none⟩).read now nonce k)
    {now : Nat} (hn : x.s.clock + lat ≤ now) (nonce : Nat) (k : Key) (v : Word)
    (h : (ws.find? (fun q => q.key == k)).map RegWrite.val = some v) : g.read now nonce k = v := by
  rw [hread]
  exact Group.read_ready _ _ nonce h hn

/-- A fixed-latency result written lane by lane completes (R30, R65, R99). -/
theorem completes_of_perLane {i : Instr} {s : State} {x : Issue} {lat w : Nat} {sg : Bool} {d : Opr} {val : Nat → Int}
    (h : Issues i s x) (body : Issue → Act) (he : exec i s = word i s body) (f : Nat → List RegWrite) (hb : body x = x.perLane lat d f)
    (y : Nat → Nat) (hf : ∀ l ∈ x.dstLanes d, f l = putInt w sg d l (y l)) (hw : w ≤ 32 ∨ w = 64)
    (hv : ∀ l ∈ x.dstLanes d, (y l : Int) % 2 ^ w = val l % 2 ^ w) : Completes i s x lat w sg d 0 val := by
  have hws : (x.dstLanes d).flatMap f = putLanes x w sg d y := by
    unfold putLanes
    rw [List.flatMap_def, List.flatMap_def, List.map_congr_left hf]
  obtain ⟨g, hg, hread, hfl, hfr⟩ := fixed_after h lat (putLanes x w sg d y) 0
  refine ⟨_, g, ?_, hg, fun now nonce l hn hl => ?_, hfl, ?_⟩
  · rw [he, word_done h (hb.trans (by rw [Issue.perLane, hws]))]
  · rw [← writtenAs_congr (hv l hl)]
    exact putLanes_dstVal hw hl (fun k v hk => flight_reads hread hn nonce k v hk)
  · simpa only [putLanes_keys] using hfr

/-- The same with flags (R75). -/
theorem completes_of_perLaneF {i : Instr} {s : State} {x : Issue} {lat w : Nat} {sg : Bool} {d : Opr} {val : Nat → Int}
    (h : Issues i s x) (body : Issue → Act) (he : exec i s = word i s body) (f : Nat → List RegWrite × BitVec 6)
    (hb : body x = x.perLaneF lat d f) (y : Nat → Nat) (hf : ∀ l ∈ x.dstLanes d, (f l).1 = putInt w sg d l (y l)) (hw : w ≤ 32 ∨ w = 64)
    (hv : ∀ l ∈ x.dstLanes d, (y l : Int) % 2 ^ w = val l % 2 ^ w) :
    Completes i s x lat w sg d (orAll ((x.dstLanes d).map (fun l => (f l).2))) val := by
  have hws : (((x.dstLanes d).map f).map Prod.fst).flatten = putLanes x w sg d y := by
    unfold putLanes
    rw [List.flatMap_def, List.map_map, List.map_congr_left (f := Prod.fst ∘ f) hf]
  have hfs : ((x.dstLanes d).map f).map Prod.snd = (x.dstLanes d).map (fun l => (f l).2) := by rw [List.map_map]; rfl
  obtain ⟨g, hg, hread, hfl, hfr⟩ := fixed_after h lat (putLanes x w sg d y) (orAll ((x.dstLanes d).map (fun l => (f l).2)))
  refine ⟨_, g, ?_, hg, fun now nonce l hn hl => ?_, hfl, ?_⟩
  · rw [he, word_done h (hb.trans (by rw [Issue.perLaneF, hws, hfs]))]
  · rw [← writtenAs_congr (hv l hl)]
    exact putLanes_dstVal hw hl (fun k v hk => flight_reads hread hn nonce k v hk)
  · simpa only [putLanes_keys] using hfr

/-- A predicate result (R113). -/
theorem completesP_of_perLaneP {i : Instr} {s : State} {x : Issue} {lat : Nat} {p : BitVec 3}
    (h : Issues i s x) (body : Issue → Act) (he : exec i s = word i s body) (f : Nat → Bool × BitVec 6) (hb : body x = x.perLaneP lat p f) :
    CompletesP i s x lat p (orAll (x.lanesList.map (fun l => (f l).2))) (fun l => (f l).1) := by
  let ws : List RegWrite := x.lanesList.flatMap (fun l => [⟨.p p.toNat l, if (f l).1 then 1 else 0⟩])
  have hws : (x.lanesList.map (fun l => (l, f l))).map (fun r => (⟨.p p.toNat r.1, if r.2.1 then 1 else 0⟩ : RegWrite)) = ws := by
    rw [List.map_map, List.map_eq_flatMap]; rfl
  have hfs : (x.lanesList.map (fun l => (l, f l))).map (fun r => r.2.2) = x.lanesList.map (fun l => (f l).2) := by rw [List.map_map]; rfl
  obtain ⟨g, hg, hread, hfl, hfr⟩ := fixed_after h lat ws (orAll (x.lanesList.map (fun l => (f l).2)))
  have hkeys : ∀ k, (∃ w ∈ ws, w.key = k) ↔ ∃ l ∈ x.lanesList, k = .p p.toNat l := fun k => by
    simp only [ws, List.mem_flatMap, List.mem_singleton]
    constructor
    · rintro ⟨w, ⟨l, hl, rfl⟩, rfl⟩; exact ⟨l, hl, rfl⟩
    · rintro ⟨l, hl, rfl⟩; exact ⟨_, ⟨l, hl, rfl⟩, rfl⟩
  refine ⟨_, g, ?_, hg, fun now nonce l hn hl => ?_, hfl, ?_⟩
  · rw [he, word_done h (hb.trans rfl), hws, hfs]
  · have hq := find_flatMap (k := .p p.toNat l) (fun l => [(⟨.p p.toNat l, if (f l).1 then 1 else 0⟩ : RegWrite)]) hl (by
      intro j _ hj w hw
      simp only [List.mem_singleton] at hw
      subst hw
      simp only [ne_eq, Key.p.injEq, true_and]
      exact hj)
    rw [flight_reads hread hn nonce (.p p.toNat l) (if (f l).1 then 1 else 0) (by
      rw [show ws = x.lanesList.flatMap (fun l => [(⟨.p p.toNat l, if (f l).1 then 1 else 0⟩ : RegWrite)]) from rfl, hq]; simp)]
    change _ = (f l).1
    cases (f l).1 <;> decide
  · simpa only [hkeys] using hfr

/-- A result of variable latency, lane by lane (R32). -/
theorem pends_of_perLaneV {i : Instr} {s : State} {x : Issue} {lat w cnt : Nat} {sg : Bool} {d : Opr} {val : Nat → Int}
    (h : Issues i s x) (body : Issue → Act) (he : exec i s = word i s body) (f : Nat → List RegWrite × BitVec 6)
    (hb : body x = x.perLaneV lat d cnt f) (hc : d.ref cnt = d.ref (if w = 64 then 2 else 1))
    (hf : ∀ l ∈ x.dstLanes d, (f l).1 = putInt w sg d l (wrap w (val l))) :
    Pends i s x lat w sg d (orAll ((x.dstLanes d).map (fun l => (f l).2))) val := by
  have hws : (((x.dstLanes d).map f).map Prod.fst).flatten = (x.dstLanes d).flatMap (fun l => putInt w sg d l (wrap w (val l))) := by
    rw [List.flatMap_def, List.map_map, List.map_congr_left (f := Prod.fst ∘ f) hf]
  have hfs : ((x.dstLanes d).map f).map Prod.snd = (x.dstLanes d).map (fun l => (f l).2) := by rw [List.map_map]; rfl
  obtain ⟨t, g, ht, hid, hg, hp, hfl, hfr⟩ := variable_after h (pendRegs x.lanes (d.ref cnt)) (((x.dstLanes d).map f).map Prod.fst).flatten
    (orAll (((x.dstLanes d).map f).map Prod.snd)) 0 (x.s.clock + lat) false
  refine ⟨t, g, ?_, hid, hg, ?_, hfl, hfr⟩
  · rw [← ht, he, word_done h (hb.trans rfl)]
  · rw [hp, hws, hfs, hc]

end Sys2Proof.Machine
end

