-- ==== Sys2Proof/Laws/Memory.lean ====
section
/-! SUPPORT. The laws of memory: every operation on it keeps its canonical form, a byte written reads back, and no other byte of
its line or of another changes. -/

namespace Sys2Proof.Machine

/-! ### The canonical form -/

@[simp] theorem State.crossLine_length (s : State) (slot line : Nat) : (s.crossLine slot line).length = 64 := by simp [State.crossLine]

theorem State.MemOk.congr {s t : State} (h : s.MemOk) (h1 : t.mem = s.mem) (h2 : t.hostMem = s.hostMem) (h3 : t.slotOf = s.slotOf)
    (h4 : t.poisoned = s.poisoned) : t.MemOk := ⟨h1 ▸ h.mem, h2 ▸ h.hostMem, h3 ▸ h.slotOf, h4 ▸ h.poisoned⟩

theorem State.MemOk.set {s : State} (h : s.MemOk) {m : Memory} {k : Cells Nat} (hm : Memory.wf m = true) (hk : Cells.wf 0 k = true) :
    State.MemOk { s with mem := m, slotOf := k } := ⟨hm, h.hostMem, hk, h.poisoned⟩

theorem State.rekeyLine_memOk {s : State} (h : s.MemOk) (slot line : Nat) : (s.rekeyLine slot line).MemOk := by
  unfold State.rekeyLine
  split
  · exact h
  · exact h.set (Cells.wf_splice _ h.mem _ _) (Cells.wf_set _ h.slotOf _ _)

theorem State.healByte_memOk {s : State} (h : s.MemOk) (pa : Nat) : (s.healByte pa).MemOk :=
  ⟨h.mem, h.hostMem, h.slotOf, Cells.wf_set _ h.poisoned _ _⟩

/-- A fold of steps that each keep a property keeps it. -/
theorem foldl_keeps {α β : Type} {P : α → Prop} (f : α → β → α) (hf : ∀ a b, P a → P (f a b)) (xs : List β) {a : α} (h : P a) :
    P (xs.foldl f a) := by
  induction xs generalizing a with
  | nil => exact h
  | cons x xs ih => exact ih (hf a x h)

theorem State.prepare_memOk {s : State} (h : s.MemOk) (slot pa n : Nat) : (s.prepare slot pa n).MemOk := by
  have h1 := foldl_keeps (P := State.MemOk) (fun (s : State) j => s.rekeyLine slot (pa / 64 + j))
    (fun _ _ h => State.rekeyLine_memOk h _ _) (List.range ((pa + n - 1) / 64 + 1 - pa / 64)) h
  unfold State.prepare
  dsimp only
  split
  · exact h1
  · exact foldl_keeps (P := State.MemOk) (fun (s : State) j => s.healByte (pa + j)) (fun _ _ h => State.healByte_memOk h _) _ h1

theorem State.writePhys_memOk {s : State} (h : s.MemOk) (slot pa : Nat) (bs : List Byte) : (s.writePhys slot pa bs).MemOk := by
  unfold State.writePhys
  split
  · exact h
  · have h' := State.prepare_memOk h slot pa bs.length
    exact ⟨Cells.wf_splice _ h'.mem _ _, h'.hostMem, h'.slotOf, h'.poisoned⟩

theorem hostWrite_wf {m : Memory} (h : Memory.wf m = true) (a : Nat) (bs : List Byte) : Memory.wf (hostWrite m a bs) = true := by
  induction bs generalizing m a with
  | nil => exact h
  | cons b bs ih => exact ih (Cells.wf_set _ h _ _) (a + 1)

/-- The machine after reset has its memory in canonical form. -/
theorem State.reset_memOk : State.reset.MemOk := ⟨rfl, rfl, rfl, rfl⟩

/-! ### Reads after writes -/

@[simp] theorem State.rekeyLine_slotOf_line {s : State} (h : s.MemOk) (slot line : Nat) :
    Cells.get 0 (s.rekeyLine slot line).slotOf line = slot := by
  unfold State.rekeyLine
  split
  · assumption
  · exact Cells.get_set_same 0 h.slotOf _ _

theorem State.rekeyLine_slotOf_ne {s : State} (h : s.MemOk) (slot : Nat) {line k : Nat} (hk : line ≠ k) :
    Cells.get 0 (s.rekeyLine slot line).slotOf k = Cells.get 0 s.slotOf k := by
  unfold State.rekeyLine
  split
  · rfl
  · exact Cells.get_set_ne 0 h.slotOf hk _

@[simp] theorem State.healByte_mem (s : State) (pa : Nat) : (s.healByte pa).mem = s.mem := rfl

@[simp] theorem State.healByte_slotOf (s : State) (pa : Nat) : (s.healByte pa).slotOf = s.slotOf := rfl

@[simp] theorem State.healByte_sec (s : State) (pa : Nat) : (s.healByte pa).sec = s.sec := rfl

@[simp] theorem State.rekeyLine_sec (s : State) (slot line : Nat) : (s.rekeyLine slot line).sec = s.sec := by
  unfold State.rekeyLine; split <;> rfl

/-- R376: a byte outside the line does not change when a line takes another slot. -/
theorem State.rekeyLine_mem_ne {s : State} (h : s.MemOk) (slot line : Nat) {a : Nat} (ha : a / 64 ≠ line) :
    Cells.get Memory.unlisted (s.rekeyLine slot line).mem a = Cells.get Memory.unlisted s.mem a := by
  unfold State.rekeyLine
  split
  · rfl
  · dsimp only; rw [Cells.get_splice _ h.mem, if_neg (by rw [State.crossLine_length]; omega)]

/-- What making lines ready leaves of a byte's line: its slot, and its byte where the line is stored under the slot already or is
none of them. -/
theorem State.rekeyLines {s : State} (h : s.MemOk) (slot l : Nat) (n : Nat) :
    let t := (List.range n).foldl (fun (s : State) j => s.rekeyLine slot (l + j)) s
    t.MemOk ∧ t.sec = s.sec ∧
      (∀ k, Cells.get 0 t.slotOf k = if l ≤ k ∧ k < l + n then slot else Cells.get 0 s.slotOf k) ∧
      ∀ a, (a / 64 < l ∨ l + n ≤ a / 64 ∨ Cells.get 0 s.slotOf (a / 64) = slot) →
        Cells.get Memory.unlisted t.mem a = Cells.get Memory.unlisted s.mem a := by
  induction n with
  | zero => exact ⟨h, rfl, fun k => by rw [if_neg (by omega)]; rfl, fun _ _ => rfl⟩
  | succ n ih =>
    obtain ⟨h1, h2, h3, h4⟩ := ih
    simp only [List.range_succ, List.foldl_append, List.foldl_cons, List.foldl_nil]
    generalize (List.range n).foldl (fun (s : State) j => s.rekeyLine slot (l + j)) s = t at h1 h2 h3 h4
    refine ⟨State.rekeyLine_memOk h1 _ _, by simp [h2], fun k => ?_, fun a ha => ?_⟩
    · by_cases hk : l + n = k
      · subst hk; rw [State.rekeyLine_slotOf_line h1, if_pos (by omega)]
      · rw [State.rekeyLine_slotOf_ne h1 slot hk, h3]
        by_cases hc : l ≤ k ∧ k < l + n
        · rw [if_pos hc, if_pos (by omega)]
        · rw [if_neg hc, if_neg (by omega)]
    · by_cases hk : a / 64 = l + n
      · have hs : Cells.get 0 t.slotOf (l + n) = slot := by
          rw [h3, if_neg (by omega), ← hk]; omega
        unfold State.rekeyLine
        rw [if_pos (show t.lineSlot (l + n) = slot from hs)]
        exact h4 a (by omega)
      · rw [State.rekeyLine_mem_ne h1 slot _ hk]
        exact h4 a (by omega)

theorem State.healBytes {α : Type} (xs : List α) (f : α → Nat) (s : State) :
    let t := xs.foldl (fun (s : State) j => s.healByte (f j)) s
    t.mem = s.mem ∧ t.slotOf = s.slotOf ∧ t.sec = s.sec :=
  foldl_keeps (P := fun t : State => t.mem = s.mem ∧ t.slotOf = s.slotOf ∧ t.sec = s.sec) (fun (s : State) j => s.healByte (f j))
    (fun _ _ h => h) xs ⟨rfl, rfl, rfl⟩

/-- The lines a range of n ≥ 1 bytes covers. -/
abbrev inLines (pa n a : Nat) : Prop := pa / 64 ≤ a / 64 ∧ a / 64 ≤ (pa + n - 1) / 64

theorem State.prepare_spec {s : State} (h : s.MemOk) (slot pa : Nat) {n : Nat} (hn : 0 < n) :
    (s.prepare slot pa n).sec = s.sec ∧
      (∀ a, Cells.get 0 (s.prepare slot pa n).slotOf (a / 64) = if inLines pa n a then slot else Cells.get 0 s.slotOf (a / 64)) ∧
      ∀ a, (¬ inLines pa n a ∨ Cells.get 0 s.slotOf (a / 64) = slot) →
        Cells.get Memory.unlisted (s.prepare slot pa n).mem a = Cells.get Memory.unlisted s.mem a := by
  obtain ⟨-, h2, h3, h4⟩ := State.rekeyLines h slot (pa / 64) ((pa + n - 1) / 64 + 1 - pa / 64)
  have h5 : (s.prepare slot pa n).mem = ((List.range ((pa + n - 1) / 64 + 1 - pa / 64)).foldl (fun (s : State) j => s.rekeyLine slot (pa / 64 + j)) s).mem ∧
      (s.prepare slot pa n).slotOf = ((List.range ((pa + n - 1) / 64 + 1 - pa / 64)).foldl (fun (s : State) j => s.rekeyLine slot (pa / 64 + j)) s).slotOf ∧
      (s.prepare slot pa n).sec = ((List.range ((pa + n - 1) / 64 + 1 - pa / 64)).foldl (fun (s : State) j => s.rekeyLine slot (pa / 64 + j)) s).sec := by
    unfold State.prepare
    dsimp only
    split
    · exact ⟨rfl, rfl, rfl⟩
    · exact State.healBytes _ _ _
  have hl : pa / 64 ≤ (pa + n - 1) / 64 := Nat.div_le_div_right (by omega)
  refine ⟨h5.2.2.trans h2, fun a => ?_, fun a ha => ?_⟩
  · rw [h5.2.1, h3]
    by_cases hc : inLines pa n a
    · rw [if_pos hc, if_pos (by unfold inLines at hc; omega)]
    · rw [if_neg hc, if_neg (by unfold inLines at hc; omega)]
  · rw [h5.1]
    exact h4 a (by unfold inLines at ha; omega)

/-- Bytes of a line of memory, each from its cell. -/
theorem slice_line_congr {m m' : Memory} (h : Memory.wf m = true) (h' : Memory.wf m' = true) (line : Nat)
    (he : ∀ a, a / 64 = line → Cells.get Memory.unlisted m a = Cells.get Memory.unlisted m' a) :
    Cells.slice Memory.unlisted m (64 * line) 64 = Cells.slice Memory.unlisted m' (64 * line) 64 := by
  rw [Cells.slice_eq _ h, Cells.slice_eq _ h']
  refine List.map_congr_left fun j hj => he _ ?_
  simp only [List.mem_range] at hj
  omega

/-- A byte reads the same in two states that agree on its line: the slot it is stored under, its bytes, and the key slots. -/
theorem State.byteAt_line {s t : State} (hs : s.MemOk) (ht : t.MemOk) (a : Nat) (hsec : t.sec = s.sec)
    (hslot : Cells.get 0 t.slotOf (a / 64) = Cells.get 0 s.slotOf (a / 64))
    (hmem : ∀ b, b / 64 = a / 64 → Cells.get Memory.unlisted t.mem b = Cells.get Memory.unlisted s.mem b) (k : Nat) :
    t.byteAt k a = s.byteAt k a := by
  have hk (j : Nat) : t.slotKey j = s.slotKey j := by unfold State.slotKey; rw [hsec]
  unfold State.byteAt State.crossLine State.lineSlot
  rw [hslot, hmem a rfl, slice_line_congr ht.mem hs.mem (a / 64) hmem, hk, hk]

/-- A byte written under a slot reads back under it. -/
theorem State.byteAt_writePhys_same {s : State} (h : s.MemOk) (slot pa : Nat) (bs : List Byte) {a : Nat} (h1 : pa ≤ a)
    (h2 : a < pa + bs.length) : (s.writePhys slot pa bs).byteAt slot a = bs.getD (a - pa) 0 := by
  have hn : 0 < bs.length := by omega
  obtain ⟨-, h4, -⟩ := State.prepare_spec h slot pa hn
  have h' := State.prepare_memOk h slot pa bs.length
  have he : bs.isEmpty = false := by cases bs <;> simp_all
  have hin : inLines pa bs.length a := ⟨Nat.div_le_div_right h1, Nat.div_le_div_right (by omega)⟩
  unfold State.byteAt State.writePhys State.lineSlot
  simp only [he, Bool.false_eq_true, if_false]
  rw [h4, if_pos hin, if_pos rfl, Cells.get_splice _ h'.mem, if_pos ⟨h1, h2⟩]

/-- R376: a write changes no byte it does not cover, in a line it does not touch, or in one that is stored under its slot and read
under it. -/
theorem State.byteAt_writePhys_ne {s : State} (h : s.MemOk) (slot pa : Nat) (bs : List Byte) {a : Nat} (h1 : a < pa ∨ pa + bs.length ≤ a)
    (k : Nat) (h2 : ¬ inLines pa bs.length a ∨ (Cells.get 0 s.slotOf (a / 64) = slot ∧ k = slot)) :
    (s.writePhys slot pa bs).byteAt k a = s.byteAt k a := by
  cases hb : bs with
  | nil => rfl
  | cons b bs' =>
    rw [← hb]
    have hn : 0 < bs.length := by simp [hb]
    obtain ⟨h3, h4, h5⟩ := State.prepare_spec h slot pa hn
    have h' := State.prepare_memOk h slot pa bs.length
    have he : bs.isEmpty = false := by simp [hb]
    have hw : s.writePhys slot pa bs =
        { s.prepare slot pa bs.length with mem := Cells.splice Memory.unlisted (s.prepare slot pa bs.length).mem pa bs } := by
      unfold State.writePhys; simp only [he, Bool.false_eq_true, if_false]
    by_cases hin : inLines pa bs.length a
    · obtain ⟨hs, rfl⟩ := h2.resolve_left (fun hc => hc hin)
      rw [hw]
      unfold State.byteAt State.lineSlot
      dsimp only
      rw [h4, if_pos hin, if_pos rfl, if_pos hs, Cells.get_splice _ h'.mem, if_neg (by omega), h5 a (.inr hs)]
    · refine State.byteAt_line h (State.writePhys_memOk h _ _ _) a ?_ ?_ ?_ k
      · rw [hw]; exact h3
      · rw [hw]; dsimp only; rw [h4, if_neg hin]
      · intro c hc
        have hout : ¬ inLines pa bs.length c := by rw [inLines, hc]; exact hin
        have hcov : ¬ (pa ≤ c ∧ c < pa + bs.length) := fun ⟨u, v⟩ =>
          hout ⟨Nat.div_le_div_right u, Nat.div_le_div_right (by omega)⟩
        rw [hw]; dsimp only
        rw [Cells.get_splice _ h'.mem, if_neg hcov, h5 c (.inl hout)]

/-- A read of many bytes is the reads of each. -/
theorem State.readPhys_eq {s : State} (h : s.MemOk) (slot pa n : Nat) :
    s.readPhys slot pa n = (List.range n).map (fun j => s.byteAt slot (pa + j)) := by
  unfold State.readPhys
  rw [Cells.slice_eq _ h.mem]
  apply List.ext_getElem (by simp)
  intro j h1 h2
  simp only [List.getElem_map, List.getElem_zipIdx, List.getElem_range, Nat.zero_add]
  split
  · rename_i hs; rw [State.byteAt, if_pos hs]
  · rfl

/-- What is written reads back. -/
theorem State.readPhys_writePhys {s : State} (h : s.MemOk) (slot pa : Nat) (bs : List Byte) :
    (s.writePhys slot pa bs).readPhys slot pa bs.length = bs := by
  rw [State.readPhys_eq (State.writePhys_memOk h slot pa bs)]
  refine List.ext_getElem (by simp) (fun j h1 h2 => ?_)
  rw [List.getElem_map, List.getElem_range, State.byteAt_writePhys_same h slot pa bs (by omega) (by omega), List.getD_eq_getElem?_getD,
    Nat.add_sub_cancel_left, List.getElem?_eq_getElem h2]
  rfl

/-- A write changes memory, the slots of its lines and what is bad in them only, and it makes nothing bad. -/
theorem State.writePhys_frame (s : State) (slot pa : Nat) (bs : List Byte) :
    { s.writePhys slot pa bs with mem := s.mem, slotOf := s.slotOf, poisoned := s.poisoned } = s ∧ (s.poisoned = [] → (s.writePhys slot pa bs).poisoned = []) := by
  unfold State.writePhys State.prepare
  split
  · exact ⟨rfl, id⟩
  · obtain ⟨h1, h2⟩ := foldl_keeps (P := fun t : State => { t with mem := s.mem, slotOf := s.slotOf, poisoned := s.poisoned } = s ∧ t.poisoned = s.poisoned)
      (fun (s : State) j => s.rekeyLine slot (pa / 64 + j)) (fun t b h => by unfold State.rekeyLine; split <;> exact h)
      (List.range ((pa + bs.length - 1) / 64 + 1 - pa / 64)) ⟨rfl, rfl⟩
    dsimp only
    split
    · exact ⟨h1, fun h => h2.trans h⟩
    · rename_i hp
      refine ⟨?_, fun h => absurd (by rw [h2, h]; rfl) hp⟩
      exact foldl_keeps (P := fun t : State => { t with mem := s.mem, slotOf := s.slotOf, poisoned := s.poisoned } = s)
        (fun (s : State) j => s.healByte (pa + j)) (fun t b h => by simpa [State.healByte] using h) _ h1

/-- Host memory: a byte that the write does not cover. -/
theorem hostWrite_get_ne {m : Memory} (h : Memory.wf m = true) (a : Nat) (bs : List Byte) (x : Nat) (hx : x < a ∨ a + bs.length ≤ x) :
    Cells.get Memory.unlisted (hostWrite m a bs) x = Cells.get Memory.unlisted m x := by
  induction bs generalizing m a with
  | nil => rfl
  | cons b bs ih =>
    simp only [List.length_cons] at hx
    rw [hostWrite, ih (Cells.wf_set _ h _ _) (a + 1) (by omega), Cells.get_set_ne _ h (by omega)]

/-- Host memory: a byte that the write covers. -/
theorem hostWrite_get {m : Memory} (h : Memory.wf m = true) (a : Nat) (bs : List Byte) (j : Nat) (hj : j < bs.length) :
    Cells.get Memory.unlisted (hostWrite m a bs) (a + j) = bs[j] := by
  induction bs generalizing m a j with
  | nil => simp at hj
  | cons b bs ih =>
    rw [hostWrite]
    cases j with
    | zero =>
      rw [hostWrite_get_ne (Cells.wf_set _ h _ _) _ _ _ (by omega)]
      exact Cells.get_set_same _ h _ _
    | succ j =>
      have := ih (Cells.wf_set Memory.unlisted h a b) (a + 1) j (by simpa using hj)
      rw [show a + (j + 1) = a + 1 + j by omega, this]; rfl

end Sys2Proof.Machine
end

