-- ==== Sys2Proof/Laws/Operands.lean ====
section
/-! SUPPORT. Operand values: what Opnd gives lies in its width, and the model's arithmetic on naturals is the arithmetic of patterns
and of integers (R99). -/

namespace Sys2Proof.Machine

theorem ITy.width_cases (ty : ITy) : ty.width = 16 ∨ ty.width = 32 ∨ ty.width = 64 := by cases ty <;> decide

theorem ITy.width_ok (ty : ITy) : ty.width ≤ 32 ∨ ty.width = 64 := by cases ty <;> decide

theorem ITy.width_pos (ty : ITy) : 0 < ty.width := by cases ty <;> decide

theorem Issue.vreg_lt (x : Issue) (n l : Nat) : x.vreg n l < 2 ^ 32 := Nat.mod_lt _ (Nat.two_pow_pos 32)

theorem Issue.opnd_lt (x : Issue) (w : Nat) (o : Opr) (l : Nat) : x.opnd w o l < 2 ^ w := by
  unfold Issue.opnd
  cases o with
  | v n =>
    simp only
    split
    · rename_i h; subst h
      have h1 := x.vreg_lt n.val l
      have h2 := x.vreg_lt (n.val + 1) l
      omega
    · exact Nat.mod_lt _ (Nat.two_pow_pos w)
  | s n => exact Nat.mod_lt _ (Nat.two_pow_pos w)

theorem Issue.asrc_lt (x : Issue) (w : Nat) (a : ASrc) (l : Nat) : x.asrc w a l < 2 ^ w := by
  cases a with
  | reg o => exact x.opnd_lt w o l
  | acc f => exact Nat.mod_lt _ (Nat.two_pow_pos w)

theorem Issue.pat_toNat (x : Issue) (w : Nat) (o : Opr) (l : Nat) : (x.pat w o l).toNat = x.opnd w o l := by
  unfold Issue.pat; rw [BitVec.toNat_ofNat, Nat.mod_eq_of_lt (x.opnd_lt w o l)]

theorem Issue.patA_toNat (x : Issue) (w : Nat) (a : ASrc) (l : Nat) : (x.patA w a l).toNat = x.asrc w a l := by
  unfold Issue.patA; rw [BitVec.toNat_ofNat, Nat.mod_eq_of_lt (x.asrc_lt w a l)]

theorem sInt_eq (w a : Nat) (hw : 0 < w) : sInt w a = (BitVec.ofNat w a).toInt := by
  unfold sInt
  have e : (2 : Nat) ^ w = 2 * 2 ^ (w - 1) := by rw [← Nat.pow_succ']; congr 1; omega
  rw [BitVec.toInt_eq_toNat_cond, BitVec.toNat_ofNat]
  simp only
  by_cases h : a % 2 ^ w < 2 ^ (w - 1)
  · rw [if_pos h, if_pos (by omega)]; rfl
  · rw [if_neg h, if_neg (by omega)]; rfl

theorem asInt_eq (ty : ITy) (a : Nat) : asInt ty a = ITy.num ty (BitVec.ofNat ty.width a) := by
  unfold asInt ITy.num
  split
  · exact sInt_eq _ _ (ITy.width_pos ty)
  · rw [BitVec.toNat_ofNat]

theorem asInt_opnd (ty : ITy) (x : Issue) (o : Opr) (l : Nat) : asInt ty (x.opnd ty.width o l) = ITy.num ty (x.pat ty.width o l) :=
  asInt_eq _ _

theorem wrap_eq (w : Nat) (v : Int) : ((wrap w v : Nat) : Int) = v % 2 ^ w := by
  unfold wrap
  have h : (0 : Int) < ((2 ^ w : Nat) : Int) := by exact_mod_cast Nat.two_pow_pos w
  rw [Int.toNat_of_nonneg (Int.emod_nonneg _ (by omega))]
  push_cast; rfl

theorem wrap_emod (w : Nat) (v : Int) : ((wrap w v : Nat) : Int) % 2 ^ w = v % 2 ^ w := by
  rw [wrap_eq, Int.emod_emod_of_dvd _ (Int.dvd_refl _)]

theorem num_emod (ty : ITy) (a : BitVec ty.width) : ITy.num ty a % 2 ^ ty.width = (a.toNat : Int) % 2 ^ ty.width := by
  unfold ITy.num
  split
  · rw [BitVec.toInt_eq_toNat_bmod]
    have := Int.bmod_emod (x := (a.toNat : Int)) (m := 2 ^ ty.width)
    simpa using this
  · rfl

end Sys2Proof.Machine
end

