-- ==== Sys2Proof/Tests/Slice0.lean ====
section
/-! SUPPORT. Checks of the model: words that the spec writes out, read by the decoder; ill-formed terms that the well-formedness check
refuses; the spec's worked results; and, for each statement, states and operands that meet its hypotheses. -/

namespace Sys2Proof.Tests

open Sys2Proof Sys2Proof.Machine
open Host (Outcome)

/-! ### Decoding: each word stands beside its assembly in a listing of the spec -/

/-- A header with a STALL and plain guards. -/
def hd (k : BitVec 4) : Hdr := ⟨k, 0, ⟨false, 0⟩, ⟨false, 0⟩⟩

/-- A header with one guard. -/
def hg (neg : Bool) (p : BitVec 3) (k : BitVec 4) : Hdr := ⟨k, 0, ⟨neg, p⟩, ⟨false, 0⟩⟩

/-- A header with a cache hint. -/
def hc (ch : BitVec 2) : Hdr := ⟨0, ch, ⟨false, 0⟩, ⟨false, 0⟩⟩

/-- The decoder reads the word as the instruction, and the encoder gives the word. -/
def reads (w : Word) (i : Instr) : Bool := (decode w).toOption == some i && encode i == some w

-- (p2 & !p3) iadd.i32 v5, v1, s3 ~4; iadd.z32 v12, a3.row5.q0, v12 ~8
theorem test_decode_iadd : reads 0x2056028280E18000 (.iadd ⟨4, 0, ⟨false, 2⟩, ⟨true, 3⟩⟩ (.v 5) (.reg (.v 1)) (.s 3) .i32) &&
    reads 0x4000028601860A68 (.iadd (hd 8) (.v 12) (.acc ⟨3, 5, 0⟩) (.v 12) .z32) = true := by decide
-- movi v3, -5; movh s9, 0xBEEF, 2; sel.n32 v2, v8, s1, !p4 ~4
theorem test_decode_moves : reads 0x00000101807FFFFB (.movi (hd 0) (.v 3) (-5)) && reads 0x000001E48040BEEF (.movh (hd 0) (.s 9) 2 0xBEEF) &&
    reads 0x2000020104608209 (.sel (hd 4) 2 (.v 8) (.s 1) 4 true .n32) = true := by decide
-- imad.n32 v6, v2, v3, v4 ~4; imul.i32 v2, v1, v1; sar.i64 v10, v10, s4 ~4; bfe.i32 v7, v1, s5 ~4; icmp.lt.i32 p3, v5, s2 ~4
theorem test_decode_integer : reads 0x2000048301018208 (.imad (hd 4) (.v 6) (.v 2) (.v 3) (.v 4) .n32) &&
    reads 0x0000038100808000 (.imul (hd 0) (.v 2) (.v 1) (.v 1) .i32) && reads 0x20000C0505620010 (.sar (hd 4) (.v 10) (.v 10) (.s 4) .i64) &&
    reads 0x20000D0380E28000 (.bfe (hd 4) (.v 7) (.v 1) (.s 5) .i32) && reads 0x20000F8182E10002 (.icmp (hd 4) 3 (.v 5) (.s 2) .lt .i32) = true := by decide
-- fmul.f32.rtz v2, v3, v4 ~5; fadd.f32 v8, a5.row12.q0, v3; (p1) ffma.f32.rne v4, v1, v2, v3 ~5
theorem test_decode_float : reads 0x2800410101820002 (.fmul (hd 5) (.v 2) (.reg (.v 3)) (.v 4) .f32 .rtz) &&
    reads 0x0000400402819840 (.fadd (hd 0) (.v 8) (.acc ⟨5, 12, 0⟩) (.v 3) .f32 .dyn) &&
    reads 0x2820418200810181 (.ffma (hg false 1 5) (.v 4) (.reg (.v 1) (.v 3)) (.v 2) .f32 .rne) = true := by decide
-- cvt.i32.f32.rna v9, v8 ~5; bfpk.f32.rne v20, v0, 4, s12
theorem test_decode_conversion : reads 0x28004A0484001805 (.cvt (hd 5) (.v 9) (.reg (.v 8) .f32 .i32) .rna) &&
    reads 0x00004A8A0001E601 (.bfpk (hd 0) 20 0 3 12 .f32 .rne) = true := by decide
-- iadd v4, v9 || fmul v6, v11 ~2; (p1) mov v4, v8 || (!p2) movi v5, 3 ~1
theorem test_decode_paired : reads 0xA0C1024012060B00 (.pairedIadd 2 ⟨.v 4, .v 9, 0, false, 0⟩ ⟨.fmul, ⟨.v 6, .v 11, 0, false, 0⟩⟩) &&
    reads 0x9041020802050053 (.pairedMov 1 ⟨.v 4, .v 8, 1, false, 0⟩ ⟨.movi, ⟨.v 5, .v 0, 2, true, 3⟩⟩) = true := by decide
-- prm.xor v6, v5, s3 ~6; lred.fadd.rne s4, v7 ~6
theorem test_decode_lanes : reads 0x3000880302E18010 (.prm (hd 6) 6 5 (.s 3) .xor false) &&
    reads 0x3000896203800059 (.lred (hd 6) 4 7 .fadd .rne) = true := by decide
-- (p1) bra skip, rc=join; jmp s7; (p2) call fn, rc=after; ret; regang.m s5; exit
theorem test_decode_control : reads 0x0020800000018007 (.bra (hg false 1 0) 3 7) && reads 0x0000808063800000 (.jmp (hd 0) (.s 7)) &&
    reads 0x00408100003F8001 (.call (hg false 2 0) 0x7F 1) && reads 0x0000818000000000 (.ret (hd 0)) &&
    reads 0x0000820062800001 (.regang (hd 0) (some 5)) && reads 0x0000828000000000 (.exit (hd 0)) = true := by decide
-- bkset.i32 b0, s2, s3, 20, 1; inv.bis.i32 v1, v2, v3, b0, 1; bkget.status v9, b0
theorem test_decode_invert : reads 0x0000838061618A03 (.bkset (hd 0) 0 (.s 2) (.s 3) 20 1 true) &&
    reads 0x0000830081018408 (.inv (hd 0) 1 2 (.v 3) 1 0 .bis false true) && reads 0x0000840480000005 (.bkget (hd 0) (.v 9) 0 5) = true := by decide
-- ld.b32 v7, [s4 + v2*4 + 16]; the same with .keep; st.b64.stream [s6 + v4*8 - 8], v10; lda.b32 v3, [s2]; str.b32 [s2], v3
theorem test_decode_memory : reads 0x0000C003E2014C04 (.ld (hd 0) (.v 7) ⟨4, some (2, 2)⟩ .b32 4) &&
    reads 0x0400C003E2014C04 (.ld (hc 2) (.v 7) ⟨4, some (2, 2)⟩ .b32 4) && reads 0x0200C08563025FFF (.st (hc 1) (.v 10) ⟨6, some (4, 3)⟩ .b64 (-1)) &&
    reads 0x00010081E1004000 (.lda (hd 0) (.v 3) ⟨2, none⟩ .b32 0) && reads 0x00010101E1004000 (.str (hd 0) (.v 3) ⟨2, none⟩ .b32 0) = true := by decide
-- ldl.b64 v2, [s3 + 8]; lds.span.b32 v5, [s9 + v1*4 + 8]; bred.fadd.b32 [s4 + v2*4], v6
theorem test_decode_lane_memory : reads 0x0000C10161805001 (.ldl (hd 0) (.v 2) ⟨3, none⟩ .b64 1) &&
    reads 0x0000C202E480CD02 (.lds (hd 0) (.v 5) ⟨9, some (1, 2)⟩ .b32 .span 2) &&
    reads 0x0000C40362014D40 (.bred (hd 0) (.v 6) ⟨4, some (2, 2)⟩ .b32 .fadd 0) = true := by decide
-- qinit s7, s8; qenq.b64 [s7], v4, p2; atom.add.qnt.b32 v8, [s5 + v1*4]
theorem test_decode_queues : reads 0x0000C50063E40000 (.qinit (hd 0) 7 8) && reads 0x0000C58263805040 (.qenq (hd 0) (.v 4) ⟨7, none⟩ .b64 false 2 0) &&
    reads 0x000100046280CC4C (.atom (hd 0) 8 ⟨5, some (1, 2)⟩ .b32 .add .qnt) = true := by decide
-- bar.init nb2, s3; bar.arrive s10, nb2; bar.drop nb2; tlwait tl1, s4; yield.tl tl1, s4, ready
theorem test_decode_sync : reads 0x0001040061800100 (.barInit (hd 0) 3 2 false) && reads 0x000104E500000101 (.barArrive (hd 0) (some 10) 2) &&
    reads 0x0001060000000100 (.barDrop (hd 0) none 2) && reads 0x0001080062000080 (.tlwait (hd 0) 4 1) &&
    reads 0x0001090003E22200 (.yield (hd 0) 7 4 (.tl 1)) = true := by decide
-- gang s6; mma.bfp.rne a3, s4, s5, 8, 4; acczero a5; accld a2, s9; acccvt.bfp.sr s7, a8, 4
theorem test_decode_matrix : reads 0x0001400063000000 (.gang (hd 0) 6) && reads 0x00014081E2628F84 (.mma (hd 0) 3 4 5 (.bfp 7 3 .rne)) &&
    reads 0x0001410280000000 (.acczero (hd 0) 5) && reads 0x0001418164800000 (.accld (hd 0) 2 9) &&
    reads 0x0001428463800199 (.acccvt (hd 0) 8 7 (.bfp 3) .sr) = true := by decide
-- scfg.aff.exp2 s4, s5, 16; srun; scin; scout; sfix
theorem test_decode_scan : reads 0x0001440062628804 (.scfg (hd 0) 4 5 16 (.aff .exp2)) && reads 0x0001448000000000 (.srun (hd 0)) &&
    reads 0x0001450000000000 (.scin (hd 0)) && reads 0x0001458000000000 (.scout (hd 0)) && reads 0x0001460000000000 (.sfix (hd 0)) = true := by decide
-- cpy.g2s.bar s4, s5, s6, nb3; shmul.z16 v6, v2, v3, 1; shtrunc.z32 v8, v4, 2, 12; send.64 s10, s11
theorem test_decode_copy_and_shares : reads 0x0001806262E30182 (.cpy (hd 0) 4 5 6 false (some 3)) &&
    reads 0x0001840301018080 (.shmul (hd 0) 6 2 3 1 .z16) && reads 0x0001848402000131 (.shtrunc (hd 0) 8 4 2 12 .z32) &&
    reads 0x0001880065658003 (.send (hd 0) 10 11 .l64) = true := by decide
-- trap 0x2A; rdsr s5, flags; wrsr mode, s6; lnch s3, s2
theorem test_decode_system : reads 0x0001C0000000002A (.trap (hd 0) 0x2A) && reads 0x0001C1E280000080 (.rdsr (hd 0) (.s 5) .flags) &&
    reads 0x0001C20063000000 (.wrsr (hd 0) 6 .mode) && reads 0x0001C461E1000000 (.lnch (hd 0) 3 2) = true := by decide

/-! ### Ill-formed terms -/

def bad (i : Instr) : Bool := !i.wf && (match encode i with | some w => (decode w).toOption == none | none => false)

/-- R16: a pair at an odd specifier; R17: an s destination with a v source; R12: a hint on a word that takes none. -/
theorem smoke_operands : bad (.iadd (hd 0) (.v 5) (.reg (.v 2)) (.v 4) .i64) && bad (.iadd (hd 0) (.s 5) (.reg (.v 2)) (.s 4) .i32) &&
    bad (.iadd (hc 1) (.v 5) (.reg (.v 2)) (.v 4) .i32) && bad (.ld (hd 0) (.v 6) ⟨4, none⟩ .b128 0) = true := by decide
/-- R20, R101, R118: an accumulator source with a 64-bit type, an s destination or a type that is not f32. -/
theorem smoke_accumulator : bad (.iadd (hd 0) (.v 4) (.acc ⟨0, 0, 0⟩) (.v 2) .i64) && bad (.mov (hd 0) (.s 4) (.acc ⟨0, 0, 0⟩) .i32) &&
    bad (.fadd (hd 0) (.v 4) (.acc ⟨0, 0, 0⟩) (.v 2) .bf16 .dyn) && bad (.ffma (hd 0) (.s 4) (.acc ⟨0, 0, 0⟩) (.v 2) .f32 .dyn) = true := by decide
/-- R104-R113: a quarter of movh beyond a v register, a ring type where none is allowed, p0 as a destination, an order on a ring. -/
theorem smoke_integer : bad (.movh (hd 0) (.v 4) 2 0) && bad (.imin (hd 0) (.v 4) (.v 2) (.v 3) .z32) && bad (.iabs (hd 0) (.v 4) (.v 2) .n32) &&
    bad (.icmp (hd 0) 0 (.v 4) (.v 2) .eq .i32) && bad (.icmp (hd 0) 1 (.v 4) (.v 2) .lt .z32) = true := by decide
/-- R124-R129: fcmp and fclass of bf16x2, a conversion that is not listed, a rounding on bfup, a block width of 1. -/
theorem smoke_float : bad (.fcmp (hd 0) 1 (.reg (.v 4) .eq) (.v 2) .bf16x2) && bad (.fclass (hd 0) (.v 4) (.v 2) .bf16x2) &&
    bad (.cvt (hd 0) (.v 4) (.reg (.v 2) .z32 .f32) .dyn) && bad (.bfup (hd 0) 4 2 3 1 .f32 .rtz) && bad (.bfpk (hd 0) 4 2 0 1 .f32 .dyn) = true := by decide
/-- R156-R159: an inv of no words or with its routine's output in its own registers, a bracket register of no rounds, a per-lane
field read into an s register. -/
theorem smoke_invert : bad (.inv (hd 0) 1 2 (.v 3) 0 0 .bis false true) && bad (.inv (hd 0) 1 1 (.v 3) 1 0 .bis false true) &&
    bad (.inv (hd 0) 1 2 (.v 2) 1 0 .bis false true) && bad (.bkset (hd 0) 0 (.v 1) (.v 2) 0 1 true) && bad (.bkget (hd 0) (.s 1) 0 5) = true := by decide
/-- R133, R135, R138: p0 as a destination of vote, plop and r2p, a rounding on an integer reduction. -/
theorem smoke_lanes : bad (.vote (hd 0) (.any 0) 1) && bad (.plop (hd 0) 0 1 2 8) && bad (.r2p (hd 0) (.v 1) 3) &&
    bad (.lred (hd 0) 1 2 .addI32 .rtz) && bad (.lscan (hd 0) 1 2 false .and .rne) = true := by decide
/-- R165, R166, R174, R175, R179, R181, R183: a v index with an s destination, an s datum of 128 bits, sizes that a word does not take, a
declared use that an operation does not take. -/
theorem smoke_memory : bad (.ld (hd 0) (.s 4) ⟨4, some (1, 0)⟩ .b32 0) && bad (.st (hd 0) (.s 4) ⟨4, none⟩ .b128 0) && bad (.lda (hd 0) (.v 4) ⟨4, none⟩ .b128 0) &&
    bad (.bred (hd 0) (.v 4) ⟨4, none⟩ .b64 .fadd 0) && bad (.bupd (hd 0) 4 ⟨4, none⟩ .b64 .f32 0) && bad (.qenq (hd 0) (.v 4) ⟨4, none⟩ .i8 false 0 0) &&
    bad (.atom (hd 0) 4 ⟨4, none⟩ .b32 .exch .com) && bad (.atom (hd 0) 4 ⟨4, none⟩ .b64 .fadd .unp) = true := by decide
/-- R205, R211, R217, R241, R92: a width of 1, no channel, a shift of 0, LANEID into an s register. -/
theorem smoke_engines : bad (.mma (hd 0) 0 1 2 (.bfp 0 3 .dyn)) && bad (.acccvt (hd 0) 0 1 (.bfp 0) .dyn) && bad (.scfg (hd 0) 1 2 0 .trp) &&
    bad (.scfg (hd 0) 1 2 65 .trp) && bad (.shtrunc (hd 0) 4 2 0 0 .z32) && bad (.rdsr (hd 0) (.s 4) .laneid) = true := by decide
/-- R27, R29: an empty slot with a field set, a second source on a shift, a floating s destination, two writes to one bank, three reads
of one bank. -/
theorem smoke_paired : bad (.pairedNop 0 ⟨.v 1, .v 0, 0, false, 0⟩ ⟨.mov, ⟨.v 2, .v 3, 0, false, 0⟩⟩) &&
    bad (.pairedShl 0 ⟨.v 1, .v 2, 0, false, 3⟩ ⟨.nop, ⟨.v 0, .v 0, 0, false, 0⟩⟩) &&
    bad (.pairedFadd 0 ⟨.s 1, .s 2, 0, false, 0⟩ ⟨.nop, ⟨.v 0, .v 0, 0, false, 0⟩⟩) &&
    bad (.pairedMov 0 ⟨.v 1, .v 2, 0, false, 0⟩ ⟨.mov, ⟨.v 5, .v 3, 0, false, 0⟩⟩) &&
    bad (.pairedIadd 0 ⟨.v 1, .v 4, 0, false, 0⟩ ⟨.iadd, ⟨.v 8, .v 0, 0, false, 0⟩⟩) = true := by decide

/-! ### Small states -/

/-- One team of one group of 64 lanes of the given role on a machine after reset, whose first fragment is issuing. -/
def one (r : Role) : State := { State.reset with
  clock := 1
  launches := [loadLaunch 1 0]
  teams := [loadTeam 0 1 0 r]
  nextId := 1
  nextSeq := 2
  cur := .frag 0 0 0 }

/-- Stream 0 is issuing. -/
def stream : State := { State.reset with clock := 1, cur := .stream 0 }.modStream 0 (fun x => { x with st := .running, asid := 1 })

def setS (s : State) (n : Nat) (v : Word) : State := (s.modGroup 0 0 (fun g => g.write (.s n) v)).modStream 0 (fun x => { x with s := Cells.set 0 x.s n v })
def setV (s : State) (n l v : Nat) : State := s.modGroup 0 0 (fun g => g.write (.v n l) (BitVec.ofNat 64 v))
def setP (s : State) (n l : Nat) (b : Bool) : State := s.modGroup 0 0 (fun g => g.write (.p n l) (if b then 1 else 0))

/-- The word issues, with an issue that a test holds of. -/
def issues (i : Instr) (s : State) (f : Issue → Bool := fun _ => true) : Bool :=
  match issue i s with
  | .go x => f x
  | _ => false

theorem issues_spec {i : Instr} {s : State} {f : Issue → Bool} (h : issues i s f = true) : ∃ x, Issues i s x ∧ f x = true := by
  unfold issues at h
  split at h
  · rename_i x hx
    exact ⟨x, hx, h⟩
  · cases h

/-- A test of the state a word or an event leads to. -/
def after (i : Instr) (s : State) (f : State → Bool) : Bool :=
  match exec i s with
  | .next t => f t
  | _ => false

/-- What a v, s or predicate register of the group holds once every result on its way has landed. -/
def reg (t : State) (k : Key) : Word := ((t.team? 0).bind (fun y => y.groups[0]?)).elim 0 (fun g => g.read 1000 0 k)

/-- The result that is pending for a v or s register. -/
def pending (t : State) (k : Key) : Option Word := ((t.team? 0).bind (fun y => y.groups[0]?)).bind (fun g =>
  g.pend.findSome? (fun p => (p.writes.find? (fun w => w.key == k)).map RegWrite.val))

/-- The group's sticky flags once every result on its way has landed. -/
def flags (t : State) : BitVec 6 := ((t.team? 0).bind (fun y => y.groups[0]?)).elim 0 (fun g => g.settle.flags)

/-- The word traps with a cause and a value. -/
def traps (i : Instr) (s : State) (c : Nat) (tval : Word) : Bool :=
  match issue i s with
  | .trap t => t.code == c && t.tval == tval
  | _ => false

/-! ### Every word issues in some state -/

theorem issue_integer : ([.nop (hd 0), .mov (hd 0) (.v 4) (.reg (.v 1)) .i32, .mov (hd 0) (.v 4) (.acc ⟨47, 63, 0⟩) .i32, .movi (hd 0) (.s 4) (-1), .movh (hd 0) (.s 4) 3 1,
    .sel (hd 0) 4 (.v 2) (.v 6) 1 true .i64, .iadd (hd 0) (.s 4) (.reg (.s 2)) (.s 63) .i64, .isub (hd 0) (.v 4) (.reg (.v 2)) (.v 191) .z16,
    .imul (hd 0) (.v 4) (.v 2) (.v 3) .z32, .imulh (hd 0) (.v 4) (.v 2) (.v 3) .n32, .imad (hd 0) (.v 4) (.v 2) (.v 3) (.v 1) .i32,
    .imin (hd 0) (.v 4) (.v 2) (.v 3) .i32, .imax (hd 0) (.v 4) (.v 2) (.v 3) .n32, .iabs (hd 0) (.v 4) (.v 2) .i64, .ineg (hd 0) (.v 4) (.v 2) .z32,
    .isat (hd 0) (.v 4) (.v 2) .n8 .i32, .idiv (hd 0) (.v 4) (.v 2) (.v 3) .i32, .irem (hd 0) (.v 4) (.v 2) (.v 6) .n64, .and (hd 0) (.v 4) (.reg (.v 2)) (.v 3) .z32,
    .or (hd 0) (.v 4) (.reg (.v 2)) (.v 3) .z32, .xor (hd 0) (.v 4) (.acc ⟨0, 0, 0⟩) (.v 3) .z32, .andn (hd 0) (.v 4) (.v 2) (.v 3) .i32, .not (hd 0) (.v 4) (.v 2) .i32,
    .shl (hd 0) (.v 4) (.v 2) (.v 3) .z16, .shr (hd 0) (.v 4) (.v 2) (.v 3) .i64, .sar (hd 0) (.v 4) (.v 2) (.v 3) .i64, .rot (hd 0) (.v 4) (.v 2) (.v 3) .i32,
    .bfe (hd 0) (.v 4) (.v 2) (.v 3) .i32, .bfi (hd 0) (.v 4) (.v 2) (.v 3) (.v 1) .i32, .popc (hd 0) (.v 4) (.v 2) .i64, .clz (hd 0) (.v 4) (.v 2) .i64,
    .brev (hd 0) (.v 4) (.v 2) .i64, .icmp (hd 0) 7 (.v 4) (.v 2) .ge .n64, .lea (hd 0) (.v 4) (.v 2) (.v 3) 7 .i32] : List Instr).all (fun i => issues i (one .m)) = true := by
  decide

theorem issue_float : ([.fadd (hd 0) (.v 4) (.reg (.v 2)) (.v 3) .bf16x2 .sr, .fsub (hd 0) (.v 4) (.acc ⟨0, 0, 0⟩) (.v 3) .f32 .dyn, .fmul (hd 0) (.s 4) (.reg (.s 2)) (.s 3) .f32 .rna,
    .ffma (hd 0) (.v 4) (.reg (.v 2) (.v 1)) (.v 3) .bf16 .rup, .ffma (hd 0) (.v 4) (.acc ⟨0, 0, 0⟩) (.v 3) .f32 .rdn, .fmin (hd 0) (.v 4) (.reg (.v 2)) (.v 3) .f32,
    .fmax (hd 0) (.v 4) (.reg (.v 2)) (.v 3) .f32, .fcmp (hd 0) 1 (.reg (.v 2) .uno) (.v 3) .f32, .fcmp (hd 0) 1 (.acc ⟨0, 0, 0⟩ .lt) (.v 3) .f32,
    .fclass (hd 0) (.v 4) (.v 2) .f32, .frcp (hd 0) (.v 4) (.v 2) .f32, .frsq (hd 0) (.v 4) (.v 2) .bf16, .fsqrt (hd 0) (.v 4) (.v 2) .f32 .rtz,
    .fdiv (hd 0) (.v 4) (.v 2) (.v 3) .f32 .dyn, .fexp2 (hd 0) (.v 4) (.v 2) .f32, .flog2 (hd 0) (.v 4) (.v 2) .f32, .fsin (hd 0) (.v 4) (.v 2) .f32,
    .fcos (hd 0) (.v 4) (.v 2) .f32, .ftanh (hd 0) (.v 4) (.v 2) .f32, .fsig (hd 0) (.v 4) (.v 2) .f32, .fround (hd 0) (.v 4) (.v 2) .f32 .rne,
    .fscale (hd 0) (.v 4) (.v 2) (.v 3) .f32 .dyn, .cvt (hd 0) (.v 4) (.reg (.v 2) .f32 .i32) .rtz, .cvt (hd 0) (.v 4) (.reg (.v 2) .bf16h .f32) .dyn,
    .cvt (hd 0) (.v 4) (.reg (.v 2) .i64 .bf16) .dyn, .cvt (hd 0) (.v 4) (.reg (.v 2) .f32 .z16) .dyn, .cvt (hd 0) (.v 4) (.reg (.v 2) .n32 .i64) .dyn,
    .cvt (hd 0) (.v 4) (.pair (.v 2) (.v 3)) .sr, .cvt (hd 0) (.v 4) (.acc ⟨0, 0, 0⟩ .i32) .dyn, .bfpk (hd 0) 20 0 3 12 .f32 .rne, .bfup (hd 0) 20 0 7 12 .bf16 .rtz,
    .bfscl (hd 0) 20 0 1 12 .f32 .dyn, .fdot2 (hd 0) (.v 4) (.v 2) (.v 3) (.v 1) .dyn] : List Instr).all (fun i => issues i (one .m)) = true := by decide

theorem issue_lanes_and_control : ([.prm (hd 0) 4 2 (.v 3) .idx true, .prm (hd 0) 4 2 (.v 3) .xor false, .prm (hd 0) 4 2 (.s 3) .up false, .prm (hd 0) 4 2 (.v 3) .down false,
    .prm (hd 0) 4 2 (.v 3) .rot false, .vote (hd 0) (.any 1) 2, .vote (hd 0) (.all 1) 2, .vote (hd 0) (.uni 1) 2, .vote (hd 0) (.ballot 4) 2, .lred (hd 0) 4 2 .fadd .rne,
    .lred (hd 0) 4 2 .addI64 .dyn, .lscan (hd 0) 4 2 true .minN32 .dyn, .rdlane (hd 0) 4 2 3 true, .plop (hd 0) 1 2 3 8, .p2r (hd 0) (.v 4), .p2r (hd 0) (.s 4 7),
    .r2p (hd 0) (.v 4) 0xFE, .bra (hd 0) (-1) 0, .jmp (hd 0) (.s 7), .jmp (hd 0) (.v 8), .call (hd 0) 5 1, .ret (hd 0), .regang (hd 0) none, .regang (hd 0) (some 5), .exit (hd 0),
    .inv (hd 0) 1 2 (.v 3) 31 3 .ulp true false, .bkset (hd 0) 3 (.v 1) (.v 2) 63 63 false, .bkget (hd 0) (.v 1) 3 0, .bkget (hd 0) (.s 1) 3 7] : List Instr).all
    (fun i => issues i (one .c)) = true := by decide

theorem issue_memory : ([.ld (hc 2) (.v 8) ⟨4, some (2, 3)⟩ .b128 (-256), .ld (hd 0) (.s 8) ⟨4, none⟩ .i8 0, .st (hd 0) (.v 8) ⟨4, none⟩ .b64 255, .ldl (hd 0) (.v 8) ⟨4, none⟩ .b32 0,
    .stl (hd 0) (.v 8) ⟨4, some (1, 2)⟩ .n16 0, .lds (hd 0) (.v 8) ⟨4, none⟩ .b32 .core 0, .lds (hd 0) (.v 8) ⟨4, none⟩ .b32 .clu 0, .sts (hd 0) (.v 8) ⟨4, none⟩ .b32 .span 0,
    .pf (hd 0) ⟨4, none⟩ .b32 0, .bred (hd 0) (.v 8) ⟨4, none⟩ .b64 .add 0, .bred (hd 0) (.v 8) ⟨4, none⟩ .b32 .bfadd 0, .bupd (hd 0) 8 ⟨4, none⟩ .b32 .z32 0, .qinit (hd 0) 4 5,
    .qenq (hd 0) (.v 8) ⟨4, none⟩ .b64 true 0 0, .qenq (hd 0) (.s 8) ⟨4, none⟩ .b32 false 7 0, .qdeq (hd 0) (.v 8) ⟨4, none⟩ .b64 false 2 0,
    .atom (hd 0) 8 ⟨4, none⟩ .b32 .cas .acqrel, .atom (hd 0) 8 ⟨4, none⟩ .b64 .add .com, .lda (hd 0) (.v 8) ⟨4, none⟩ .b32 0, .str (hd 0) (.v 8) ⟨4, none⟩ .b32 0, .fence (hd 0) .full,
    .fence (hd 0) .acq, .fence (hd 0) .rel, .barInit (hd 0) 3 15 true, .barArrive (hd 0) (some 1) 0, .barWait (hd 0) 1 0, .barSync (hd 0) none 0, .barDrop (hd 0) none 0,
    .barExpect (hd 0) 1 0, .barBind (hd 0) 0 .pkg, .tlwait (hd 0) 1 7, .tlread (hd 0) 1 0, .yield (hd 0) 1 2 (.bar 15), .yield (hd 0) 1 2 (.tl 7)] : List Instr).all
    (fun i => issues i (one .c)) = true := by decide

theorem issue_engines : ([.gang (hd 0) 6, .mma (hd 0) 47 1 2 (.bfp 7 1 .rne), .mma (hd 0) 0 1 2 .z32, .acczero (hd 0) 5, .accld (hd 0) 2 9, .accst (hd 0) 2 9, .acccvt (hd 0) 44 7 (.bfp 3) .sr,
    .acccvt (hd 0) 47 7 .bf16 .dyn] : List Instr).all (fun i => issues i (one .m)) &&
    ([.scfg (hd 0) 4 5 64 (.aff .exp2), .srun (hd 0), .scin (hd 0), .scout (hd 0), .sfix (hd 0), .shmul (hd 0) 6 2 4 1 .z64, .shtrunc (hd 0) 8 4 2 31 .z32, .shsign (hd 0) 8 4 2 .z16,
    .shopen (hd 0) 8 4 2 .z32, .shin (hd 0) 8 (.own 4) 2 .z32, .shin (hd 0) 8 .other 2 .z32] : List Instr).all (fun i => issues i (one .v)) &&
    ([.cpy (hd 0) 4 5 6 true none, .lrmk (hd 0) 4 5 6, .gxch (hd 0) 4 5 6 1 3 true false, .send (hd 0) 4 5 .l256, .recv (hd 0) 4 5 6 .l8 true true, .mprobe (hd 0) 4 5 .l8 true false,
    .trap (hd 0) 0x7FFF, .brkp (hd 0) 1, .rdsr (hd 0) (.s 4) .clock, .rdsr (hd 0) (.v 4) .laneid, .wrsr (hd 0) 4 .mode, .mark (hd 0) 4 255] : List Instr).all
    (fun i => issues i (one .c)) &&
    issues (.rtt (hd 0)) ((one .c).modGroup 0 0 (fun g => { g with handler := some 0 })) = true := by decide

theorem issue_stream : ([.lnch (hd 0) 4 5, .ldep (hd 0) 4 5 7, .lwait (hd 0) 4 5 7, .lsig (hd 0) 4 5 7, .bra (hd 0) 1 0, .jmp (hd 0) (.s 4), .exit (hd 0), .rdsr (hd 0) (.s 4) .clock,
    .iadd (hd 0) (.s 4) (.reg (.s 5)) (.s 6) .i64, .pairedIadd 0 ⟨.s 4, .s 5, 0, false, 0⟩ ⟨.nop, ⟨.v 0, .v 0, 0, false, 0⟩⟩] : List Instr).all (fun i => issues i stream) = true := by decide

/-- A slot B that goes with every slot A of the list. -/
def slotB : PSlot := ⟨.mov, ⟨.v 6, .v 11, 1, true, 0⟩⟩

theorem issue_paired : ([.pairedNop 0 ⟨.v 0, .v 0, 0, false, 0⟩ slotB, .pairedMov 7 ⟨.v 4, .v 9, 0, false, 0⟩ slotB, .pairedMovi 0 ⟨.v 4, .v 0, 0, false, 15⟩ slotB, .pairedIadd 0 ⟨.v 4, .v 9, 0, false, 0⟩ slotB,
    .pairedIsub 0 ⟨.s 4, .s 9, 0, false, 0⟩ slotB, .pairedAnd 0 ⟨.v 4, .v 9, 0, false, 0⟩ slotB, .pairedOr 0 ⟨.v 4, .v 9, 0, false, 0⟩ slotB, .pairedXor 0 ⟨.v 4, .v 9, 0, false, 0⟩ slotB,
    .pairedShl 0 ⟨.v 4, .v 0, 0, false, 3⟩ slotB, .pairedShr 0 ⟨.v 4, .v 0, 0, false, 3⟩ slotB, .pairedSar 0 ⟨.v 4, .v 0, 0, false, 3⟩ slotB, .pairedImin 0 ⟨.v 4, .v 9, 0, false, 0⟩ slotB,
    .pairedImax 0 ⟨.v 4, .v 9, 0, false, 0⟩ slotB, .pairedIneg 0 ⟨.v 4, .v 9, 0, false, 0⟩ slotB, .pairedNot 0 ⟨.v 4, .v 9, 0, false, 0⟩ slotB, .pairedFadd 0 ⟨.v 4, .v 9, 0, false, 0⟩ slotB,
    .pairedFsub 0 ⟨.v 4, .v 9, 0, false, 0⟩ slotB, .pairedFmul 0 ⟨.v 4, .v 9, 0, false, 0⟩ slotB, .pairedFmin 0 ⟨.v 4, .v 9, 0, false, 0⟩ slotB, .pairedFmax 0 ⟨.v 4, .v 9, 0, false, 0⟩ slotB,
    .pairedFneg 0 ⟨.v 4, .v 9, 0, false, 0⟩ slotB, .pairedFabs 0 ⟨.v 4, .v 9, 0, false, 0⟩ slotB, .pairedIaddZ16 0 ⟨.v 4, .v 9, 0, false, 0⟩ slotB,
    .pairedIsubZ16 0 ⟨.v 4, .v 9, 0, false, 0⟩ slotB, .pairedIaddZ32 0 ⟨.v 4, .v 9, 0, false, 0⟩ slotB, .pairedIsubZ32 0 ⟨.v 4, .v 9, 0, false, 0⟩ slotB] : List Instr).all
    (fun i => issues i (one .c)) = true := by decide

/-! ### Results calculated by hand from the rules -/

/-- v2 and v3 of lane 0. -/
def ab (a b : Nat) : State := setV (setV (one .m) 2 0 a) 3 0 b

/-- v4 of lane 0 after the word. -/
def gives (i : Instr) (s : State) (v : Nat) : Bool := after i s (fun t => reg t (.v 4 0) == BitVec.ofNat 64 v)

theorem test_sums : gives (.iadd (hd 0) (.v 4) (.reg (.v 2)) (.v 3) .i32) (ab 0xFFFFFFFF 2) 1 && gives (.isub (hd 0) (.v 4) (.reg (.v 2)) (.v 3) .n32) (ab 0 1) 0xFFFFFFFF &&
    gives (.iadd (hd 0) (.v 4) (.reg (.v 2)) (.v 3) .z16) (ab 0x1FFFF 1) 0 = true := by decide
theorem test_products : gives (.imul (hd 0) (.v 4) (.v 2) (.v 3) .z16) (ab 0x1234 0x100) 0x3400 && gives (.imulh (hd 0) (.v 4) (.v 2) (.v 3) .i32) (ab 0xFFFFFFFF 1) 0xFFFFFFFF &&
    gives (.imulh (hd 0) (.v 4) (.v 2) (.v 3) .n32) (ab 0xFFFFFFFF 0xFFFFFFFF) 0xFFFFFFFE && gives (.imad (hd 0) (.v 4) (.v 2) (.v 3) (.v 3) .i32) (ab 5 7) 42 = true := by decide
theorem test_order : gives (.imin (hd 0) (.v 4) (.v 2) (.v 3) .i32) (ab 0xFFFFFFFF 1) 0xFFFFFFFF && gives (.imin (hd 0) (.v 4) (.v 2) (.v 3) .n32) (ab 0xFFFFFFFF 1) 1 &&
    gives (.imax (hd 0) (.v 4) (.v 2) (.v 3) .i32) (ab 0x80000000 1) 1 && gives (.iabs (hd 0) (.v 4) (.v 2) .i32) (ab 0x80000000 0) 0x80000000 &&
    gives (.isat (hd 0) (.v 4) (.v 2) .n8 .i32) (ab 0xFFFFFFFB 0) 0 && gives (.isat (hd 0) (.v 4) (.v 2) .i8 .i32) (ab 300 0) 127 = true := by decide
theorem test_division : after (.idiv (hd 0) (.v 4) (.v 2) (.v 3) .i32) (ab 0xFFFFFFF9 2) (fun t => pending t (.v 4 0) == some 0xFFFFFFFD) &&
    after (.irem (hd 0) (.v 4) (.v 2) (.v 3) .i32) (ab 0xFFFFFFF9 2) (fun t => pending t (.v 4 0) == some 0xFFFFFFFF) &&
    after (.idiv (hd 0) (.v 4) (.v 2) (.v 3) .n32) (ab 7 0) (fun t => pending t (.v 4 0) == some 0xFFFFFFFF) &&
    after (.irem (hd 0) (.v 4) (.v 2) (.v 3) .n32) (ab 7 0) (fun t => pending t (.v 4 0) == some 7) = true := by decide
theorem test_shifts : gives (.shl (hd 0) (.v 4) (.v 2) (.v 3) .i32) (ab 3 33) 6 && gives (.shr (hd 0) (.v 4) (.v 2) (.v 3) .n32) (ab 0x80000000 31) 1 &&
    gives (.sar (hd 0) (.v 4) (.v 2) (.v 3) .i32) (ab 0x80000000 31) 0xFFFFFFFF && gives (.rot (hd 0) (.v 4) (.v 2) (.v 3) .n32) (ab 0x80000001 1) 3 &&
    gives (.andn (hd 0) (.v 4) (.v 2) (.v 3) .n32) (ab 0xFF 0x0F) 0xF0 && gives (.not (hd 0) (.v 4) (.v 2) .z16) (ab 1 0) 0xFFFE = true := by decide
theorem test_fields : gives (.bfe (hd 0) (.v 4) (.v 2) (.v 3) .i32) (ab 0xF0 0x404) 0xFFFFFFFF && gives (.bfe (hd 0) (.v 4) (.v 2) (.v 3) .n32) (ab 0xF0 0x404) 15 &&
    gives (.popc (hd 0) (.v 4) (.v 2) .n32) (ab 0xF0F 0) 8 && gives (.clz (hd 0) (.v 4) (.v 2) .n32) (ab 1 0) 31 && gives (.clz (hd 0) (.v 4) (.v 2) .n32) (ab 0 0) 32 &&
    gives (.brev (hd 0) (.v 4) (.v 2) .n32) (ab 1 0) 0x80000000 = true := by decide
theorem test_compare : after (.icmp (hd 0) 1 (.v 2) (.v 3) .lt .i32) (ab 0xFFFFFFFF 0) (fun t => reg t (.p 1 0) == 1) &&
    after (.icmp (hd 0) 1 (.v 2) (.v 3) .lt .n32) (ab 0xFFFFFFFF 0) (fun t => reg t (.p 1 0) == 0) = true := by decide
/-- R65: an s destination sign-extends a signed 32-bit result. -/
theorem test_s_destination : after (.isub (hd 0) (.s 4) (.reg (.s 2)) (.s 3) .i32) (setS (one .c) 3 1) (fun t => reg t (.s 4) == -1) &&
    after (.isub (hd 0) (.s 4) (.reg (.s 2)) (.s 3) .n32) (setS (one .c) 3 1) (fun t => reg t (.s 4) == 0xFFFFFFFF) = true := by decide
/-- R14: a word no lane of which has a true condition writes nothing. -/
theorem test_guard : after (.movi (hg false 1 0) (.v 4) 5) (one .c) (fun t => reg t (.v 4 0) == 0) &&
    after (.movi (hg false 1 0) (.v 4) 5) (setP (one .c) 1 3 true) (fun t => reg t (.v 4 0) == 0 && reg t (.v 4 3) == 5) = true := by decide
/-- R62, R71, R74: 1 + 2 is exact; 1 + 2^-24 is half way to the next value and stays 1; the greatest value doubled overflows. -/
theorem test_float_sums : gives (.fadd (hd 0) (.v 4) (.reg (.v 2)) (.v 3) .f32 .rne) (ab 0x3F800000 0x40000000) 0x40400000 &&
    after (.fadd (hd 0) (.v 4) (.reg (.v 2)) (.v 3) .f32 .rne) (ab 0x3F800000 0x33800000) (fun t => reg t (.v 4 0) == 0x3F800000 && flags t == fNX) &&
    gives (.fadd (hd 0) (.v 4) (.reg (.v 2)) (.v 3) .f32 .rna) (ab 0x3F800000 0x33800000) 0x3F800001 &&
    after (.fmul (hd 0) (.v 4) (.reg (.v 2)) (.v 3) .f32 .rne) (ab 0x7F7FFFFF 0x40000000) (fun t => reg t (.v 4 0) == 0x7F800000 && flags t == fOF ||| fNX) = true := by decide
theorem test_float_zero_and_nan : gives (.fsub (hd 0) (.v 4) (.reg (.v 2)) (.v 3) .f32 .rne) (ab 0x3F800000 0x3F800000) 0 &&
    gives (.fsub (hd 0) (.v 4) (.reg (.v 2)) (.v 3) .f32 .rdn) (ab 0x3F800000 0x3F800000) 0x80000000 &&
    after (.fmul (hd 0) (.v 4) (.reg (.v 2)) (.v 3) .f32 .rne) (ab 0x7F800000 0) (fun t => reg t (.v 4 0) == 0x7FC00000 && flags t == fNV) &&
    gives (.fmin (hd 0) (.v 4) (.reg (.v 2)) (.v 3) .f32) (ab 0 0x80000000) 0x80000000 && gives (.fmax (hd 0) (.v 4) (.reg (.v 2)) (.v 3) .f32) (ab 0x7FC00000 0x3F800000) 0x3F800000 = true := by
  decide
theorem test_float_divide : after (.fdiv (hd 0) (.v 4) (.v 2) (.v 3) .f32 .rne) (ab 0x3F800000 0x80000000) (fun t => pending t (.v 4 0) == some 0xFF800000) &&
    gives (.frcp (hd 0) (.v 4) (.v 2) .f32) (ab 0x40000000 0) 0x3F000000 && gives (.fclass (hd 0) (.v 4) (.v 2) .f32) (ab 0xFF800000 0) 4 = true := by decide
theorem test_square_root : after (.fsqrt (hd 0) (.v 4) (.v 2) .f32 .rne) (ab 0x40800000 0) (fun t => pending t (.v 4 0) == some 0x40000000) = true := by decide +kernel
theorem test_conversions : after (.cvt (hd 0) (.v 4) (.reg (.v 2) .f32 .i32) .rtz) (ab 0xBFC00000 0) (fun t => reg t (.v 4 0) == 0xFFFFFFFF && flags t == fNX) &&
    after (.cvt (hd 0) (.v 4) (.reg (.v 2) .f32 .n32) .rne) (ab 0xBF800000 0) (fun t => reg t (.v 4 0) == 0 && flags t == fNV) &&
    gives (.cvt (hd 0) (.v 4) (.reg (.v 2) .i32 .f32) .rne) (ab 0xFFFFFFFF 0) 0xBF800000 && gives (.cvt (hd 0) (.v 4) (.pair (.v 2) (.v 3)) .rne) (ab 0x3F800000 0x40000000) 0x40003F80 = true := by decide
/-- R27: slot B reads the registers as they stood before the word. -/
theorem test_paired : after (.pairedIadd 0 ⟨.v 2, .v 3, 0, false, 0⟩ ⟨.mov, ⟨.v 4, .v 2, 0, false, 0⟩⟩) (ab 5 7) (fun t => reg t (.v 2 0) == 12 && reg t (.v 4 0) == 5) = true := by decide
theorem test_lanes : after (.prm (hd 0) 4 2 (.v 3) .xor false) (setV (ab 9 0) 3 1 1) (fun t => reg t (.v 4 1) == 9) &&
    after (.vote (hd 0) (.ballot 4) 1) (setP (one .c) 1 3 true) (fun t => reg t (.s 4) == 8) &&
    after (.lred (hd 0) 4 2 .addI32 .dyn) (setV (ab 5 0) 2 63 7) (fun t => reg t (.s 4) == 12) &&
    after (.lscan (hd 0) 4 2 true .addZ32 .dyn) (ab 5 0) (fun t => reg t (.v 4 0) == 0 && reg t (.v 4 1) == 5) = true := by decide
/-- R35, R39, R252: a matrix word of a copy group, a launch word outside a stream, a tile beyond the store, in the order of R39. -/
theorem test_checks : traps (.acczero (hd 0) 0) (one .c) cROLE 0x0001410000000000 && traps (.lnch (hd 0) 3 2) (one .c) cPRIV 0x0001C461E1000000 &&
    traps (.acczero (hd 0) 48) (one .m) cACCIDX 0x0001411800000000 && traps (.wrsr (hd 0) 6 .clock) (one .c) cPRIV 10 = true := by decide

/-! ### Hypotheses of the statements about lanes and control -/

def modG (s : State) (f : Group → Group) : State := s.modGroup 0 0 f
def modF (s : State) (f : Frag → Frag) : State := s.modFrag 0 0 0 f

def ofFrag (x : Issue) : Bool := match x.who with | .frag .. => true | _ => false

/-- The word's lanes are a part of the fragment. -/
def part (x : Issue) : Bool := ofFrag x && x.frag.mask &&& ~~~x.lanes != 0

def whole (x : Issue) : Bool := ofFrag x && x.frag.mask &&& ~~~x.lanes == 0

/-- The whole split table and held queue are taken. -/
def full (s : State) : State := modG s (fun g => { g with
  frags := g.frags ++ (List.range 7).map (fun e => { Frag.blank with ent := e + 1, st := .blocked (.queue false []) })
  held := List.replicate 8 ⟨1, 0, none, 0, 0⟩ })

/-- LaneMoves: every source launched; a source that was never launched, with MODE.PRT 0 and 1. -/
theorem meets_laneMoves : issues (.prm (hd 0) 4 2 (.v 3) .idx false) (one .c) (fun x => x.lanesList.all (fun l => x.grp.launched.getLsbD (x.amt (.v 3) l % x.W))) &&
    ([false, true].all fun prt =>
      let s := modF (modG (setV (one .c) 3 0 63) (fun g => { g with launched := 1, mode := if prt then 0x100 else 0 })) (fun f => { f with mask := 1 })
      issues (.prm (hd 0) 4 2 (.v 3) .idx false) s (fun x => x.lanesList == [0] && !x.grp.launched.getLsbD (x.amt (.v 3) 0 % x.W) && x.grp.mode.getLsbD 8 == prt) &&
      issues (.rdlane (hd 0) 4 2 3 false) (setS s 3 63) (fun x => !x.grp.launched.getLsbD ((x.sreg 3).toNat % x.W) && x.grp.mode.getLsbD 8 == prt)) &&
    issues (.rdlane (hd 0) 4 2 3 false) (setS (one .c) 3 63) (fun x => x.grp.launched.getLsbD ((x.sreg 3).toNat % x.W)) = true := by decide

/-- LaneReductions: an integer reduction with a participant. -/
theorem meets_laneReductions : issues (.lred (hd 0) 4 2 .addI32 .dyn) (one .c) (fun x => x.lanesList != []) = true := by decide

/-- BranchesToOneTarget: the whole fragment goes; it divides where a part has room and waits where it has none; a stream; a misaligned
target of jmp and an aligned one. -/
theorem meets_branches : issues (.bra (hd 0) 1 0) (one .c) whole && issues (.bra (hg false 1 0) 1 3) (setP (one .c) 1 0 true) part &&
    issues (.bra (hg false 1 0) 1 3) (full (setP (one .c) 1 0 true)) part && issues (.bra (hd 0) 1 0) stream (fun x => x.who == .stream 0) &&
    issues (.jmp (hd 0) (.s 7)) (setS (one .c) 7 1) (fun x => (x.sreg 7).toNat % 8 != 0) && issues (.jmp (hd 0) (.s 7)) (setS (one .c) 7 8) (fun x => whole x && (x.sreg 7).toNat % 8 == 0) &&
    issues (.jmp (hg false 1 0) (.s 7)) (setS (setP (one .c) 1 63 true) 7 8) (fun x => part x && (x.sreg 7).toNat % 8 == 0) &&
    issues (.jmp (hd 0) (.s 7)) (setS stream 7 8) (fun x => x.who == .stream 0 && (x.sreg 7).toNat % 8 == 0) = true := by decide
theorem meets_branches_room : (∃ x, Issues (.bra (hg false 1 0) 1 3) (setP (one .c) 1 0 true) x ∧ x.grp.fits 1) ∧
    ∃ x, Issues (.bra (hg false 1 0) 1 3) (full (setP (one .c) 1 0 true)) x ∧ ¬ x.grp.fits 1 := by
  refine ⟨?_, ?_⟩
  · obtain ⟨x, hx, h⟩ := issues_spec (i := .bra (hg false 1 0) 1 3) (s := setP (one .c) 1 0 true) (f := fun x =>
      decide (1 ≤ ((List.range 8).filter (fun e => !(x.grp.frags.any (fun f => f.ent == e)))).length + (8 - x.grp.held.length))) (by decide)
    exact ⟨x, hx, by simpa [Group.fits] using h⟩
  · obtain ⟨x, hx, h⟩ := issues_spec (i := .bra (hg false 1 0) 1 3) (s := full (setP (one .c) 1 0 true)) (f := fun x =>
      !decide (1 ≤ ((List.range 8).filter (fun e => !(x.grp.frags.any (fun f => f.ent == e)))).length + (8 - x.grp.held.length))) (by decide)
    exact ⟨x, hx, by simpa [Group.fits] using h⟩

/-- JumpsByLane: every target aligned, with room for them; one misaligned. -/
theorem meets_jumps : issues (.jmp (hd 0) (.v 8)) (setV (one .c) 8 5 64) (fun x =>
      x.lanesList.all (fun l => decide (x.opnd 64 (.v 8) l % 8 = 0 ∧ BitVec.ofNat 64 (x.opnd 64 (.v 8) l) ∈ ([0, 64] : List Word))) &&
      decide (2 ≤ ((List.range 8).filter (fun e => !(x.grp.frags.any (fun f => f.ent == e)))).length + (8 - x.grp.held.length))) &&
    issues (.jmp (hd 0) (.v 8)) (setV (one .c) 8 63 4) (fun x => x.lanesList.any (fun l => decide (x.opnd 64 (.v 8) l % 8 ≠ 0))) = true := by decide

/-- CallsAndReturns: a stack with room, a full one, a divided call; a return to an aligned address, and one at depth 0. -/
theorem meets_calls : issues (.call (hd 0) 5 1) (one .c) (fun x => whole x && x.lanesList.all (fun l => decide (x.grp.depthOf l < x.la.r.lmemBytes / 8))) &&
    issues (.call (hg false 1 0) 5 1) (setP (one .c) 1 0 true) (fun x => part x && x.lanesList.all (fun l => decide (x.grp.depthOf l < x.la.r.lmemBytes / 8))) &&
    issues (.call (hd 0) 5 1) (modG (one .c) (fun g => { g with depth := [(3, 512)] })) (fun x => decide (x.la.r.lmemBytes / 8 ≤ x.grp.depthOf 3)) &&
    issues (.ret (hd 0)) (modF (modG (one .c) (fun g => { g with depth := [(0, 1)] })) (fun f => { f with mask := 1 })) (fun x =>
      x.lanesList == [0] && x.grp.depthOf 0 != 0 && leNat (x.grp.lmemBytes 0 (x.la.r.lmemBytes - 8) 8) % 8 == 0) &&
    issues (.ret (hd 0)) (one .c) (fun x => x.lanesList.all (fun l => x.grp.depthOf l == 0) && !x.grp.pendsLanes x.lanes && x.lanes &&& ~~~lanesBelow x.W == 0) = true := by decide

/-- ExitAndRegang: a stream; a lane with a register pending and one without; a regang that waits for lanes and one that does not. -/
theorem meets_exit : issues (.exit (hd 0)) stream (fun x => x.who == .stream 0) && issues (.exit (hd 0)) (one .c) (fun x => ofFrag x && !x.grp.pendsLanes x.lanes) &&
    issues (.exit (hd 0)) (modG (one .c) (fun g => { g with pend := [⟨0, 1, [.v 4 1], [], 0, 0, 9, false⟩] })) (fun x => ofFrag x && x.grp.pendsLanes x.lanes) &&
    issues (.regang (hd 0) none) (modF (one .c) (fun f => { f with mask := 1 })) (fun x => x.grp.joins == [] && x.grp.launched &&& ~~~x.frag.mask != 0) &&
    issues (.regang (hd 0) none) (one .c) (fun x => x.grp.joins == [] && x.frag.mask != 0 && x.grp.launched &&& ~~~x.frag.mask == 0 && x.grp.frags.length == 1) = true := by decide

/-- A team whose words are fetched from mapped memory, with words from address 0x8000 on. -/
def mapped (r : Role) (ws : List Word) : State :=
  let s := (one r).loadMemory 0
  (ws.zipIdx.foldl (fun s w => s.writePhys 0 (0x8000 + 8 * w.2) (leBytes 8 w.1.toNat)) s).modFrag 0 0 0 (fun f => { f with pc := 0x8000 })

def inv1 : Instr := .inv (hd 0) 1 2 (.v 3) 1 0 .bis false true

/-- A test of the body that inv fetches. -/
def fetches (s : State) (f : Issue → List (Word × Word × Option Instr) → Bool) : Bool :=
  issues inv1 s (fun x => match (State.fetchBody x.space x.W x.la.r.vregs 1 (x.pc + 8) x.s).2 with | .ok ws => f x ws | .error _ => false)

def good (x : Issue) (ws : List (Word × Word × Option Instr)) : Bool := ws.all (fun p => p.2.2.any (fun k => bodyOk k x.W 1 (.v 3)))

/-- BracketRegistersAndInvert: a body that does not decode, one of a word that may not stand there (st), no lane that takes part, and a
pass (imul v2, v1, v1). -/
theorem meets_invert : fetches (mapped .c [0, 1]) (fun _ ws => ws.any (fun p => p.2.2 == none)) &&
    fetches (mapped .c [0, 0x0000C08563004000]) (fun x ws => ws.all (fun p => p.2.2 != none) && ws.any (fun p => p.2.2.all (fun k => !bodyOk k x.W 1 (.v 3)))) &&
    fetches (modG (mapped .c [0, 0x0000038100808000]) (fun g => (List.range 64).foldl (fun g l => g.setBracket 0 l ⟨0, 0, 0, 0, 0, 6⟩) g)) (fun x ws =>
      good x ws && laneSet x.W (fun l => x.lanes.getLsbD l && (x.grp.bracket 0 l).status != 6) == 0) &&
    fetches (mapped .c [0, 0x0000038100808000]) (fun x ws => good x ws && laneSet x.W (fun l => x.lanes.getLsbD l && (x.grp.bracket 0 l).status != 6) != 0 &&
      x.grp.frags.length == 1 && x.grp.pend == []) && issues (.bkget (hd 0) (.v 9) 0 5) (one .c) (fun x => x.grp.frags.length == 1) = true := by decide

def invw : InvWord := ⟨1, 2, .v 3, 0, .bis, false, true, 0, []⟩

/-- InvertKeepsTheTargetBracketed: ends that keep the lane running, a round that does, and one that finds the target. -/
theorem meets_inverts : (invw.endLane ⟨0, 9, 0, 0, 0, 0⟩ 5 0 1 8).fin = none ∧ invw.below 1 5 = true ∧ invw.below 5 8 = true ∧
    (invw.roundLane ⟨0, 9, 1, 8, 0, 1⟩ 5 0 4 3).fin = none ∧ (invw.roundLane ⟨0, 9, 1, 8, 0, 1⟩ 5 0 4 5).fin ≠ none := by decide

/-! ### Hypotheses of the statements about memory -/

/-- The issue of a word that issues. -/
def got (i : Instr) (s : State) : Issue :=
  match issue i s with
  | .go x => x
  | _ => ⟨.none, Team.blank, 0, Group.blank, Frag.blank, Launch.blank, 0, 0, 0, s⟩

theorem got_spec {i : Instr} {s : State} (h : issues i s = true) : Issues i s (got i s) := by
  unfold issues at h
  unfold Issues got
  split at h
  · rename_i x hx
    rw [hx]
  · cases h

/-- Where the participants of an access land, and the state it leaves, as the checks of R168 compute them. -/
def landed (x : Issue) (a : Access) (rd qw : Bool) (n : Nat) (ps : List (Nat × Word)) : List (Nat × Loc × Tr) :=
  (State.reach x.space a rd qw n x.s ps).2.filterMap (fun y => match y.2 with | .ok c => some (y.1.1, c) | .error _ => none)

/-- The checks of R168 let a word's participants through: the decidable part. -/
def reachOk (x : Issue) (a : Access) (rd qw : Bool) (n kind : Nat) (ps : List (Nat × Word)) : Bool :=
  let r := State.reach x.space a rd qw n x.s ps
  let ok := landed x a rd qw n ps
  ps != [] && ps.all (fun p => p.2.toNat % n == 0) &&
    (x.watchHit 0 (fun l => (0, 0, ((ps.find? (fun p => p.1 == l)).map (fun p => p.2.toNat)).getD 0)) n ps (watchKinds kind rd).1 (watchKinds kind rd).2).isNone &&
    ok.map Prod.fst == ps.map Prod.fst && r.2.all (fun y => match y.2 with | .ok _ => true | .error _ => false) && r.2.map Prod.fst == ps &&
    ok.all (fun c => c.2.1.peer != 0 || !inDram c.2.1.pa || !r.1.asleep (homeDie c.2.1.pa)) &&
    (a != .write || ok.all (fun c => !c.2.2.rm || (r.1.replica? c.2.1.asid c.2.1.va).isNone)) && ok.all (fun c => c.2.1.mt != 2 || !x.busy (fun q => q.loc.mt == 2))

theorem zip_ok (ps : List (Nat × Word)) (rs : List ((Nat × Word) × Except Nat (Loc × Tr))) (hf : rs.map Prod.fst = ps)
    (hr : rs.all (fun y => match y.2 with | .ok _ => true | .error _ => false) = true) :
    rs = (ps.zip (rs.filterMap (fun y => match y.2 with | .ok c => some (y.1.1, c) | .error _ => none))).map (fun y => (y.1, .ok y.2.2)) := by
  induction rs generalizing ps with
  | nil => simp
  | cons r rs ih =>
    obtain ⟨k, v⟩ := r
    cases ps with
    | nil => simp at hf
    | cons p ps =>
      simp only [List.map_cons, List.cons.injEq] at hf
      simp only [List.all_cons, Bool.and_eq_true] at hr
      cases v with
      | error e => simp at hr
      | ok c =>
        simp only [List.filterMap_cons, List.zip_cons_cons, List.map_cons]
        rw [← ih ps hf.2 hr.2, hf.1]

theorem reaches_of {x : Issue} {a : Access} {rd qw : Bool} {n kind : Nat} {ps : List (Nat × Word)} (h : reachOk x a rd qw n kind ps = true) :
    ∃ s1, x.Reaches a rd qw n kind ps s1 (landed x a rd qw n ps) := by
  simp only [reachOk, Bool.and_eq_true, beq_iff_eq, bne_iff_ne, Option.isNone_iff_eq_none] at h
  obtain ⟨⟨⟨⟨⟨⟨⟨⟨h1, h2⟩, h3⟩, h4⟩, h5⟩, h6⟩, h7⟩, h8⟩, h9⟩ := h
  refine ⟨_, ⟨h1, by simpa using h2, h3, h4, ⟨(State.reach x.space a rd qw n x.s ps).1, Prod.ext rfl (zip_ok ps _ h6 h5), ?_, ?_, rfl⟩, ?_⟩⟩
  · intro c hc hp hd
    have := List.all_eq_true.1 h7 c hc
    simp [hp, hd] at this
    exact this
  · intro ha c hc hrm
    subst ha
    simp at h8
    exact (h8 c.1 c.2.1 c.2.2 hc).resolve_left (by simp [hrm])
  · intro c hc hm
    have := List.all_eq_true.1 h9 c hc
    simpa [hm] using this

def at4 : State := setS (mapped .c []) 4 0x9000

theorem meets_loads : ∃ x s1 ok, Issues (.ld (hd 0) (.v 8) ⟨4, none⟩ .b32 0) at4 x ∧ x.acquiring = false ∧ x.bankPending 4 (x.parts false (x.addr ⟨4, none⟩ 0 4)) = false ∧
    x.Reaches .read true false 4 0 (x.parts false (x.addr ⟨4, none⟩ 0 4)) s1 ok := by
  obtain ⟨s1, h⟩ := reaches_of (x := got (.ld (hd 0) (.v 8) ⟨4, none⟩ .b32 0) at4) (a := .read) (rd := true) (qw := false) (n := 4) (kind := 0)
    (ps := (got (.ld (hd 0) (.v 8) ⟨4, none⟩ .b32 0) at4).parts false ((got (.ld (hd 0) (.v 8) ⟨4, none⟩ .b32 0) at4).addr ⟨4, none⟩ 0 4)) (by decide +kernel)
  exact ⟨_, s1, _, got_spec (by decide), by decide, by decide, h⟩
/-- LoadsReturnMemory, StoresSetOutForTheirHome, AtomicsAndQueueWords: the checks of R168 let the participants of each word through
(reaches_of). -/
def sends (i : Instr) (a : Access) (rd qw : Bool) (n kind : Nat) (ps : Issue → List (Nat × Word)) : Bool :=
  issues i at4 (fun x => !x.acquiring && !x.engineOps && !x.busy HomeOp.syncs && !x.releaseBusy && reachOk x a rd qw n kind (ps x))

theorem meets_lda : sends (.lda (hd 0) (.v 8) ⟨4, none⟩ .b32 0) .read true false 4 6 (fun x => x.parts false (x.addr ⟨4, none⟩ 0 4)) = true := by decide +kernel
theorem meets_stores : sends (.st (hd 0) (.v 8) ⟨4, none⟩ .b32 0) .write false false 4 1 (fun x => x.parts false (x.addr ⟨4, none⟩ 0 4)) &&
    sends (.str (hd 0) (.s 8) ⟨4, none⟩ .b64 1) .write false false 8 1 (fun x => x.parts true (x.addr ⟨4, none⟩ 1 8)) &&
    sends (.bred (hd 0) (.v 8) ⟨4, none⟩ .b32 .fadd 0) .write true false 4 3 (fun x => x.parts false (x.addr ⟨4, none⟩ 0 4)) &&
    sends (.bupd (hd 0) 8 ⟨4, none⟩ .b32 .f32 0) .write true false 4 3 (fun x => x.parts false (x.addr ⟨4, none⟩ 0 4)) = true := by decide +kernel
theorem meets_atomics : ([.com, .acqrel, .unp].all fun o => sends (.atom (hd 0) 8 ⟨4, none⟩ .b32 .add o) .write true false 4 2 (fun x => x.parts false (x.addr ⟨4, none⟩ 0 4))) &&
    sends (.qenq (hd 0) (.s 8) ⟨4, none⟩ .b64 true 0 0) .write false true 64 4 (fun x => x.parts true (x.addr ⟨4, none⟩ 0 64)) &&
    sends (.qdeq (hd 0) (.v 8) ⟨4, none⟩ .b64 false 2 0) .write true true 64 4 (fun x => x.parts false (x.addr ⟨4, none⟩ 0 64)) = true := by decide +kernel

/-- qinit of a queue of 2 entries (s5 = 1), on a new header, and where another queue stands in its way; a dissolved queue; a misaligned header. -/
theorem meets_qinit : issues (.qinit (hd 0) 4 5) (setS at4 5 1) (fun x => !x.acquiring && !x.releaseBusy && reachOk x .write false true 64 5 (queuePages 0x9000 2) && x.s.queues == []) &&
    issues (.qinit (hd 0) 4 5) { setS at4 5 1 with queues := [⟨1, 1, 0x9040, 2, [(0x9000, 0)]⟩] } (fun x => !x.acquiring && !x.releaseBusy && reachOk x .write false true 64 5 (queuePages 0x9000 2) &&
      x.s.queues.any (fun y => y.covers x.space.asid 0x9000 80)) &&
    issues (.qinit (hd 0) 4 5) { at4 with queues := [⟨1, 1, 0x9000, 2, [(0x9000, 0)]⟩] } (fun x => !x.acquiring && !x.releaseBusy && (x.sreg 5).toNat % 32 == 0 &&
      (x.s.queues.find? (fun q => q.asid == x.space.asid && q.va == 0x9000)).isSome) &&
    issues (.qinit (hd 0) 4 5) (setS at4 4 0x9008) (fun x => !x.acquiring && !x.releaseBusy && (x.sreg 4).toNat % 64 != 0) = true := by decide +kernel

/-- LoadsReturnMemory, LaneMemoryScratchpadAndFences: a misaligned participant. -/
theorem meets_misaligned : issues (.ld (hd 0) (.v 8) ⟨4, none⟩ .b32 0) (setS at4 4 0x9002) (fun x => (x.parts false (x.addr ⟨4, none⟩ 0 4)).all (fun p => p.2.toNat % 4 != 0)) &&
    issues (.ldl (hd 0) (.v 8) ⟨4, none⟩ .b32 0) (setS at4 4 2) (fun x => (x.parts false (x.addr ⟨4, none⟩ 0 4)).all (fun p => p.2.toNat % 4 != 0)) = true := by decide +kernel

/-- An operation of group 0 of team 0 that is due at its home. -/
def homeOp (fn : HomeFn) : HomeOp := ⟨7, 7, 0, 0, 0, 0, 0x8000, some 0, 1, 0, false, ⟨1, 0x9000, 0x9000, 0, 0, 0, 0⟩, 4, fn, some 3, 1⟩

def lands (fn : HomeFn) (f : State → Bool := fun _ => true) : Bool :=
  let s := { one .c with homeOps := [homeOp fn] }
  s.homeOp? 7 == some (homeOp fn) && decide ((homeOp fn).due ≤ s.clock) && s.mayLand (homeOp fn) && f s

/-- StoresRegisterAtTheirHome, HomeUpdatesInPlace: an operation of each kind is due and may land; a store waits behind an earlier one to its line. -/
theorem meets_landings : ([.store [1, 2, 3, 4], .mark, .red .add 5, .bfma .z32 5 6, .atom .cas 1 2 true 8, .enq 5 false 0, .deq (.v 8) true 0] : List HomeFn).all (fun fn => lands fn) &&
    (let p := homeOp (.store [1, 2, 3, 4])
     let s := { one .c with homeOps := [{ p with id := 3 }, p] }
     s.homeOp? 7 == some p && !s.mayLand p) = true := by decide
theorem test_store_registers : (let s := { one .c with homeOps := [homeOp (.store [1, 2, 3, 4])] }
    after (.storeRegistration 7) s (fun t => t.byteAt 0 0x9000 == 1 && t.byteAt 0 0x9003 == 4 && t.byteAt 0 0x9004 == s.byteAt 0 0x9004 && t.homeOps == [])) = true := by decide +kernel
theorem test_atomic_adds : (let s := { (one .c).writePhys 0 0x9000 [0xFF, 0xFF, 0xFF, 0xFF] with homeOps := [homeOp (.atom .add 2 0 true 8)] }
    after (.homeBankOperation 7) s (fun t => t.readPhys 0 0x9000 4 == [1, 0, 0, 0])) = true := by decide +kernel

/-- A queue of 2 entries at 0x9000 with a number of entries in it, and an operation due at it. -/
def queued (n : Nat) (fn : HomeFn) : State :=
  let s : State := { one .c with queues := [⟨1, 1, 0x9000, 2, [(0x9000, 0)]⟩], homeOps := [homeOp fn] }
  (s.writePhys 0 0x9000 (leBytes 8 (2 ^ 63 + 1))).writePhys 0 0x9008 (leBytes 8 0 ++ leBytes 8 n)

/-- HomeUpdatesInPlace: a queue with room and a full one, one with an entry and an empty one, no queue at all. -/
theorem meets_queues : ([0, 1, 2].all fun n => ([.enq 5 false 1, .deq (.v 8) true 0] : List HomeFn).all (fun fn =>
      let s := queued n fn
      match s.queueAt (homeOp fn).loc with
      | some q => s.queueCount q == n && q.cap == 2 && s.mayLand (homeOp fn)
      | none => false)) &&
    lands (.enq 5 false 0) (fun s => (s.queueAt (homeOp .mark).loc).isNone) = true := by decide +kernel

/-- LaneMemoryScratchpadAndFences: addresses inside and beyond lane memory and the scratchpad; fences that wait for nothing, and a
release with a store on its way. -/
theorem meets_lane_memory : ([.ldl (hd 0) (.v 8) ⟨4, none⟩ .b32 0, .stl (hd 0) (.v 8) ⟨4, none⟩ .b32 0] : List Instr).all (fun i =>
      issues i (setS (one .c) 4 4092) (fun x => (x.parts false (x.addr ⟨4, none⟩ 0 4)).all (fun p => p.2.toNat % 4 == 0 && decide (p.2.toNat < x.la.r.lmemBytes))) &&
      issues i (setS (one .c) 4 4096) (fun x => (x.parts false (x.addr ⟨4, none⟩ 0 4)).all (fun p => decide (x.la.r.lmemBytes ≤ p.2.toNat)))) &&
    ([.lds (hd 0) (.v 8) ⟨4, none⟩ .b32 .core 0, .sts (hd 0) (.v 8) ⟨4, none⟩ .b32 .core 0] : List Instr).all (fun i =>
      issues i (setS (one .c) 4 524284) (fun x => !x.acquiring && !x.busy (fun q => q.pend.isSome || q.fn.isMark) &&
        (x.parts false (x.addr ⟨4, none⟩ 0 4)).all (fun p => x.inWindow .core 4 p.2 && (match x.window .core p.2 with
          | some (y, off, _) => (x.s.watched x.la x.sel 1 y.span y.idx off 4 true false).isNone && (x.s.watched x.la x.sel 1 y.span y.idx off 4 false true).isNone
          | none => false))) &&
      issues i (setS (one .c) 4 524288) (fun x => (x.parts false (x.addr ⟨4, none⟩ 0 4)).all (fun p => p.2.toNat % 4 == 0 && !x.inWindow .core 4 p.2))) = true := by decide +kernel
theorem meets_fences : issues (.fence (hd 0) .full) (one .c) (fun x => !x.releaseBusy && !x.busy (fun q => q.pend.isSome || q.syncs) && !x.engineOps && !x.busy (fun _ => true)) &&
    issues (.fence (hd 0) .rel) { one .c with homeOps := [homeOp (.store [1, 2, 3, 4])] } (fun x => !x.engineOps && x.busy (fun _ => true)) = true := by decide

/-! ### Hypotheses of the statements about barriers and engines -/

def modT (s : State) (f : Team → Team) : State := s.modTeam 0 f

def modBar (s : State) (f : Bar → Bar) : State := s.modBar 0 3 f

/-- BarriersTimelinesAndGang: a barrier whose count is reached and one whose count is not; a waiter; too many arrivals; a timeline. -/
theorem meets_barriers : ([0, 1].all fun n =>
      let s := modBar (one .c) (fun b => { b with expg0 := 1, expg1 := 1, arrg := n, inited := true })
      issues (.barArrive (hd 0) none 3) s (fun x => !x.enginesBusy && !x.groupBusy && !x.grp.acquiring x.grp.launched && (decide ((x.team.bar 3).arrg = (x.team.bar 3).expg) == (n == 1)))) &&
    issues (.barInit (hd 0) 4 3 true) (one .c) (fun x => x.team.waiters 3 == []) &&
    issues (.barInit (hd 0) 4 3 true) (modG (modBar (one .c) (fun b => { b with expg0 := 1 })) (fun g => { g with frags := g.frags ++ [{ Frag.blank with ent := 1, st := .blocked (.bar 3 0) }] })) (fun x => x.team.waiters 3 != []) &&
    issues (.barWait (hd 0) 4 3) (one .c) (fun x => !x.busy HomeOp.syncs) &&
    issues (.barExpect (hd 0) 4 3) (setS (one .c) 4 63) (fun x => !x.releaseBusy && (x.team.bar 3).xadd + (x.sreg 4).toNat % 64 == 63) &&
    issues (.barExpect (hd 0) 4 3) (setS (modBar (one .c) (fun b => { b with xadd := 1 })) 4 63) (fun x => !x.releaseBusy && (x.team.bar 3).xadd + (x.sreg 4).toNat % 64 == 64) &&
    ((modBar (one .c) (fun b => { b with expg0 := 1, arrg := 1 })).team? 0).any (fun t => (t.bar 3).full && (t.bar 3).fwd == none && (t.bar 3).level == .team) &&
    ((modBar (one .c) (fun b => { b with expg0 := 1, arrg := 1, level := .die, fwd := some 7 })).team? 0).any (fun t => (t.bar 3).full && (t.bar 3).fwd == some 7 && (t.bar 3).level == .die) &&
    (let s := modBar (modF (one .c) (fun f => { f with st := .blocked (.bar 3 0) })) (fun b => { b with expg0 := 1, arrg := 1 })
     (s.team? 0).any (fun t => t.res == .resident && (t.bar 3).complete.passed 0 && !s.debugHolds t 0 0 &&
       (t.groups[0]?).any (fun g => (g.frag? 0).any (fun f => f.st == .blocked (.bar 3 0) && g.frags.filter (fun y => y.ent == f.ent) == [f])))) = true := by decide
theorem meets_gang : issues (.gang (hd 0) 6) (setS (one .m) 6 1) (fun x => x.team.latch == []) &&
    issues (.gang (hd 0) 6) (setS (modT (one .m) (fun t => { t with groups := t.groups ++ t.groups })) 6 3) (fun x => x.team.latch == [] && x.team.groups.length == 2) = true := by decide

/-- MatrixWords: a gang of two of which one is missing, one whose members agree, one whose members do not; descriptors that stay in
the scratchpad, and a misaligned one. -/
def gang2 (latch : List MmaArr) : State := modT (modG (one .m) (fun g => { g with gang := 3 })) (fun t => { t with groups := t.groups ++ t.groups, latch := latch })

def arr (b : Word) : MmaArr := { grp := 1, ent := 0, tile := 1, aDesc := 0, bDesc := b, mode := .z16, gang := 3, rnd := .rne, ftz := false, sat := false, at_ := 0, ord := 0 }

def mma1 : Instr := .mma (hd 0) 0 1 2 .z16

theorem meets_mma : ([[], [arr 0], [arr 64]].all fun latch => issues mma1 (gang2 latch) (fun x => !x.acquiring && x.team.latch.all (fun m => m.grp != x.gi) && x.grp.gang == 3 &&
      [x.sreg 1, x.sreg 2].all (fun v => descOfs v % 64 == 0 && (x.s.descTeam x.team v).isSome && decide (descOfs v + operandBytes .z16 true ≤ 256 * x.la.r.scr)))) &&
    issues mma1 (setS (gang2 []) 1 1) (fun x => descOfs (x.sreg 1) % 64 != 0) &&
    issues (.accld (hd 0) 0 1) (one .m) (fun x => descOfs (x.sreg 1) % 64 == 0 && (x.s.descTeam x.team (x.sreg 1)).isSome && decide (descOfs (x.sreg 1) + 16384 ≤ 256 * x.la.r.scr)) &&
    issues (.accld (hd 0) 0 1) (one .m) (fun x => (x.s.dbgOf x.la).isNone) = true := by decide

/-- A vector group with a scan configuration, at a place in the chain. -/
def scan (pos : Option Nat) (f : Team → Team := id) : State :=
  modT (modG (one .v) (fun g => { g with scfg := some ⟨.trp, 4, 0, 0, 0, 0⟩ })) (fun t => f { t with chainPos := pos })

def idle (x : Issue) : Bool := !x.acquiring && !x.busy HomeOp.syncs && !x.releaseBusy && x.team.scanq == []

def cfgd (x : Issue) : Bool := (x.grp.scanCfg 1 x.s.nonce).isSome

/-- ScanWords: no configuration; images that fit; a carry-in that is invalid and one that is valid; the head of a chain, a carry that is
due and one that is not, a broken position and one that is only late; a position that has sent its carry, and the last one. -/
theorem meets_scan : ([.srun (hd 0), .sfix (hd 0), .scin (hd 0), .scout (hd 0)] : List Instr).all (fun i => issues i (one .v) (fun x => idle x && !cfgd x)) &&
    issues (.srun (hd 0)) (scan none) (fun x => idle x && cfgd x && decide (0 + 16384 ≤ 256 * x.la.r.scr)) &&
    ([false, true].all fun cv => issues (.sfix (hd 0)) (scan (some 1) (fun t => { t with cv := cv })) (fun x => idle x && cfgd x && x.team.cv == cv)) &&
    ([none, some 0].all fun p => issues (.scin (hd 0)) (scan p) (fun x => idle x && cfgd x && x.team.chainPos == p)) &&
    ([0, 9].all fun due => [false, true].all fun cb => issues (.scin (hd 0)) { scan (some 1) with chain := [⟨1, 1, [], 4, cb, true, due⟩] }
      (fun x => idle x && cfgd x && (x.s.carryAt x.team.seq 1).any (fun k => k.cb == cb && k.due == due))) &&
    issues (.scin (hd 0)) { scan (some 1) with broken := [⟨1, 0⟩] } (fun x => idle x && cfgd x && (x.s.carryAt x.team.seq 1).isNone && x.s.isBroken x.team.seq 0) &&
    issues (.scin (hd 0)) (scan (some 1)) (fun x => idle x && cfgd x && (x.s.carryAt x.team.seq 1).isNone && !x.s.isBroken x.team.seq 0) &&
    ([(none, false, true), (some 0, false, true), (some 0, true, false), (some 0, true, true)].all fun (p : Option Nat × Bool × Bool) =>
      issues (.scout (hd 0)) { scan p.1 (fun t => { t with cv := p.2.1, cs := !p.2.2 }) with launches := [{ loadLaunch 1 0 with r := { loadRec with teams := 2, chain := true } }] }
        (fun x => idle x && cfgd x && x.team.cv == p.2.1 && x.team.chainPos == p.1 && x.la.lastPos == 1)) = true := by decide

/-- A descriptor of one row of one byte with a stride of 8 in memory and 64 in the scratchpad, at 0x9000. -/
def descriptor (v : Nat) : State := setS (setS (((mapped .c []).writePhys 0 0x9000 (leBytes 8 (v * 2 ^ 16) ++ leBytes 8 (2 ^ 32 + 1) ++ leBytes 8 8 ++ leBytes 8 64))) 4 0x9000) 5 0x9040

def pieces (x : Issue) (a : Access) (rd : Bool) (va : Word) (n : Nat) : Bool := let r := State.reachPieces x.space a rd x.s (rangePieces va n); !r.2.1.isEmpty && r.2.2.isEmpty

/-- LayoutAndCopyWords: a descriptor that passes its tests, one that does not, misaligned addresses; the slice of a copy that names
readable bytes, and misaligned ones. -/
theorem meets_layouts : ([0, 1].all fun v => issues (.lrmk (hd 0) 6 4 5) (descriptor v) (fun x => !x.acquiring && !x.bankPending 56 [(0, x.sreg 4)] && pieces x .read true (x.sreg 4) 56 &&
      pieces x .write false (x.sreg 5) 64 && ((checkLayout ((State.reachPieces x.space .read true x.s (rangePieces (x.sreg 4) 56)).2.1.flatMap (fun p => x.s.homeBytes p.1 p.2.1)) == 0) == (v == 1)))) &&
    issues (.lrmk (hd 0) 6 4 5) (setS (descriptor 1) 4 0x9004) (fun x => !x.acquiring && (x.sreg 4).toNat % 8 != 0) &&
    issues (.lrmk (hd 0) 6 4 5) (setS (descriptor 1) 5 0x9008) (fun x => !x.acquiring && (x.sreg 4).toNat % 8 == 0 && (x.sreg 5).toNat % 64 != 0) &&
    issues (.cpy (hd 0) 4 6 7 false none) (descriptor 1) (fun x => !x.grp.acquiring x.grp.launched && !x.groupBusy && !x.engineOps && x.team.copyLatch == [] &&
      [(x.sreg 4).toNat % 64, (x.sreg 6).toNat % 8, (x.sreg 7).toNat % 64].all (fun v => v == 0) && pieces x .read true (x.sreg 4) 64) &&
    ([(0x9001, 0, 0), (0x9000, 1, 0), (0x9000, 0, 1)].all fun (p : Nat × Nat × Nat) => issues (.cpy (hd 0) 4 6 7 false none)
      (setS (setS (setS (descriptor 1) 4 (BitVec.ofNat 64 p.1)) 6 (BitVec.ofNat 64 p.2.1)) 7 (BitVec.ofNat 64 p.2.2)) (fun x => x.team.copyLatch == [])) = true := by decide +kernel

/-- Two partitions with a share pair whose stream 1 is of a kind with k = 32 and f = 12, and a number of hands dealt. -/
def pair (kind hands : Nat) : State := { one .v with
  pairs := [⟨0, 1, 10, 8, [⟨6, 0, 0, 0, 0⟩, ⟨kind, 1, 12, 0, 0⟩]⟩]
  hands := [⟨0, 1, hands, 0, 0, [], false⟩] }

def pairC (kind hands : Nat) : State := { one .c with pairs := (pair kind hands).pairs, hands := (pair kind hands).hands }

/-- The exchange word's partition has a pair, its stream fits, and whether its hand falls short. -/
def exchanges (i : Instr) (s : State) (kind : ExchKind) (n : Nat) (short : Bool) : Bool := issues i s (fun x =>
  let c := x.s.streamCfg 0 1
  let h := (x.s.hand 0 1).settle
  !x.acquiring && !x.releaseBusy && x.s.partyOf x.la.part == some (0, 0) && !h.off && c.kind == kind.needs && c.k == zCode .z32 && (match kind with | .trunc f => c.f == f | _ => true) &&
    ((c.kind != 0 && (takeSerials h.burned n (h.next 0)).any (fun q => decide (4096 * h.hands ≤ q))) == short) && (x.s.dbgOf x.la).isNone)

/-- ExchangeWords: no pair; a stream of another kind; a hand that falls short and one that does not, for each word. -/
theorem meets_exchanges : issues (.shmul (hd 0) 6 2 3 1 .z32) (one .v) (fun x => !x.releaseBusy && (x.s.partyOf x.la.part).isNone) &&
    issues (.shmul (hd 0) 6 2 3 1 .z32) (pair 2 1) (fun x => !x.acquiring && !x.releaseBusy && x.s.partyOf x.la.part == some (0, 0) && (x.s.streamCfg 0 1).kind != 1) &&
    ([0, 1].all fun n => exchanges (.shmul (hd 0) 6 2 3 1 .z32) (pair 1 n) .mul 64 (n == 0) && exchanges (.shtrunc (hd 0) 6 2 1 12 .z32) (pair 2 n) (.trunc 12) 64 (n == 0) &&
      exchanges (.shsign (hd 0) 6 2 1 .z32) (pair 3 n) .sign 64 (n == 0) && exchanges (.shin (hd 0) 6 (.own 2) 1 .z32) (pair 4 n) (.inp true) 64 (n == 0) &&
      exchanges (.shin (hd 0) 6 .other 1 .z32) (pair 4 n) (.inp false) 64 (n == 0) && exchanges (.gxch (hd 0) 4 5 6 1 3 false true) (pairC 5 n) .mat 1 (n == 0)) &&
    exchanges (.shopen (hd 0) 6 2 1 .z32) (pair 0 0) .open_ 64 false = true := by decide
theorem meets_gxch : issues (.gxch (hd 0) 4 5 6 1 3 false true) (pairC 5 1) (fun x => [x.sreg 4, x.sreg 5, x.sreg 6].all (fun v => v.toNat % 64 == 0) && decide (4 * 65536 + 16384 ≤ 256 * x.la.r.scr)) &&
    issues (.gxch (hd 0) 4 5 6 1 3 false true) (setS (pairC 5 1) 4 1) (fun x => (x.sreg 4).toNat % 64 != 0) &&
    issues (.gxch (hd 0) 4 5 6 1 3 false true) (setS (pairC 5 1) 4 524288) (fun x => [x.sreg 4, x.sreg 5, x.sreg 6].all (fun v => v.toNat % 64 == 0) && decide (256 * x.la.r.scr < (x.sreg 4).toNat + 4 * 65536 + 16384)) = true := by
  decide

def msg : Msg := ⟨9, 1, 0, 0, 0, 0, 0, 0x55, [1, 2, 3, 4, 5, 6, 7, 8], 1⟩

/-- Messages: a destination that is there and one that is not; a buffer that is misaligned or outside; a waiting message and none; a
message that arrives where a receive waits, where none does, and where the queue is full. -/
theorem meets_messages : issues (.send (hd 0) 4 5 .l8) (setS (one .c) 5 524280) (fun x => !x.acquiring && !x.releaseBusy && (x.sreg 5).toNat % 8 == 0 && decide ((x.sreg 5).toNat + 8 ≤ 256 * x.la.r.scr) &&
      x.s.teams.any (fun t => t.seq == x.team.seq && t.here && t.die == 0 && t.core / 2 == 0)) &&
    issues (.send (hd 0) 4 5 .l8) (setS (one .c) 4 0x10000) (fun x => !x.acquiring && !x.releaseBusy && x.s.teams.all (fun t => t.core / 2 != (x.sreg 4).toNat / 2 ^ 16 % 32)) &&
    issues (.send (hd 0) 4 5 .l8) (setS (one .c) 5 4) (fun x => !x.acquiring && !x.releaseBusy && (x.sreg 5).toNat % 8 != 0) &&
    issues (.send (hd 0) 4 5 .l8) (setS (one .c) 5 524288) (fun x => !x.acquiring && !x.releaseBusy && (x.sreg 5).toNat % 8 == 0 && decide (256 * x.la.r.scr < (x.sreg 5).toNat + 8)) &&
    issues (.recv (hd 0) 6 4 5 .l8 true true) { one .c with overflow := [msg] } (fun x => (x.waitingMsg (x.sreg 4) true true).isSome) &&
    issues (.recv (hd 0) 6 4 5 .l8 true true) (one .c) (fun x => (x.waitingMsg (x.sreg 4) true true).isNone && x.s.recvs == []) = true := by decide
theorem meets_arrivals : (let there (s : State) := (s.msgs.find? (fun m => m.id == 9 && decide (m.due ≤ s.clock))) == some msg && s.msgFirst msg
    let free (s : State) := s.recvs.all (fun r => !(s.recvAt r 0 0 msg.seq && matches_ msg r.match_ r.anyt r.anys))
    let s0 := { one .c with msgs := [msg] }
    let s1 := { s0 with recvs := [⟨0, 0, 3, 0x55, 8, 0, false, true⟩] }
    let s2 := { s0 with overflow := List.replicate 64 { msg with id := 3 } }
    there s0 && free s0 && there s1 && !free s1 && there s2 && free s2) = true := by decide

def handled : State := { one .c with launches := [{ loadLaunch 1 0 with r := { loadRec with traph := 0x9000 } }] }

/-- TrapsEnterAndReturn: a handler that is declared and free, none declared, one that is taken; a group whose work is not complete; a
debugger that is attached with permission 2. -/
theorem meets_traps : ([one .c, handled, modG handled (fun g => { g with handler := some 1 })].all fun s => match s.team? 0 with
      | some t => t.res == .resident && (match t.groups[0]?, s.launch? t.seq with
        | some g, some l => s.drained t 0 g && (g.frag? 0).isSome && (s.dbgOf l).isNone
        | _, _ => false)
      | none => false) &&
    (let s := { one .c with homeOps := [homeOp .mark] }
     (s.team? 0).any (fun t => (t.groups[0]?).any (fun g => !s.drained t 0 g))) &&
    ([0, 4].all fun tpc => issues (.rtt (hd 0)) (modG (one .c) (fun g => { g with handler := some 0, tpc := tpc })) (fun x => x.grp.tpc == tpc)) &&
    issues (.brkp (hd 0) 1) ({ one .c with dbg := { Dbg.reset with att := true, seq := 1 } :: List.replicate 3 Dbg.reset }.setHreg .debug 0 2) (fun x =>
      (x.s.dbgOf x.la).any (fun d => d.pending.isNone) && x.s.dbgPerm x.la.part == 2) = true := by decide
/-- R93, R250: SWTRAP enters the declared handler with its code in TVAL and the address after the word in TPC. -/
theorem test_trap : after (.trap (hd 0) 0x2A) handled (fun t => ((t.team? 0).bind (fun y => y.groups[0]?)).any (fun g =>
    g.tval == 0x2A && g.tpc == 0x8008 && g.tcause == 0x0A && g.handler == some 0 && g.frags.map Frag.pc == [0x9000])) = true := by decide

/-- SpecialRegisters: a conversion is in flight, and none. -/
theorem meets_special : issues (.rdsr (hd 0) (.s 4) .mode) (one .c) (fun x => !x.converting) &&
    issues (.rdsr (hd 0) (.s 4) .mode) (modG (one .c) (fun g => { g with flights := [⟨5, [], 0, none⟩] })) (fun x => ofFrag x && x.converting) && issues (.mark (hd 0) 4 1) (one .c) (fun x => (x.s.dbgOf x.la).isNone) = true := by decide
theorem test_mode : after (.wrsr (hd 0) 4 .mode) (setS (one .c) 4 0xFFFFFFFF) (fun t => ((t.team? 0).bind (fun y => y.groups[0]?)).any (fun g => g.mode == 0xFF01FF)) &&
    after (.rdsr (hd 0) (.s 4) .width) (one .c) (fun t => pending t (.s 4) == some 64) && after (.rdsr (hd 0) (.v 4) .laneid) (one .c) (fun t => pending t (.v 4 63) == some 63) = true := by decide

def ctx (signal : Bool) : Ctx := ⟨0, 0, 0, signal, List.replicate 8 0, List.replicate 8 0, [], 0, 0, 0, false, 0, 0⟩

/-- StreamWords: a record that is readable and one that is misaligned; a context of the stream of either kind and none; a dependence
list with room and a full one. -/
theorem meets_streams : issues (.lnch (hd 0) 3 2) ((setS stream 2 0x9000).loadMemory 0) (fun x => x.who == .stream 0 && !x.acquiring && !x.bankPending 128 [(0, x.sreg 2)] && (x.sreg 2).toNat % 64 == 0 &&
      (match x.loadWords x.s (x.sreg 2) 16 with | (s1, .ok ws) => (match x.loadWords s1 (ws.getD 12 0) 8 with | (_, .ok _) => true | _ => false) | _ => false)) &&
    issues (.lnch (hd 0) 3 2) (setS stream 2 8) (fun x => (x.sreg 2).toNat % 64 != 0) &&
    issues (.ldep (hd 0) 4 5 0) stream (fun x => (x.s.ctx? (x.sreg 4).toNat).isNone) &&
    ([false, true].all fun signal => ([.ldep (hd 0) 4 5 0, .lwait (hd 0) 4 5 0, .lsig (hd 0) 4 5 0] : List Instr).all (fun i => issues i { stream with ctxs := [ctx signal] } (fun x =>
      (x.s.ctx? (x.sreg 4).toNat).any (fun c => c.stream == x.la.stream && c.signal == signal) && !x.acquiring && !x.busy HomeOp.syncs && !x.releaseBusy))) &&
    issues (.ldep (hd 0) 4 5 0) ({ stream with ctxs := [ctx false] }.modStream 0 (fun x => { x with deps := List.replicate 8 (0, 0, 0) })) (fun x =>
      (x.s.streams[0]?).any (fun y => y.deps.length == 8)) = true := by decide +kernel

/-! ### Hypotheses of the statements about events inside the package -/

def eq (a b : State) : Bool := a == b

/-- The first group of the first team has two fragments of one branch record. -/
def joining (second : FragSt) (arrived : Lanes) : State := modG (one .c) (fun g => { g with
  frags := [{ Frag.blank with ent := 0, mask := 1, pc := 0x9000, join := some 5 }, { Frag.blank with ent := 1, mask := 2, pc := 0x9000, join := some 5, st := second }]
  joins := [⟨5, false, 0x9000, 3, arrived, none⟩] })

def bound (lvl : BarLevel) (half : Nat) (msgs : List CombMsg) (cs : List Combiner) : State := { modT (one .c) (fun t => { t with
      bars := t.bars.modify 3 (fun b => { b with level := lvl, expg0 := 1, fwd := some 7, inited := true }) }) with
  launches := [{ loadLaunch 1 0 with r := { loadRec with half := half } }]
  combMsgs := msgs
  combiners := cs }

/-- ResultsJoinsAndStalls: results that are due, the first and the last arrival at a record, a stalled barrier, an arrival of each kind
and a release. -/
theorem meets_results : (let s := modG (one .c) (fun g => { g with flights := [⟨1, [⟨.v 4 0, 7⟩], 8, none⟩], pend := [⟨3, 1, [.v 5 1], [⟨.v 5 0, 9⟩], 1, 0, 1, false⟩] })
    after (.fixedLatencyResult 0 0) s (fun t => reg t (.v 4 0) == 7 && flags t == 8) &&
    after (.pendingResultWrite 0 0 3) s (fun t => reg t (.v 5 0) == 9 && pending t (.v 5 0) == none)) = true := by decide
theorem meets_joins : ([(FragSt.ready, 0), (.atJoin, 2)].all fun (p : FragSt × Lanes) =>
    after (.joinArrival 0 0 0) (joining p.1 p.2) (fun t => ((t.team? 0).bind (fun y => y.groups[0]?)).any (fun g =>
      if p.2 == 0 then g.frags.map Frag.st == [.atJoin, .ready] && g.joins.length == 1 else g.frags.map Frag.mask == [3] && g.joins == []))) = true := by decide
theorem meets_stall : (let s := modT { modF (one .c) (fun f => { f with st := .blocked (.bar 3 0) }) with clock := 10 ^ 7, launches := [{ loadLaunch 1 0 with r := { loadRec with wdog := 1 } }] } (fun t => { t with
      bars := t.bars.modify 3 (fun b => { b with expg0 := 2, arrg := 1, lastAt := some 1, inited := true }) })
    (s.team? 0).any (fun t => (t.stall 3).isSome && t.res == .resident) && s.dbg.all (fun d => !d.att)) = true := by decide
theorem meets_combiners : (let die := bound .die 0 [⟨4, 1, 3, .die 0 0 0 false, 1⟩] []
    let pkg := bound .pkg 0 [⟨4, 1, 3, .pkg 0 0, 1⟩] []
    let cross := bound .die 1 [⟨4, 1, 3, .cross 0 0, 1⟩] [⟨1, 0, 0, false, 3, [(0, 0)], false, true, false⟩]
    let rel := bound .die 0 [⟨4, 1, 3, .release 0 0 [7], 1⟩] []
    after (.combinerArrival 4) die (fun t => t.combMsgs.map CombMsg.to_ == [.release 0 0 [4]]) && after (.combinerArrival 4) pkg (fun t => t.combMsgs.all (fun m => m.id != 4)) &&
    after (.combinerArrival 4) cross (fun t => t.combMsgs.map CombMsg.to_ == [.release 0 0 [0]]) &&
    after (.combinerRelease 4) rel (fun t => (t.team? 0).any (fun y => (y.bar 3).phase == 1))) = true := by decide

def ctxs : List Ctx := [⟨0, 0, 0, false, List.replicate 8 0, List.replicate 8 2, [], 0, 0, 0, false, 0, 0⟩]

def scan0 : ScanCfg := ⟨.trp, 1, 0, 16384, 32768, 49152⟩

/-- EngineCompletions: an accepted operation of each unit is the oldest of its groups and nothing holds it; a scin waits for a carry that
has come. -/
theorem meets_engines : (let s := modT { one .m with ctxs := ctxs } (fun t => { t with mats := [⟨1, [(0, 0)], .zero 3, 1⟩], acc := [(4096 * 3, 7)] })
    (s.launch? 1).any (fun l => !s.cmdHeld l 2 1) && after (.matrixOperationComplete 0 1) s (fun t => (t.team? 0).any (fun y => y.mats == [] && y.acc == []) && t.timeline 0 2 == 1)) = true := by decide +kernel
theorem meets_copy : (let y : Slice := ⟨0, 0, 0x9000, ⟨0, 0, 1, 8, 8, 64, 0, 0⟩, 0x9000, 0, false, none⟩
    let s := modT { (mapped .c []).writePhys 0 0x9000 [1, 2, 3, 4, 5, 6, 7, 8] with ctxs := ctxs } (fun t => { t with xfers := [⟨1, [y], [(0x9000, 0, 8)], 1, [], []⟩] })
    (s.launch? 1).any (fun l => !s.cmdHeld l 1 1) &&
      after (.copyTransferComplete 0 1) s (fun t => (t.team? 0).any (fun z => z.xfers == [] && z.scratchBytes 0 8 == [1, 2, 3, 4, 5, 6, 7, 8]) && t.timeline 0 1 == 1)) = true := by decide +kernel
theorem meets_copy_fault : (let y : Slice := ⟨0, 0, 0x9000, ⟨0, 0, 1, 8, 8, 64, 0, 0⟩, 0x40000000, 0, false, none⟩
    let s := modT { mapped .c [] with ctxs := ctxs } (fun t => { t with xfers := [⟨1, [y], [(0x40000000, 0, 8)], 1, [], []⟩] })
    after (.copyTransferComplete 0 1) s (fun t => (t.team? 0).any (fun z => z.xfers.map Xfer.waiting == [[0x40000]]))) = true := by decide +kernel
theorem meets_scan_unit : (let s := modT { one .v with ctxs := ctxs } (fun t => { t with scanq := [⟨.fix, 1, 0, scan0, .rne, false, [], false, 1⟩] })
    (s.launch? 1).any (fun l => !s.cmdHeld l 3 1) && (s.team? 0).any (fun t => t.scanq.length == 1)) = true := by decide +kernel
theorem meets_carry : ([false, true].all fun cb =>
    let s := modF { scan (some 1) with chain := [⟨1, 1, [(0, 5)], 4, cb, true, 1⟩] } (fun f => { f with st := .blocked .scin })
    (s.team? 0).any (fun t => t.here) && (s.carryAt 1 1).any (fun k => k.cb == cb) &&
      after (.carryDelivery 0) s (fun t => (t.team? 0).any (fun y => y.cv && y.cb == cb && (cb || Cells.get 0 y.cin 0 == 5)))) &&
    (let s := modF { scan (some 1) with broken := [⟨1, 0⟩] } (fun f => { f with st := .blocked .scin })
     (s.carryAt 1 1).isNone && s.isBroken 1 0) = true := by decide

/-- An exchange of one party that has sent its first round. -/
def exch (party : Nat) (kind : ExchKind) (x : Nat) (got : List Word) : Exch :=
  ⟨11, 0, 0, 0x8000, kind, .z32, 0, party, 1, 0, [(0, 0, x, 0)], 6, some 3, 1, 0, 1, 1, if got == [] then [] else [(0, 1, got)], (0, 0, 0), none, [], none, none⟩

/-- SharesRecombine: each party of a shopen has received the other's word. -/
theorem meets_shares : (let a := exch 0 .open_ 5 []
    let b := exch 1 .open_ 7 []
    let a' := exch 0 .open_ 5 (b.payload Team.blank (0, 0, 7, 0))
    let b' := exch 1 .open_ 7 (a.payload Team.blank (0, 0, 5, 0))
    a'.peer 0 == [b'.payload Team.blank (0, 0, 7, 0)] && b'.peer 0 == [a'.payload Team.blank (0, 0, 5, 0)] && a'.result (0, 0, 5, 0) == 12 && b'.result (0, 0, 7, 0) == 12) = true := by decide

/-- A word of party 1 on its way to the waiting exchange of party 0. -/
def straitWord (serial : Nat) (abort : Bool) : StraitWord := ⟨21, 0, 1, serial, 1, (0, 1, false), 1, [7], abort, false, 1⟩

def waits (x : Option Exch) (w : Option StraitWord) (h : HandStream) : State :=
  modT { pair 0 1 with words := w.toList, hands := [h], ctxs := ctxs } (fun t => { t with exchs := x.toList })

/-- ExchangeEvents: a word that meets its exchange, one whose serial is burned, one that is not reached yet, one that is past; an exchange
that waits too long, and a stalled one; a hand that runs low and one that is used up. -/
theorem meets_words : (let h : HandStream := ⟨0, 1, 1, 1, 0, [], false⟩
    let there (s : State) (ab : Bool) := (s.words.find? (fun w => w.id == 21 && w.abort == ab && !w.arrived && decide (w.due ≤ s.clock))).isSome
    ([false, true].all fun ab => there (waits (some (exch 0 .open_ 5 [])) (some (straitWord 0 ab)) h) ab &&
      (State.exchOf (waits (some (exch 0 .open_ 5 [])) (some (straitWord 0 ab)) h) 0 1 0 0).isSome) &&
    there (waits none (some (straitWord 0 false)) { h with burned := [0] }) false && there (waits none (some (straitWord 0 false)) h) false &&
    there (waits none (some (straitWord 4 false)) h) false && (State.exchOf (waits none (some (straitWord 4 false)) h) 0 1 0 4).isNone) = true := by decide
theorem meets_timeouts : (let s : State := { waits (some (exch 0 .open_ 5 [])) none ⟨0, 1, 1, 1, 0, [], false⟩ with clock := 10 ^ 8 }
    s.straitTimeout 0 < s.clock - 1 ∧ (s.peerWords (exch 0 .open_ 5 [])).length = 0 ∧
    ((modF { pair 1 0 with clock := 10 ^ 8 } (fun f => { f with st := .blocked (.hand 1 0 1 1) })).team? 0).any (fun t => (t.groups[0]?).any (fun g => (g.frag? 0).isSome)) = true) := by decide
theorem meets_dealing : (let s := pair 1 0
    let c := s.streamCfg 0 1
    let h := s.hand 0 1
    s.dealing ∧ h.off = false ∧ 1 ≤ c.kind ∧ c.kind < 6 ∧ 0 < s.pairs.length ∧ min (h.fill 0) (h.fill 1) ≤ (c.high - 1) * 4096 ∧
      2 ^ 64 ≤ 4096 * (({ h with hands := 2 ^ 52 - 1 } : HandStream).hands + 1)) := by decide


/-! ### Hypotheses of the statements about launches -/

/-- A launch that waits to be placed. -/
def newLaunch (seq : Nat) (r : Rec) : Launch := { loadLaunch seq 0 with r := r, placedAt := none, spans := [⟨0, .unplaced, none, 0, .asked, none, none⟩], started := false }

def queue (ls : List Launch) : State := { State.reset with clock := 1, launches := ls, nextSeq := 9 }

/-- LaunchLife: dependences that hold; a launch that has waited long enough; a candidate that fits, a resident launch that fits, and none. -/
theorem meets_dispatch : (let w := { queue [{ newLaunch 1 loadRec with st := .waiting, deps := [(0, 1, 0)] }] with ctxs := ctxs }
    let a := { queue [newLaunch 1 loadRec] with clock := 10 ^ 8 }
    let r := queue [newLaunch 1 { loadRec with resid := true }]
    after (.launchReady 1) w (fun t => t.launches.all (fun l => l.st == .ready && l.readyAt == 1)) && decide (4000 * us ≤ 10 ^ 8) &&
    after (.aging 1) a (fun t => t.launches.all (fun l => l.aged == 1)) && (match a.candidate 0 with
      | some (l, p) => (a.heldFirst l).isNone && (a.fitSpan l p 0).isSome && !l.r.resid
      | none => false) && after (.dispatch 0) a (fun t => t.teams.any (fun y => y.here && y.die == 0 && y.groups.length == 1)) &&
    (match r.candidate 0 with
      | some (l, _) => (r.heldFirst l).isNone && l.r.resid && decide (r.residents < 4) && (r.placeAll l.seq (r.spansFor l 0)).isSome
      | none => false) && (State.reset.candidate 0).isNone && (loadLaunch 1 0).argv.length == 8) = true := by decide

/-- Every group of the team has ended. -/
def ended : State := modG (one .c) (fun g => { g with exited := g.launched })
theorem meets_team_retirement : (ended.team? 0).any (fun y => y.here && y.groups.all (fun g => g.launched &&& ~~~g.exited == 0) && y.mats == [] && y.xfers == [] && y.scanq == [] &&
    y.exchs == [] && y.latch == [] && y.copyLatch == [] && ended.msgs == []) && after (.teamRetirement 0) ended (fun t => (t.team? 0).any (fun y => y.res == .retired)) = true := by decide
theorem meets_launch_retirement : (let s := { queue [{ loadLaunch 1 0 with r := { loadRec with sigtl := 6, sigval := 5 }, spans := [⟨0, .done, none, 0, .asked, none, none⟩] }] with ctxs := ctxs }
    s.launches.all (fun l => l.st == .ready && l.spans.all (fun p => s.spanOver l.seq p)) && s.teams == [] && s.homeOps == [] &&
      (s.ctx? 0).any (fun c => !c.signal && c.stream == 0 && decide (6 < c.tls.length)) &&
      after (.launchRetirement 1) s (fun t => t.launches.all (fun l => l.st == .retired) && t.timeline 0 6 == 5)) = true := by decide

/-- A resident launch of low priority on the one core of die 0 that takes teams, and one of high priority that waits for it. -/
def contended : State :=
  let s := { one .c with
    clock := 10 ^ 8
    launches := [{ loadLaunch 1 0 with r := { loadRec with plat := 100, dur := 0, park := 1 } }, newLaunch 2 { loadRec with prio := 7 }]
    diemap := [0, 1, 1, 1, 1, 1, 1, 1] }
  s.modSec (fun x => { x with dgate := (List.range 63).map (fun c => (0, c + 1)) })

def modL (s : State) (f : Launch → Launch) : State := s.modLaunch 1 f

def withAction (a : Option Action) (s : State) : State := modL s (fun l => { l with spans := l.spans.map (fun p => { p with action := a }) })

/-- The fragment waits at a barrier. -/
def waiting : State := modF contended (fun f => { f with st := .blocked (.bar 3 0) })

/-- Preemption: a candidate that is held by a launch of lower priority; an idle span; a request where no action runs, and where one does; a drain that
has expired; a save and a flush whose teams have stopped; a parked fragment; a scrubbed core; the three orders of SMPREQ. -/
theorem meets_requests : (match contended.heldCandidate 0 with
      | some (c, _) => decide (max c.readyAt (c.placedAt.getD 0) + 1000 * us ≤ contended.clock) && contended.dieQuiet 0 && (contended.victim 0 c).isSome
      | none => false) &&
    waiting.launches.any (fun l => l.seq == 1 && waiting.spanIdle l 0 && waiting.idleWanted l 0 && l.spans.all (fun p => p.st == .resident && p.action == none)) &&
    contended.launches.any (fun l => l.seq == 1 && l.st == .ready && contended.requestSpans l none != []) &&
    (withAction (some (.drain 5 0)) contended).launches.any (fun l => l.seq == 1 && (withAction (some (.drain 5 0)) contended).requestSpans l none != [] && l.spans.all (fun p => p.action != none)) = true := by decide +kernel
theorem meets_actions : (let s := withAction (some (.drain 5 0)) contended
     s.launches.any (fun l => (l.spans.find? (fun p => p.idx == 0)).any (fun p => p.action == some (.drain 5 0))) && decide (5 < s.clock)) &&
    ([Action.save, .flush].all fun a => let s := withAction (some a) (modT contended (fun t => { t with res := .stopping }))
      s.launches.any (fun l => l.seq == 1 && (l.spans.find? (fun p => p.idx == 0)).any (fun p => p.action == some a && decide (p.due ≤ s.clock))) &&
        s.teams.all (fun t => t.res == .stopping && s.teamQuiet t)) = true := by decide +kernel
theorem meets_parking : (let s := modF contended (fun f => { f with st := .blocked (.parked 1 [5]) })
     (s.launch? 1).any (fun l => l.r.park != 0 && decide (1 + l.r.park * us < s.clock) && !s.stoppedNow 1)) &&
    (let s := contended.modSec (fun x => { x with scrubCore := [(0, 1, 0, 0)] })
     s.sec.scrubCore.any (fun c => c.1 == 0 && c.2.1 == 1) && (s.islands[0]?).all (fun i => i.st == 0)) &&
    (let s := contended.modStream 0 (fun x => { x with pseq := 1 })
     (s.streams[0]?).any (fun x => (s.launch? x.pseq.toNat).any (fun l => l.part == x.part && l.st != .retired)) &&
      (modL s (fun l => { l with spans := l.spans.map (fun p => { p with st := .saved }) })).launches.any (fun l => l.spans.any (fun p => p.st == .saved))) &&
    (2 ^ 33 / 2 ^ 32 % 4 == 2 && 2 ^ 32 / 2 ^ 32 % 4 == 1) = true := by decide +kernel
theorem meets_choice : (let rs : List Rating := [⟨1, some 300, some 4⟩, ⟨2, some 200000, some 9⟩]
    chooseAction rs 1 == some 1 && chooseAction rs 0 == some 1 && figLe (some 300) (some (1 * us * 256)) && !figLe (some 300) (some 0)) = true := by decide

/-! ### Hypotheses of the statements about the register window -/

def takes (s : State) (path : Path) (b : Blk) (off : Nat) : Bool := s.reaches path b off && (s.lockOf b off).all (fun p => !s.isLocked p)

theorem takes_spec {s path b off} (h : takes s path b off = true) : s.Takes path b off := by
  simp only [takes, Bool.and_eq_true] at h
  refine ⟨h.1, fun p hp => ?_⟩
  have := h.2
  rw [hp] at this
  simpa using this

/-- After reset PF0 reaches every register that no session owns, and none is locked. -/
theorem meets_takes : ([(.control, 0x300), (.control, 0x08), (.control, 0x10), (.control, 0x30), (.control, 0x200), (.control, 0), (.sec, 8), (.sec, 0), (.sec, 0x400),
    (.sec, 0x1000), (.sec, 0x2008), (.hostLink, 0), (.hostLink, 0x10), (.hostLink, 8), (.config, 0x100), (.xlat, 0x1010), (.xlat, 0x1018), (.xlat, 0x1028),
    (.xlat, 0x4000), (.debug, 8), (.debug, 0x18), (.debug, 0x180), (.repair, 0), (.repair, 8), (.pkg, 0)] : List (Blk × Nat)).all (fun r => takes State.reset (.pf0 0) r.1 r.2) = true := by decide

def withTdi (t : Tdi) (s : State) : State := s.modSec (fun x => { x with tdi := [t, t, t, t] })

/-- The owner session of partition 0. -/
def owned (s : State) : State := s.modSec (fun x => { x with sessions := [⟨.vf 0 0, 1, some 0, true, 7, none, 0⟩] })

/-- RegistersAndPaths: a register that a path does not reach, a locked one, the audit mask, and readings that are answered and withheld. -/
theorem meets_paths : !State.reset.reaches (.vf 0 1) .sec 0x1400 && (withTdi .locked State.reset).reaches (.pf0 0) .hostLink 0 && ((withTdi .locked State.reset).lockOf .hostLink 0).any (withTdi .locked State.reset).isLocked &&
    takes (owned State.reset) (.owner 0) .sec 0x1400 && State.reset.reaches (.vf 0 0) .sensor 0 && State.reset.answered 0 0 (.vf 0 0) && !(withTdi .locked State.reset).answered 0 0 (.pf0 0) &&
    (withTdi .locked State.reset).reaches (.pf0 0) .sensor 0 && State.reset.reaches (.pf0 0) .power 8 && State.reset.hasPart 0 && !State.reset.hasPart 3 = true := by decide
/-- R394: a write to a locked register ends the partition's launches and raises the alarm of source 3. -/
theorem test_error : after (.registerWrite (.pf0 0) .hostLink 0 5) (withTdi .locked (one .c)) (fun t => t.tdiOf 0 == .error && t.sec.alarm == 1 &&
    t.launches.all (fun l => l.status != 0) && t.sec.log.map AlarmEvent.src == [3]) = true := by decide +kernel

def slot (st : SlotSt) : KeySlot := ⟨st, 0, 0, 5, []⟩

/-- A machine with key slot 1 in use by partition 0 and a stream opened under it. -/
def keyed : State := { State.reset with clock := 10 ^ 6 }.modSec (fun x => { x with
  slots := [(1, slot .live)], cins := [⟨0, 9, 1, 0, 4, List.replicate 32 0⟩] })

/-- The register holds a value. -/
def put (b : Blk) (off : Nat) (v : Word) (s : State) : State := s.setHreg b off v

/-- The fields of a handle of generation 0 of slot 1 of partition 0. -/
theorem handle_fields (T : Nat) (h : T < 2 ^ 32) (w : Word) (hw : w = BitVec.ofNat 64 (T * 2 ^ 32 + 2 ^ 20)) :
    field w 63 32 = T ∧ field w 31 0 = 2 ^ 20 ∧ field w 31 30 = 0 ∧ field w 29 20 = 1 ∧ field w 19 0 = 0 := by
  have f : w.toNat = T * 2 ^ 32 + 2 ^ 20 := by rw [hw]; simp only [BitVec.toNat_ofNat]; omega
  refine ⟨?_, ?_, ?_, ?_, ?_⟩ <;> simp only [field, bits, f] <;> omega
theorem leNat_below (bs : List Byte) : leNat bs < 256 ^ bs.length := by
  induction bs with
  | nil => simp [leNat]
  | cons b bs ih => simp [leNat, Nat.pow_succ]; have := b.isLt; omega
theorem tag_below (s : State) (low : Nat) : s.handleTag low < 2 ^ 32 := by
  refine Nat.lt_of_lt_of_le (leNat_below _) ?_
  have h : (bytesOf (List.take 4 (cmac (drawnKey (s.sec.epoch + 3) 32) (natsOf (beBytes 4 low))))).reverse.length ≤ 4 := by
    simp only [bytesOf, List.length_reverse, List.length_map, List.length_take]; omega
  exact Nat.le_trans (Nat.pow_le_pow_right (by decide) h) (by decide)
/-- The handle of slot 1 passes the four tests. -/
theorem handle_ok (s : State) (hk : s.keySlot 1 = slot .live) : s.handleOk 0 (s.handleOf 1) = true := by
  have h := tag_below s (2 ^ 20)
  have e : s.handleOf 1 = BitVec.ofNat 64 (s.handleTag (2 ^ 20) * 2 ^ 32 + 2 ^ 20) := by
    unfold State.handleOf
    simp [hk, slot]
  obtain ⟨a, b, c, d, g⟩ := handle_fields _ h _ e
  simp only [State.handleOk, State.handleNames, a, b, c, d, g, hk]
  simp [slot]
theorem meets_handles : keyed.handleOk 0 (keyed.handleOf 1) = true ∧ keyed.handleNames 0 0 = false ∧ keyed.freeSlotOf.isSome = true := by
  refine ⟨handle_ok keyed (by decide), ?_, ?_⟩
  · simp [State.handleNames, field, bits]
  · unfold State.freeSlotOf
    rw [List.find?_isSome]
    exact ⟨2, by simp, by decide⟩
/-- KeysAndStreams: BUSY and not; a free slot; a handle that names a slot and one that does not; a range that may be scrubbed and one that may not; a
slot that is used and one that is not; a scrub that is due; a stream that is open, one that may be opened, and no room. -/
theorem meets_keys : (put .sec 0 0x8000000000000000 keyed |>.hreg .sec 0).getLsbD 63 && !(keyed.hreg .sec 0).getLsbD 63 && !keyed.sec.erased && keyed.doorOpen 0 (.pf0 0) && !(withTdi .run keyed).doorOpen 0 (.pf0 0) &&
    Cells.wf freeSlot keyed.sec.slots && decide ((keyed.keySlot 2).gen < 2 ^ 20) &&
    keyed.inPartDram 0 0x4000000000 4096 && (keyed.keySlot 1).st == .live && (keyed.saveArea 0).isNone && !keyed.slotUsed 1 &&
    ({ keyed with launches := [{ loadLaunch 1 0 with r := { loadRec with keyh := 0x100000 } }] } : State).slotUsed 1 = true := by decide +kernel
theorem meets_scrub : (let s := keyed.modSec (fun x => { x with scrubs := [⟨0, 1, 0x10000, 12, 1⟩] })
    (s.sec.scrubs.find? (fun x => x.part == 0)).any (fun x => decide (x.due ≤ s.clock)) && s.homeOps == [] && s.sec.queues.all (fun q => q.descs == [])) &&
    (keyed.cin? 0 9).isSome && (keyed.cin? 0 8).isNone && (State.unwrap (owned keyed) 0 0 8).isNone &&
    decide (((keyed.modSec (fun x => { x with cins := (List.range 64).map (fun n => ⟨0, n + 1, 1, 0, 0, []⟩) })).sec.cins.filter (fun c => c.part == 0)).length = 64) = true := by decide +kernel
/-- A copy-in queue of 4 descriptors whose first is handed over. -/
def ring (d : List CinDesc) : State := { keyed with ctxs := ctxs }.modQueue 0 (fun q => { q with base := 0x20002, cfg := 0x8000000000010000, tail := 1, descs := d })

def desc (status : Option Nat) : CinDesc := ⟨0, 0, 1, 0, List.replicate 64 0, .none, status, [], [], 1, false, false⟩

/-- HostQueuesAndPhysical: an open and a closed doorbell; a queue with a descriptor to fetch, whose context is there and not; one that has its
status; a record at each of its checks; addresses in DRAM and outside. -/
theorem meets_queue : (ring []).doorOpen 0 (.pf0 0) && !(withTdi .run (ring [])).doorOpen 0 (.pf0 0) && ((ring []).sec.queues[0]?).any (fun q => q.cfg.getLsbD 63 && !q.stop && decide (q.fetch < q.tail) && q.descs == []) &&
    (ring []).cinCtx 0 0 && !(ring []).cinCtx 0 1 && ((ring []).ecb 0 0 5 ((ring []).nextNumber 0 5)).isNone &&
    (((ring [desc (some 0)]).sec.queues[0]?).bind (fun q => q.descs.find? (fun d => d.k == 0 && !d.done))).any (fun d => d.status == some 0 && decide (d.due ≤ keyed.clock) && d.locs == []) &&
    (ring []).replicas.isEmpty = true := by decide +kernel
theorem meets_physical : inDram 0x1000 && inDram (0x1000 + 7) && !inDram 0x20000000000000 && !keyed.asleep (homeDie 0x1000) &&
    after (.hostPhysicalWrite ⟨0, 0x1000⟩ [1, 2]) keyed (fun t => t.byteAt 0 0x1000 == 1 && t.byteAt 0 0x1001 == 2 && t.byteAt 0 0x1002 == 0) = true := by decide +kernel

/-! ### Hypotheses of the statements about interfaces, pages, debug, regions, errors and power -/

/-- A configuration of one partition and no pair. -/
def cfg : List Word := [0x4B59395000010100, 0] ++ List.replicate 30 0

def stage (ws : List Word) (s : State) : State := ws.zipIdx.foldl (fun s w => s.setHreg .config (8 * w.2) w.1) s

/-- ConfigurationAndInterfaces: a record that passes its tests and one that does not; each state of a TDI; a session of PF0. -/
theorem meets_config : parseConfig cfg == some (List.replicate 8 0, []) && (parseConfig (cfg.set 2 1)).isSome && (parseConfig (cfg.set 20 1)).isNone &&
    after (.configCommit (.pf0 0)) (stage cfg State.reset) (fun t => t.fuses.config == some cfg && t.hreg .config 0x100 == 1) &&
    after (.configCommit (.pf0 0)) (stage (cfg.set 0 0) State.reset) (fun t => t.fuses.config == none) = true := by decide +kernel
theorem meets_interfaces : State.reset.tdiOf 0 == .unlocked && (withTdi .locked State.reset).tdiOf 0 == .locked && State.reset.sec.ideDead == [] && State.reset.sec.stopping == [] && State.reset.liveOf 0 == [] &&
    (let s := State.reset.modSec (fun x => { x with ide := [true, true], sessions := [⟨.pf0 0, 1, none, true, 7, none, 0⟩] })
     s.ideSecure 0 && s.sec.sessions.any (fun x => x.owner == none && x.done)) = true := by decide
/-- R393: a lock, and a start that follows it. -/
theorem test_lock : after (.lockInterface 0 (State.reset.tdiLink 0)) State.reset (fun t => t.tdiOf 0 == .locked && after (.startInterface 0) t (fun u => u.tdiOf 0 == .run)) = true := by decide

def peered (e1 : Word) : State := put .peer 0x100 2 (put .peer 8 e1 (put .peer 0 0x103 { State.reset with peerDown := [] }))

/-- SessionsAndPeers: a connection that has begun and one that has got so far; sessions of both kinds; a request for another package, with
a link and without, one that is refused and one that is served. -/
theorem meets_mail : State.reset.mailOpen (.pf0 0) && State.reset.mailStep (.pf0 0) == 0 &&
    (let s := (owned State.reset).modSec (fun x => { x with mail := [⟨(.pf0 0), 3⟩, ⟨.vf 0 0, 3⟩] })
     s.mailStep (.pf0 0) == 3 && (s.sessionOn (.vf 0 0) 1 true).isSome && (s.sessionOn (.vf 0 0) 1 false).isNone && (s.sessionOn (.vf 0 0) 2 true).isNone &&
       ((s.modSec (fun x => { x with sessions := [⟨.pf0 0, 1, none, false, 7, none, 0⟩] })).sessionOn (.pf0 0) 1 false).isSome) = true := by decide
theorem meets_peers : !(State.reset.hreg .peer 0).getLsbD 8 && (peered 0).hreg .peer 0 == 0x103 && (peered 0x8000000000050001).peerLink 5 == some 0 && ((peered 0).peerLink 5).isNone &&
    (peered 0).refusesPeer ⟨2, 3, 0, 0x1000, 8, .read⟩ && !(peered 0).refusesPeer ⟨1, 3, 0, 0x1000, 8, .read⟩ && !(peered 0).asleep (homeDie 0x1000) &&
    after (.peerRequest ⟨1, 3, 0, 0x1000, 8, .write [7, 7, 7, 7, 7, 7, 7, 7]⟩) (peered 0) (fun t => t.readPhys 0 0x1000 8 == List.replicate 8 7) = true := by decide +kernel

/-- PagesAndStreamStart: an idle stream whose table lies in the partition's DRAM, and outside; a team that waits for a page; an invalidation
in its register, one that is due; a mask that takes ways away. -/
theorem meets_pages : (match State.reset.streams[0]? with | some x => State.reset.doorOpen x.part (.pf0 0) && x.st == .idle && State.reset.inPartDram x.part x.ctab.toNat 1024 | none => false) &&
    after (.smpcWrite 0 0x9000 (.pf0 0)) (State.reset.modStream 0 (fun x => { x with ctab := 0xFF0000000000 })) (fun t => (t.streams[0]?).any (fun y => y.st == .faulted && y.cause == 6)) &&
    (let t := { loadTeam 0 1 0 .c with pages := [(1, 5)] }
     t.pages.contains (1, 5) && !t.pages.contains (1, 6) && t.faults == []) &&
    (let s := { State.reset with invals := [⟨0, 1, 0x9000, 12, false, 0⟩] }
     (s.invals.find? (fun i => i.part == 0)).any (fun i => decide (i.due ≤ s.clock)) && s.homeOps == [] && s.sec.queues.all (fun q => q.descs == [])) &&
    (State.reset.hreg .xlat 0x4000 &&& ~~~((0xFF : Word) &&& 0xFFFF)) != 0 && (State.reset.hreg .xlat 0x4000 &&& ~~~((0xFFFF : Word) &&& 0xFFFF)) == 0 &&
    (({ State.reset with wayChanges := [(0, 0, 0xFF)] } : State).wayChanges.find? (fun c => c.1 == 0 && c.2.1 == 0)).isSome = true := by decide +kernel
theorem test_smpc : after (.smpcWrite 0 0x9007 (.pf0 0)) (State.reset.modStream 0 (fun x => { x with arg := 11 })) (fun t => (t.streams[0]?).any (fun y =>
    y.st == .running && y.pc == 0x9000 && Cells.get 0 y.s 0 == 11)) = true := by decide +kernel

/-- Launch 1 with a debugger on it that may read and write. -/
def debugged (stopped : Bool) : State := put .debug 0 2 { one .c with dbg := { Dbg.reset with att := true, seq := 1, stopped := stopped } :: List.replicate 3 Dbg.reset }

/-- DebugBlock: nothing attached; a running launch and a stopped one; a fragment that is selected; a place that translates and one that
does not; a pending stop; a comparator on the next word. -/
theorem meets_debug : ((State.reset.dbg[0]?).bind Dbg.step).isNone && (State.reset.attached 0).isNone && !(debugged true).dbgBusy 0 && (debugged true).dbgPerm 0 == 2 && Cells.wf 0 (debugged true).hregs &&
    (match (debugged true).attached 0 with
      | some (d, l) => d.stopped && (match (debugged true).selected 0 d with
        | some x => ((debugged true).selFrag l x).isSome && ((debugged true).selGroup l x).isSome
        | none => false)
      | none => false) && ((debugged false).attached 0).any (fun y => !y.1.stopped) &&
    (let s := (put .debug 0x28 0xFFFF000000000000 (debugged true)).modDbg 0 (fun d => { d with fsel := none })
     (s.dbg[0]?).any (fun d => s.selected 0 d == none)) = true := by decide +kernel
theorem meets_debug_memory : (let s := put .debug 0 2 { mapped .c [] with dbg := (debugged true).dbg }
    let l := loadLaunch 1 0
    (s.debugPlace l .read 0x9000).2.isSome && (s.debugPlace l .write 0x9000).2.isSome && (s.debugPlace l .read 0x40000000).2.isNone) = true := by decide +kernel
theorem meets_debug_stop : (let e : StopEvent := { reason := 1, idx := 0, at_ := 0, frag := none }
    let s := (debugged false).modDbg 0 (fun d => { d with pending := some e })
    e.halts s.clock && (s.dbg[0]?).any (fun d => d.att && !d.stopped && d.pending == some e) && (s.launch? 1).any (fun l => s.teams.all (fun t => s.settled l t))) &&
    (let s := put .debug 0x80 (0x8000 + 1) (put .debug 0x10 1 (debugged false)) |> fun s => modF s (fun f => { f with pc := 0x8000 })
     (s.team? 0).any (fun y => !s.debugHolds y 0 0 && y.groups.any (fun g => g.frags.any (fun f => f.st == .ready && s.comparator y 0 f == some (0, 0)))) &&
       (s.dbg[0]?).any (fun d => d.pending.isNone)) = true := by decide +kernel

/-- MeteredRegions: a free id; a range that can be metered and one that cannot; a region that is named; one that is closing; a period that is
over; a report that does not pass. -/
theorem meets_regions : (let r : Region := ⟨0, 0, 1, 0x1000, 0x2000, 0, 0, 0, 0, true, []⟩
    let s := { State.reset with clock := 10 ^ 9 }.modSec (fun x => { x with regions := [r] })
    !s.badRange 1 0x2000 0x3000 && s.badRange 1 0x1000 0x3000 && s.badRange 1 0x2000 0x2000 && s.sec.regions.find? (fun r => r.id == 0 && r.part == 0) == some r &&
      (s.sec.regions.find? (fun r => r.id == 1)).isNone && (s.sec.regions.find? (fun y => y.id == 0 && y.closing)).isSome && Cells.wf 0 s.hregs && !s.sec.erased &&
      s.answered 0 2 (.vf 0 0) && !s.answered 0 2 (.pf0 0) && s.inPartDram 0 0x1000 0xFE0 && !s.inPartDram 0 0xFF0000000000 0xFE0 &&
      (put .sec 0x1030 1 s).hreg .sec 0x1030 != 0 && decide (s.sec.periodAt.getD 0 0 + 1000 * us ≤ s.clock)) = true := by decide +kernel
theorem meets_region_free : State.reset.freeRegion.isSome = true := by
  unfold State.freeRegion
  rw [List.find?_isSome]
  exact ⟨0, by simp, by decide⟩

def resetting (drained : Bool) : State := { one .c with clock := 10 ^ 8, dieResets := [⟨0, 1, 2, drained⟩] }

/-- ErrorsAndRepair: where errors lie; a die that cuts off others and one that does not; a reset at each of its moments; a swap. -/
theorem meets_errors : ((one .c).team? 0).any (fun y => y.here) && inDram (64 * 5) && !inDram (64 * 2 ^ 40) && State.reset.sec.alarm == 0 &&
    (State.reset.cutOff [0]).length != 64 && (put .repair 0 0x8000000000000000 State.reset |>.hreg .repair 0).getLsbD 63 && !(State.reset.hreg .repair 0).getLsbD 63 &&
    (resetting false).dieResets.any (fun r => r.die == 0 && !r.drained && decide (r.drain ≤ (resetting false).clock)) &&
    (resetting true).dieResets.any (fun r => r.die == 0 && r.drained && decide (r.due ≤ (resetting true).clock)) &&
    (State.reset.fuses.used == false && State.reset.fuses.spareOk) && (0x8000000000000002 : Word).getLsbD 63 = true := by decide +kernel
theorem test_poison : after (.uncorrectableError (.dram 5)) State.reset (fun t => t.poisonedAt 320 1 && !t.poisonedAt 384 1 && t.hreg .sensor 0x60 == 320) = true := by decide +kernel

/-- ResetsPowerAndAlarms: PKGCTL's key and another value; an island that may rest and one that wakes; both alarm codes; a fault that follows another. -/
theorem meets_power : (let s := put .power 0 2000 { State.reset with clock := 10 ^ 9, islands := State.reset.islands.map (fun i => { i with idleAt := some 0 }) }
    (s.restState 0).isSome && (s.restState 1).isSome) && 0x4B39525300000001 / 2 ^ 32 == 0x4B395253 &&
    (let s := { State.reset with islands := State.reset.islands.set 0 ⟨1, 0, none, some 0⟩ }
     (s.islands[0]?).any (fun x => x.waking == some 0)) && (0x4B39A1A3 : Word).toNat == 0x4B39A1A3 &&
    (let s := State.reset.modSec (fun x => { x with src8At := some 0 })
     s.sec.src8At == some 0 && decide (s.clock ≤ 0 + 1000000 * us)) && State.reset.sec.src8At == none &&
    (State.reset.launches.map Launch.seq).length == 0 && Cells.wf freeSlot State.reset.sec.slots = true := by decide +kernel
/-- R449: an alarm of level 3 erases the keys and ends every launch. -/
theorem test_alarm : after .tamperMeshBroken (one .c) (fun t => t.sec.alarm == 3 && t.sec.erased && t.launches.all (fun l => l.status != 0)) = true := by decide +kernel

/-! ### Hypotheses of the statements about values, issue and steps -/

/-- OneRoundingGivesTheNearestValue: a tie, an overflow, a flushed subnormal, the least normal number and a value between two. -/
theorem meets_rounding : (let r : Rounding := ⟨.rne, 0, true, .byCode⟩
    roundInt .rne 0 false 5 2 == (2, true) && roundInt .rna 0 true 5 2 == (3, true) && roundTo .f32 r false (2 ^ 200) 1 == (0x7F800000, fOF ||| fNX) &&
      roundTo .f32 r true 1 (2 ^ 140) == (0x80000000, fUF ||| fNX) && roundTo .f32 r false 1 (2 ^ 126) == (0x00800000, 0) && roundTo .f32 r false 1 3 == (0x3EAAAAAB, fNX)) = true := by decide +kernel

/-- TranscendentalWords: an element of each kind. -/
theorem meets_transcendentals : (unpack .f32 false 0x7FC00000).isNan && (unpack .f32 false 0x80000000) == .zero true && (unpack .f32 false 0x7F800000) == .inf false &&
    (unpack .f32 false 0xFF800000) == .inf true && (match unpack .f32 false 0xBF800000 with | .num true _ _ => true | _ => false) = true := by decide

/-- BlockScaleAndCodes: a block with a NaN, and one of 1/2 and a tail element: scale 127, codes 64 and 0 at width 8. -/
theorem meets_blocks : packBlock 8 .rne 0 [some (.nan false), none] == (0xFF, [0, 0], fNV) && (packBlock 8 .rne 0 [some (.num false 1 2), none] == (127, [64, 0], 0)) = true := by decide +kernel

/-- IssueChecks: a fragment whose word fails each check, waits, or issues with no lane and with lanes. -/
theorem meets_checks : ((one .c).team? 0).any (fun t => (t.groups[0]?).any (fun g => (g.frag? 0).isSome && ((one .c).launch? t.seq).isSome)) && (Instr.nop (hd 0)).wf && !(Instr.movh (hd 0) (.v 4) 2 0).wf &&
    (let s := modG (one .c) (fun g => { g with pend := [⟨3, 1, [.v 5 1], [], 1, 9, 1, false⟩] })
     after (.mov (hd 0) (.v 4) (.reg (.v 5)) .i32) s (fun t => reg t (.v 4 0) == 0 && t.clock == 1)) &&
    after (.movi (hg false 1 0) (.v 4) 5) (one .c) (fun t => reg t (.v 4 0) == 0) = true := by decide

/-- StepRunsDecodedWord: a step of a machine on which a word stands where the first fragment fetches; of one where a stream fetches; of one
with an event in its inbox; of one with nothing to do. -/
theorem meets_step : (match step (State.reset.withFetchWord 64 0x00000101807FFFFB) with
      | .next t => (t.team? 0).any (fun y => (y.groups[0]?).any (fun g => g.flights.any (fun f => f.writes.any (fun w => w.key == .v 3 5 && w.val == 0xFFFFFFFB))))
      | _ => false) &&
    (match step { State.reset with inbox := [.tamperMeshBroken] } with | .next t => t.sec.alarm == 3 && t.inbox == [] | _ => false) &&
    (match step State.reset with | .next t => t.clock == 1 | _ => false) = true := by decide +kernel

/-- EncodeThenDecode: well-formed words, a word that decodes, an event. -/
theorem meets_encode : (Instr.movi (hd 0) (.v 3) 0x7FFFFB).wf && isEvent .tamperMeshBroken && encode .tamperMeshBroken == none &&
    (encode (.movi (hd 0) (.v 3) 0x7FFFFB) == some 0x00000101807FFFFB) = true := by decide

/-- StepKeepsMemoryForm: memory after a write and after the byte is written back to what an unlisted address reads as. -/
theorem meets_memory_form : Memory.wf ((State.reset.writePhys 0 0x1000 [1, 2]).mem) && decide ((State.reset.writePhys 0 0x1000 [1, 2]).mem.length = 2) &&
    decide (((State.reset.writePhys 0 0x1000 [1, 2]).writePhys 0 0x1000 [0, 0]).mem.length = 0) = true := by decide +kernel

/-! ### Further clauses: conditions under which a word completes, waits or stops -/

/-- IssueChecks: both pipes of the core are taken; a word that reads a tile which an earlier operation still writes; a read before its
result is ready. -/
theorem meets_issue_waits : (let s := { one .c with pipes := [(unitKey (loadTeam 0 1 0 .c) 0, 9), (unitKey (loadTeam 0 1 0 .c) 1, 9)] }
    (s.team? 0).any (fun t => (s.freeUnit t true).isNone && (s.freeUnit t false).isSome)) &&
    (let s := modT (one .m) (fun t => { t with mats := [⟨1, [(0, 0)], .zero 3, 9⟩] })
     (s.team? 0).any (fun t => (t.groups[0]?).any (fun g => (g.frag? 0).any (fun f => (g.sourceWait t f ((Instr.fadd (hd 0) (.v 4) (.acc ⟨3, 0, 0⟩) (.v 3) .f32 .dyn).shape 64)).isSome &&
       (g.sourceWait t f ((Instr.fadd (hd 0) (.v 4) (.acc ⟨4, 0, 0⟩) (.v 3) .f32 .dyn).shape 64)).isNone)))) &&
    (let s := modG (one .c) (fun g => { g with mode := 0x40, flights := [⟨5, [⟨.v 5 0, 7⟩], 0, none⟩] })
     let chk (s : State) : State := { s with launches := s.launches.map (fun l => { l with r := { l.r with chk := true } }) }
     traps (.movi (hd 0) (.v 4) 1) (chk s) cSTALLCHK 0 == false && after (.iadd (hd 0) (.v 4) (.reg (.v 5)) (.v 2) .i32) (chk s) (fun t => t.teams.all (fun y => y.res == .terminated)) &&
       (match issue (.imul (hd 0) (.v 4) (.v 5) (.v 2) .i32) (chk s) with | .early c _ => c.code == cSTALLCHK | _ => false)) = true := by decide +kernel

/-- LaneMemoryScratchpadAndFences: each fence with nothing on its way, and one access of each lane memory and scratchpad word. -/
theorem meets_completions : ([.full, .acq, .rel].all fun k => issues (.fence (hd 0) k) (one .c) (fun x => !x.releaseBusy && !x.engineOps &&
      !x.busy (fun q => q.pend.isSome || q.syncs) && !x.busy (fun _ => true))) && issues (.pf (hd 0) ⟨4, none⟩ .b32 0) at4 &&
    after (.stl (hd 0) (.v 2) ⟨4, none⟩ .b32 4) (ab 0x55 0) (fun t => (t.team? 0).any (fun y => (y.groups[0]?).any (fun g => g.lmemBytes 0 16 4 == [0x55, 0, 0, 0] && g.lmemBytes 1 16 4 == [0, 0, 0, 0]))) &&
    after (.sts (hd 0) (.v 2) ⟨4, none⟩ .b32 .core 4) (setV (one .c) 2 63 0x77) (fun t => (t.team? 0).any (fun y => y.scratchBytes 16 4 == [0x77, 0, 0, 0])) &&
    after (.ldl (hd 0) (.v 4) ⟨4, none⟩ .b32 0) (one .c) (fun t => pending t (.v 4 63) == some 0) &&
    after (.lds (hd 0) (.v 4) ⟨4, none⟩ .b32 .core 0) (one .c) (fun t => pending t (.v 4 63) == some 0) = true := by decide +kernel

/-- An operation of group 0 to a page of peer 1, where the domain reaches it and where it does not. -/
def peerOp (fn : HomeFn) (up : Bool) : State × HomeOp :=
  let p := { homeOp fn with loc := ⟨1, 0x9000, 0x9000, 0, 0, 1, 0⟩ }
  ({ put .peer 8 0x8000000000050001 (put .peer 0 0x103 (one .c)) with peerDown := if up then [] else List.range 12, homeOps := [p] }, p)

/-- StoresRegisterAtTheirHome, HomeUpdatesInPlace: a page that is replicated, and one whose copies are being collapsed; a peer with a
link that is up and with none. -/
theorem meets_peer_landings : ([false, true].all fun c => let r : Replica := ⟨4, 0, 1, 0x9000, 0x9000, 12, [1], c, if c then [1] else []⟩
      let s := { one .c with homeOps := [homeOp (.store [1])], replicas := [r] }
      s.replicaOf (homeOp (.store [1])) == some r && s.mayLand (homeOp (.store [1]))) &&
    ([false, true].all fun up => ([.store [1, 2, 3, 4], .red .add 5, .bfma .z32 5 6, .atom .cas 1 2 true 8] : List HomeFn).all (fun fn =>
      let y := peerOp fn up
      y.1.homeOp? 7 == some y.2 && decide (y.2.due ≤ y.1.clock) && y.1.mayLand y.2 && (y.1.replicaOf y.2).isNone && y.1.peerOk 1 == up)) = true := by decide +kernel

/-- BarriersTimelinesAndGang: a barrier whose arrival is on its way to the combiner when it is initialised again. -/
theorem meets_forwarded : issues (.barInit (hd 0) 4 3 true) (bound .die 0 [⟨7, 1, 3, .die 0 0 0 false, 9⟩] []) (fun x => (x.team.bar 3).fwd == some 7 && x.team.waiters 3 == []) = true := by decide

/-- ResultsJoinsAndStalls: halves that are not all there, that are, and whose last team has dropped; an entry with and without a second half. -/
theorem meets_halves : (let one_ (half : Nat) (fwd other : Bool) := bound .die half [] [⟨1, 0, 0, false, 3, [(0, 7)], other, fwd, false⟩]
    (bound .die 0 [] []).testHalf 1 0 0 3 == bound .die 0 [] [] && (((one_ 0 false false).testHalf 1 0 0 3).combMsgs.map CombMsg.to_ == [.release 0 0 [7]]) &&
      ((one_ 1 true true).testHalf 1 0 0 3).combMsgs.map CombMsg.to_ == [.release 0 0 [7]] && (one_ 1 true false).testHalf 1 0 0 3 == one_ 1 true false &&
      ((one_ 1 false false).testHalf 1 0 0 3).combMsgs.map CombMsg.to_ == [.cross 0 1] &&
      ((bound .pkg 0 [] [⟨1, 0, 0, false, 3, [(0, 7)], false, false, false⟩]).testUp 1 0 0 3).combMsgs.map CombMsg.to_ == [.pkg 0 0]) &&
    (let s := modT (bound .die 0 [] []) (fun t => { t with res := .retired })
     s.teams.all (fun t => !t.bound 3 .die && t.boundAt 3 .die)) = true := by decide

/-- EngineCompletions: a unit of a copy to memory whose page is replicated, and one whose page is not. -/
theorem meets_units : ([false, true].all fun rm =>
    let y : Slice := ⟨0, 0, 0x9000, ⟨0, 0, 1, 8, 8, 64, 0, 0⟩, 0x9000, 0, true, none⟩
    let s : State := { modT { mapped .c [] with ctxs := ctxs } (fun t => { t with xfers := [⟨1, [y], [(0x9000, 0, 8)], 1, [], []⟩] }) with
      replicas := if rm then [⟨4, 0, 1, 0x9000, 0x9000, 12, [1], false, []⟩] else [] }
    let r := State.reachPieces ((loadLaunch 1 0).space 0) .write false s (rangePieces 0x9000 8)
    r.2.2 == [] && r.2.1.all (fun p => p.1.peer == 0 && !r.1.asleep (homeDie p.1.pa) && (r.1.replica? p.1.asid p.1.va).isSome == rm)) = true := by decide +kernel

/-- ExchangeEvents: an ABORT of the peer, a last word that agrees, of a lane exchange and of gxch; a hand that is short and one that is
not; the stream that runs lowest and another. -/
theorem meets_advances : ([false, true].all fun ab =>
      let x := { exch 0 .open_ 5 [] with rounds := 1 }
      let s := waits (some x) (some { straitWord 0 ab with arrived := true, tag := (exch 1 .open_ 5 []).tag }) ⟨0, 1, 1, 1, 0, [], false⟩
      (s.team? 0).any (fun t => t.here && t.exchs.find? (fun x => x.id == 11) == some x) && x.fail.isNone && x.whole.isNone && decide (x.total ≤ x.rounds) &&
        (s.peerWords x).length == 1 && (s.peerWords x).all (fun w => w.abort == ab && s.tagsAgree x w.tag)) && (exch 0 .mat 5 []).total == 1 &&
    (pair 1 0).handShort 0 1 0 1 && !(pair 1 1).handShort 0 1 0 1 &&
    (let s := { pair 1 0 with hands := [⟨0, 1, 0, 0, 0, [], false⟩, ⟨0, 0, 1, 0, 0, [], false⟩] }
     s.wanting.all (fun q => decide (s.lowFill (0, 1) ≤ s.lowFill q)) && decide (s.lowFill (0, 1) < s.lowFill (0, 0))) = true := by decide +kernel

/-- ExchangeWords: a stream that an earlier word of the group waits for, and one that no word waits for. -/
theorem meets_behind : ([false, true].all fun b => issues (.shopen (hd 0) 8 4 1 .z32)
    (if b then modG (pair 1 0) (fun g => { g with frags := g.frags ++ [{ Frag.blank with ent := 1, st := .blocked (.hand 1 0 1 4) }] }) else pair 1 0)
    (fun x => x.behind 0 1 == b)) = true := by decide

/-- LaunchLife: a candidate for which no core has room; a resident launch beside four others. -/
theorem meets_no_room : (let shut (s : State) : State := s.modSec (fun x => { x with dgate := (List.range 64).map (fun c => (0, c)) })
    (match (shut (queue [newLaunch 1 loadRec])).candidate 0 with
      | some (l, p) => ((shut (queue [newLaunch 1 loadRec])).heldFirst l).isNone && ((shut (queue [newLaunch 1 loadRec])).fitSpan l p 0).isNone
      | none => false) &&
    (let s := queue (newLaunch 5 { loadRec with resid := true } :: (List.range 4).map (fun n => { loadLaunch (n + 1) 0 with r := { loadRec with resid := true } }))
     decide (4 ≤ s.residents) && (s.candidate 0).any (fun c => c.1.seq == 5 && (s.heldFirst c.1).isNone))) = true := by decide +kernel

/-- Preemption: a launch that may be flushed; a resident launch all of whose spans have stopped; a share window that runs and one that is over. -/
theorem meets_flush : (let s := withAction (some .flush) (modL (modT contended (fun t => { t with res := .stopping })) (fun l => { l with r := { l.r with rst := true } }))
    s.launches.any (fun l => l.seq == 1 && l.r.rst && l.spans.any (fun p => p.action == some .flush && decide (p.due ≤ s.clock))) && s.teams.all (fun t => !t.noFlush && s.teamQuiet t)) &&
    (let s := withAction (some .save) (modL (modT contended (fun t => { t with res := .stopping })) (fun l => { l with r := { l.r with resid := true } }))
     s.launches.any (fun l => l.seq == 1 && l.r.resid && l.spans.all (fun p => s.saveDone 1 p))) &&
    decide ((one .c).clock < (one .c).winAt + 100 * us) && decide (contended.winAt + 100 * us ≤ contended.clock) = true := by decide +kernel
theorem test_share_window : (let s := { modL contended (fun l => { l with r := { l.r with eclass := 2 } }) with flits := [(8, 3), (16, 3)] }
    after (.linkShareWindow 0) (put .control 0x310 64 s) (fun t => t.winAt == 10 ^ 8 && t.flits == [] && t.launches.any (fun l => l.seq == 1 && l.throttled)) &&
    after (.linkShareWindow 0) (put .control 0x310 200 s) (fun t => t.launches.all (fun l => !l.throttled))) = true := by decide +kernel

/-- RegistersAndPaths, SessionsAndPeers: an owner whose session is complete and one whose is not; the debug register that it names. -/
theorem meets_vendor : (owned State.reset).sec.sessions.any (fun x => x.owner == some 0 && x.done) && State.reset.sec.sessions.all (fun x => x.owner != some 0 || !x.done) &&
    ([0x10, 0x28, 0x38, 0x40].all fun off => takes (owned State.reset) (.owner 0) .debug off && (owned State.reset).reaches (.owner 0) .debug off) && decide (0 < (owned State.reset).dbg.length) &&
    after (.vendorDefinedRequest 0 0x10 true 3) (owned State.reset) (fun t => t.hreg .debug 0x10 == 3 &&
      after (.vendorDefinedRequest 0 0x10 false 0) t (fun u => u.out == t.out ++ [.value (.owner 0) 3])) = true := by decide +kernel

/-- HostQueuesAndPhysical: a link that delivers, one that is dead and one that is not there; a record number that fires a breakpoint. -/
theorem meets_links : !(keyed.sec.ideDead.contains 0) && keyed.tdiLink 0 == 0 && !keyed.inHands 0x1000 8 &&
    after (.hostPhysicalWrite ⟨0, 0x1000⟩ [1]) (keyed.modSec (fun x => { x with ideDead := [0] })) (fun t => t.byteAt 0 0x1000 == 0) &&
    after (.hostPhysicalRead ⟨1, 0x1000⟩ 2) (keyed.modSec (fun x => { x with ideDead := [0] })) (fun t => t.out == [.bytes false [0, 0]]) &&
    (let s := put .debug 0x120 0x51 (put .debug 0x100 1 (put .debug 0x10 1 { debugged false with ctxs := ctxs }))
     (s.ecb 0 0 5 1).isSome && (s.ecb 0 0 5 2).isNone) = true := by decide +kernel

/-- MeteredRegions: a region that is closing while a transfer has still counted it, and one that none has. -/
theorem meets_closing : ([false, true].all fun b => let s := modT (one .c) (fun t => { t with xfers := [⟨1, [], [], 1, [], if b then [0] else []⟩] })
      s.teams.any (fun t => t.xfers.any (fun x => x.seen.contains 0)) == b) = true := by decide

/-! ### Witnesses of single clauses -/

/-- The records and held parts that the group has room for. -/
def room (x : Issue) : Nat := ((List.range 8).filter (fun e => !(x.grp.frags.any (fun f => f.ent == e)))).length + (8 - x.grp.held.length)

/-- The first lanes of the issuing fragment only, each with a stack depth. -/
def stacked (n : Nat) (depth : List (Nat × Nat)) : State := modF (modG (one .c) (fun g => { g with depth := depth })) (fun f => { f with mask := BitVec.ofNat 64 (2 ^ n - 1) })

/-- Where a lane returns to. -/
def back (x : Issue) (l : Nat) : Nat := leNat (x.grp.lmemBytes l (x.la.r.lmemBytes - 8 * x.grp.depthOf l) 8)

/-- JumpsByLane, CallsAndReturns: two targets, a divided call and two return addresses where no part has room; lanes at both depths; a misaligned
address on a stack; a lane that exits with a result on its way. -/
theorem meets_no_split_room : issues (.jmp (hd 0) (.v 8)) (full (setV (one .c) 8 5 64)) (fun x => whole x && room x == 0 &&
      x.lanesList.all (fun l => x.opnd 64 (.v 8) l == if l == 5 then 64 else 0)) &&
    issues (.call (hg false 1 0) 5 1) (full (setP (one .c) 1 0 true)) (fun x => part x && room x == 0 && x.lanesList.all (fun l => decide (x.grp.depthOf l < x.la.r.lmemBytes / 8))) &&
    issues (.ret (hd 0)) (full (modG (stacked 2 [(0, 1), (1, 1)]) (fun g => g.setLmem 1 4088 [64]))) (fun x => whole x && room x == 0 && x.lanesList == [0, 1] && back x 0 == 0 && back x 1 == 64) = true := by decide
theorem meets_mixed_depths : issues (.ret (hd 0)) (stacked 2 [(0, 1)]) (fun x => x.lanesList == [0, 1] && x.grp.depthOf 0 == 1 && x.grp.depthOf 1 == 0 && back x 0 == 0 && decide (1 ≤ room x) &&
      x.grp.pend == []) &&
    issues (.ret (hd 0)) (modG (stacked 2 [(0, 1)]) (fun g => g.setLmem 0 4088 [4])) (fun x => x.lanesList == [0, 1] && back x 0 == 4 && x.grp.pend == []) &&
    issues (.ret (hd 0)) (modG (stacked 2 [(0, 1)]) (fun g => { g with pend := [⟨0, 2, [.v 4 2], [], 0, 0, 9, false⟩] })) (fun x =>
      x.grp.pendsLanes (laneSet x.W (fun l => x.lanes.getLsbD l && x.grp.depthOf l == 0))) = true := by decide

/-- ExitAndRegang: a record of the word that still lacks a lane when the fragment joins it, and one that does not. -/
theorem meets_regang : ([7, 3].all fun want => issues (.regang (hd 0) none) (modG (stacked 1 []) (fun g => { g with
      frags := g.frags ++ [{ Frag.blank with ent := 1, mask := 2, pc := 0x8000, st := .atRegang }], joins := [⟨0, true, 0x8000, want, 2, none⟩] })) (fun x =>
    match x.grp.joins.find? (fun j => j.regang && j.rc == x.pc) with
    | some j => (((j.expect ||| x.frag.mask) &&& ~~~(j.arrived ||| x.frag.mask)) != 0) == (want == 7) && x.frag.mask == 1 && x.grp.frags.map Frag.ent == [0, 1]
    | none => false)) = true := by decide

/-- BracketRegistersAndInvert: an inv in progress, with lanes and with none, and one that issues again after a trap, when a lane has finished. -/
theorem meets_inv_passes : ([(false, 1), (false, 0), (true, 1)].all fun (p : Bool × Lanes) =>
    fetches (modG (modF (mapped .c [0, 0x0000038100808000]) (fun f => { f with invIn := some ⟨0x8000, 0, p.2, true, [], 2, [(0x8008, .nop (hd 0))], p.1⟩ })) (fun g =>
        g.setBracket 0 1 ⟨0, 0, 0, 0, 0, 2⟩)) (fun x ws => good x ws && x.frag.invIn.any (fun r => r.again == p.1 && r.lanes == p.2 && (r.br == 0 && r.fin == 2)) &&
      x.grp.pend == [] && x.grp.flights == [])) = true := by decide

/-- StoresRegisterAtTheirHome: what holds a store back: an earlier access of its bytes, one of a lane that a release orders, one whose value has not
come, a fence, a device access; and an earlier access that does not. -/
theorem meets_before : let p := { homeOp (.store [1, 2, 3, 4]) with pend := none }
    let q := { p with id := 3, word := 1 }
    let far := { q.loc with va := 0xA000 }
    HomeOp.Before q p ∧ HomeOp.Before { q with loc := far } { p with rel := 1 } ∧ HomeOp.Before { q with loc := far, pend := some 1 } p ∧
      HomeOp.Before { q with loc := far, fn := .mark } p ∧ HomeOp.Before { q with loc := { far with mt := 2 } } { p with loc := { p.loc with mt := 2 } } ∧
      ¬ HomeOp.Before { q with loc := far } p := by
  simp [HomeOp.Before, homeOp]

/-- HomeUpdatesInPlace: a bank operation and a queue operation whose line is poisoned. -/
theorem meets_poison : ([.red .add 5, .enq 5 false 0] : List HomeFn).all (fun fn => let s := { queued 1 fn with poisoned := [(0x240, 1)] }
    (homeOp fn).fn.isQueue == (fn != .red .add 5) && s.poisonedAt 0x9000 4 && s.mayLand (homeOp fn) && (s.queueAt (homeOp fn).loc).any (fun q => s.poisonedAt (q.place 0).1 64)) = true := by decide +kernel

/-- AtomicsAndQueueWords: a queue that qinit may dissolve, and no queue. -/
theorem meets_dissolve : ([true, false].all fun b => issues (.qinit (hd 0) 4 5) { at4 with queues := if b then [⟨1, 1, 0x9000, 2, [(0x9000, 0)]⟩] else [] } (fun x =>
    !x.acquiring && !x.releaseBusy && (x.sreg 5).toNat % 32 == 0 && reachOk x .write false true 64 5 [(0, x.sreg 4)] &&
      (x.s.queues.any (fun q => q.asid == x.space.asid && q.va == 0x9000)) == b)) = true := by decide +kernel

/-- Matrix, MatrixWords: the products of a group without a NaN, with a NaN and with infinities of one and of both signs; the modes of mma. -/
theorem meets_products : (let half (v : Nat) : FVal := unpack .bf16 false v
    let ps (vs : List Nat) := vs.filterMap (fun v => (half v).mul (half 0x3F80))
    ((half 0x7F80).mul (half 0)).isNone && (ps [0x3F80, 0xBF80]).all (fun p => !p.isNan && p != .inf false && p != .inf true) && (ps [0x7FC0]).any FVal.isNan &&
      ps [0x7F80, 0xFF80] == [.inf false, .inf true] && ps [0x7F80] == [.inf false] && (ps [0x3F80, 0xBF80]).all (fun p => decide (0 < p.frac.2)) &&
      (sumFrac (ps [0x3F80, 0xBF80])).1 == 0 && (sumFrac (ps [0x3F80, 0x3F80])).1 != 0) = true := by decide

/-- The layout record of one row of one byte, key slot 1 with an imported key, and the seal of the record under the handle 0x100000 (the value
that the model computes: a witness, no test of R229). -/
def layBytes : List Byte := leBytes 8 (1 * 2 ^ 16) ++ leBytes 8 (2 ^ 32 + 1) ++ leBytes 8 8 ++ leBytes 8 64 ++ List.replicate 24 0
def imported : Cells KeySlot := [(1, ⟨.live, 0, 0, 5, List.replicate 64 0⟩)]
def sealBytes : List Byte := [0x11, 0x97, 0x06, 0x9F, 0xEE, 0x51, 0xED, 0x83]

def sealed (sl : List Byte) (b : Word) : State :=
  let s := setS ((descriptor 1).writePhys 0 0x9038 sl) 7 b
  ({ s with launches := s.launches.map (fun l => { l with r := { l.r with keyh := 0x100000 } }) } : State).modSec (fun x => { x with slots := imported })

theorem seal_value : (sealed [] 0).sealOf 0x100000 layBytes = sealBytes := by decide +kernel
theorem seal_of (s : State) (h : s.sec.slots = imported) : s.sealOf 0x100000 layBytes = sealBytes := by
  rw [← seal_value]
  have e : (sealed [] 0).sec.slots = imported := by rfl
  simp only [State.sealOf, State.slotKey, h, e, show field 0x100000 29 20 = 1 by decide]
  rfl

/-- LayoutAndCopyWords: a sealed record whose slice fits the scratchpad, one whose seal does not match, and one whose slice does not fit; every piece
that lrmk touches is translated. -/
theorem meets_seals : ([(sealBytes, 0), (leBytes 8 0, 0), (sealBytes, 0x80000)] : List (List Byte × Word)).all (fun p => issues (.cpy (hd 0) 4 6 7 false none) (sealed p.1 p.2) (fun x =>
      let r := State.reachPieces x.space .read true x.s (rangePieces (x.sreg 4) 64)
      let bs := r.1.pieceBytes r.2.1
      let y : Slice := ⟨x.gi, x.frag.ent, x.sreg 4, layoutOf bs, x.sreg 6, x.sreg 7, false, none⟩
      !x.grp.acquiring x.grp.launched && !x.groupBusy && !x.engineOps && x.team.copyLatch == [] &&
        [(x.sreg 4).toNat % 64, (x.sreg 6).toNat % 8, (x.sreg 7).toNat % 64].all (fun v => v == 0) && r.2.2.isEmpty && bs.take 56 == layBytes && r.1.sec.slots == imported &&
        x.la.r.keyh == 0x100000 && ((bs.drop 56 == sealBytes) == (p.1 == sealBytes)) && (decide (256 * x.la.r.scr < y.top (x.team.rowsOf y)) == (p.2 != 0)))) = true := by decide +kernel
theorem meets_lrmk : issues (.lrmk (hd 0) 6 4 5) (descriptor 1) (fun x =>
    let r := State.reachPieces x.space .read true x.s (rangePieces (x.sreg 4) 56)
    let desc := r.2.1.flatMap (fun p => r.1.ownBytes x.agent x.gi x.frag.mask p.1 (r.1.homeBytes p.1 p.2.1))
    let w := State.reachPieces x.space .write false (r.2.1.foldl (fun s p => (s.askHome p.1 p.2.1).refresh1 x.coreIx p.1) r.1) (rangePieces (x.sreg 5) 64)
    r.2.2.isEmpty && r.2.1.all (fun p => p.1.mt != 2) && checkLayout desc == 0 && w.2.2.isEmpty && (match w.2.1 with | q :: _ => q.1.mt != 2 && !q.2.2.rm | [] => false)) = true := by decide +kernel

/-- ExchangeWords: gxch of a group with nothing under way; no exchange of the group is being sent. -/
theorem meets_gxch_start : ([0, 1].all fun n => issues (.gxch (hd 0) 4 5 6 1 3 false true) (pairC 5 n) (fun x => !x.sendBusy && [x.sreg 4, x.sreg 5, x.sreg 6].all (fun v => v.toNat % 64 == 0) &&
      decide (4 * 65536 + 16384 ≤ 256 * x.la.r.scr) && !x.grp.acquiring x.grp.launched && !x.groupBusy && !x.engineOps && x.team.xfers == [] && x.team.copyLatch == [] && x.team.exchs == [] && !x.behind 0 1)) &&
    issues (.shmul (hd 0) 6 2 3 1 .z32) (pair 1 1) (fun x => !x.sendBusy && !x.behind 0 1) &&
    issues (.shmul (hd 0) 6 2 3 1 .z32) (one .v) (fun x => !x.sendBusy) && issues (.shmul (hd 0) 6 2 3 1 .z32) (pair 2 1) (fun x => !x.sendBusy) &&
    (takeSerials [] 1 (2 ^ 64)).any (fun q => decide (2 ^ 64 ≤ q)) = true := by decide +kernel

/-- TrapsEnterAndReturn: a trap that a save of the team holds back, and one that a stop of the launch does; a brkp where another stop of the cycle is
pending that comes after it, and one that comes before it. -/
theorem meets_held_traps : (let s := withAction (some .save) (modT (one .c) (fun t => { t with res := .stopping }))
      ; (s.team? 0).any (fun t => s.saving t)) &&
    (let s := put .debug 0 2 { one .c with dbg := { Dbg.reset with att := true, seq := 1, stopped := true } :: List.replicate 3 Dbg.reset }
      ; (s.team? 0).any (fun t => (s.launch? 1).any (fun l => s.faultHeld l t))) &&
    (let s := modG handled (fun g => { g with handler := some 1 })
      ; (s.team? 0).any (fun t => t.groups.any (fun g => g.handler != none && g.handler != some 0)) && s.launches.all (fun l => l.r.traph != 0)) &&
    ([1, 0].all fun span =>
      let q : StopEvent := { reason := 3, idx := 0, at_ := 1, frag := some (span, 0, 0, 0) }
      issues (.brkp (hd 0) 1) (put .debug 0 2 { one .c with dbg := { Dbg.reset with att := true, seq := 1, pending := some q } :: List.replicate 3 Dbg.reset }) (fun x =>
        x.s.dbgPerm x.la.part == 2 && (x.s.dbgOf x.la).any (fun d => d.pending == some q) &&
          (({ reason := 3, idx := 0, at_ := x.s.clock, frag := some (x.team.span, x.team.idx, x.gi, x.frag.ent), age := x.frag.age } : StopEvent).before q == (span == 1)))) = true := by decide +kernel

/-- A record of one team of 64 lanes with 192 v registers and 2048 units of scratchpad that names launch context 0. -/
def goodRec : List Word := [0x8000, 0x00000040000102C0, 0x0800000F, 0, 0x10001] ++ List.replicate 11 0

/-- StreamWords: a record that passes its checks; arguments at an aligned address and at one that is not. -/
theorem meets_records : ({ State.reset with ctxs := ctxs } : State).validate 0 0 goodRec (parseRec goodRec) == 0 && (parseRec goodRec).width == 64 &&
    ([0, 1].all fun args => issues (.lnch (hd 0) 3 2) ((setS ((stream.loadMemory 0).writePhys 0 0x9060 [args]) 2 0x9000)) (fun x =>
      !x.busy (fun q => q.loc.mt == 2) && (match x.loadWords x.s (x.sreg 2) 16 with | (_, .ok ws) => (ws.getD 12 0).toNat % 8 == args.toNat | _ => false))) = true := by decide +kernel

/-- Preemption: a request of the die's own that is under way, and one that is not its own; the ratings of a launch with and without a duration that may
be flushed; a resident launch whose spans have all stopped for a flush. -/
theorem meets_ratings : (let mine (d : Option Nat) := modL (withAction (some (.drain (10 ^ 9) 0)) contended) (fun l => { l with spans := l.spans.map (fun p => { p with byDie := d }) })
      !(mine (some 0)).dieQuiet 0 && (mine (some 1)).dieQuiet 0 && (mine none).dieQuiet 0) &&
    ([0, 1000000].all fun dur =>
      let s := put .sec 0x808 32 (modL contended (fun l => { l with r := { l.r with dur := dur, rst := true } }))
      s.launches.any (fun l => l.seq == 1 && (s.ratings l s.teams [1] true).map Rating.act == [0, 1, 2] && (s.ratings l s.teams [1] true).any (fun r => r.act == 0 && r.cost.isSome == (dur != 0)))) &&
    (let s := withAction (some .flush) (modL (modT contended (fun t => { t with res := .stopping })) (fun l => { l with r := { l.r with resid := true, rst := true } }))
     s.launches.any (fun l => l.seq == 1 && l.r.resid && l.spans.all (fun p => s.flushDone 1 p)) && s.teams.all (fun t => !t.noFlush)) = true := by decide +kernel

/-- RegistersAndPaths: a counter that a partition's own interface reads and one that is withheld from PF0; a count that no region has been counted for;
a dead link; the register of the owner's permissions through a path that is not the owner's. -/
theorem meets_counts : (let s (t : Tdi) := (withTdi t State.reset).modSec (fun x => { x with counted := [0] })
      ((s .unlocked).sec.counted.contains 0 && !(s .unlocked).sec.counted.contains 1) && ([(0, true), (1, false)].all fun (p : Nat × Bool) => (s .run).answered 0 2 (.vf 0 p.1) == p.2) &&
        (s .run).reaches (.pf0 0) .sec 0x1018 && !(s .run).answered 0 2 (.pf0 0)) &&
    (let s := State.reset.modSec (fun x => { x with ideDead := [0] })
     !s.linkUp (.pf0 0) && State.reset.linkUp (.pf0 0)) && takes State.reset (.pf0 0) .sec 0x1400 = true := by decide +kernel

/-- The wrapped form of a command's kind for partition 0 with SEQ 1: its header, 64 bytes of ciphertext, its tag and zeros. -/
def wrapHead (kind : Nat) : List Byte := leBytes 8 (0x4B593957 * 2 ^ 32 + 2 ^ 16 + kind * 2 ^ 8) ++ leBytes 8 1
def wrapKey : List Nat := kdf (drawnKey 7 32) (asciiOf "KY9-WRAP") [0]
def wrapTag (kind : Nat) : List Byte :=
  bytesOf (gcmTag wrapKey (List.replicate 4 0 ++ natsOf (beBytes 8 1)) (natsOf (wrapHead kind)) (natsOf (List.replicate 64 0)))
def wrapped (kind : Nat) : State := (owned State.reset).writePhys 0 0x1000 (wrapHead kind ++ List.replicate 64 0 ++ wrapTag kind ++ List.replicate 32 0)

theorem wrap_parts (head tag : List Byte) (hh : head.length = 16) (ht : tag.length = 16) : let form := head ++ List.replicate 64 0 ++ tag ++ List.replicate 32 0
    form.length = 128 ∧ form.take 8 = head.take 8 ∧ (form.drop 8).take 8 = head.drop 8 ∧ form.take 16 = head ∧ (form.drop 0x10).take 64 = List.replicate 64 0 ∧
      (form.drop 0x50).take 16 = tag ∧ form.drop 0x60 = List.replicate 32 0 := by
  match head, hh, tag, ht with
  | [_, _, _, _, _, _, _, _, _, _, _, _, _, _, _, _], _, [_, _, _, _, _, _, _, _, _, _, _, _, _, _, _, _], _ => exact ⟨rfl, rfl, rfl, rfl, rfl, rfl, rfl⟩

/-- KeysAndStreams: a wrapped form of each kind that unwraps. -/
theorem meets_unwrap : ([0, 1] : List Nat).all (fun kind => ((wrapped kind).unwrap 0 kind 0x1000).isSome) = true := by
  have key (kind : Nat) (hk : kind = 0 ∨ kind = 1) : ((wrapped kind).unwrap 0 kind 0x1000).isSome = true := by
    have ht : (wrapTag kind).length = 16 := by
      simp only [wrapTag, bytesOf, List.length_map]
      exact gcmTag_length _ _ _ _ (kdf_length _ _ _ (by simp [drawnKey]))
    obtain ⟨h1, h2, h3, h4, h5, h6, h7⟩ := wrap_parts (wrapHead kind) (wrapTag kind) rfl ht
    have hr : (wrapped kind).readPhys 0 0x1000 128 = wrapHead kind ++ List.replicate 64 0 ++ wrapTag kind ++ List.replicate 32 0 := by
      rw [← h1]
      exact State.readPhys_writePhys ⟨rfl, rfl, rfl, rfl⟩ 0 0x1000 _
    obtain ⟨hf, hp⟩ := State.writePhys_frame (owned State.reset) 0 0x1000 (wrapHead kind ++ List.replicate 64 0 ++ wrapTag kind ++ List.replicate 32 0)
    have hp : (wrapped kind).poisoned = [] := hp rfl
    have ho : (wrapped kind).ownerSession 0 = some ⟨.vf 0 0, 1, some 0, true, 7, none, 0⟩ := by
      have e : (wrapped kind).sec = (owned State.reset).sec := by have e := congrArg State.sec hf; exact e
      unfold State.ownerSession; rw [e]; rfl
    have hd : (!aligned 0x1000 64 || !(wrapped kind).inPartDram 0 0x1000 128 || (wrapped kind).badPhys 0x1000 128) = false := by
      have e1 : (wrapped kind).diemap = (owned State.reset).diemap := by have e := congrArg State.diemap hf; exact e
      have e2 : (wrapped kind).dieResets = (owned State.reset).dieResets := by have e := congrArg State.dieResets hf; exact e
      unfold State.inPartDram State.partOf State.badPhys State.poisonedAt State.dieDown
      rw [e1, e2, hp]; decide
    unfold State.unwrap
    simp only [ho, show (0x1000 : Word).toNat = 0x1000 from rfl, hr, hd, h2, h3, h4, h5, h6, h7]
    have ha : leNat ((wrapHead kind).take 8) = 0x4B593957 * 2 ^ 32 + 2 ^ 16 + kind * 2 ^ 8 + 0 ∧ leNat ((wrapHead kind).drop 8) = 1 := by
      rcases hk with rfl | rfl <;> decide
    have hz : (List.replicate 32 (0 : Byte)).any (fun b => b != 0) = false := by decide
    simp only [ha.1, ha.2, hz]
    simp [wrapTag, wrapKey]
  simp only [List.all_cons, List.all_nil, Bool.and_true, Bool.and_eq_true]
  exact ⟨key 0 (.inl rfl), key 1 (.inr rfl)⟩

/-- An encrypted record of 64 bytes at host address 0x1000, CTR 5 of stream 9, and its tag under the key of zeros (the value that the model computes: a
witness, no test of R400). -/
def record : CinDesc := { desc none with raw := leBytes 8 0x1000 ++ leBytes 8 0x9000 ++ leBytes 8 (2 ^ 32 + 64) ++ leBytes 8 9 ++ leBytes 8 5 ++ List.replicate 24 0 }
def recorded (tag : Nat) : State := { ring [record] with hostMem := hostWrite [] 0x1040 (leBytes 16 tag) }
def peerUnit : Loc × List Byte := (⟨1, 0x9000, 0x9000, 0, 0, 1, 0⟩, List.replicate 8 1)

/-- HostQueuesAndPhysical: a record that opens and one that does not, and a source that the host fails to give; a unit for a peer with a link that is up
and with none, and one that waits for an earlier descriptor's unit at its place. -/
theorem meets_records_opened : record.badFormat == false && record.enc && record.ctr == 5 && (keyed.cin? 0 record.sid).any (fun c => decide (c.last < record.ctr)) && !errFails record.err &&
    errFails { record with err := .src 1 }.err && ([(58080300995748225641830785146209072945, true), (0, false)] : List (Nat × Bool)).all (fun t =>
      (record.opened (recorded t.1).hostMem (List.replicate 32 0)).isSome == t.2) = true := by decide +kernel
theorem meets_peer_units : ([true, false].all fun up =>
      let d := { desc (some 0) with units := [peerUnit] }
      let s := { put .peer 8 0x8000000000050001 (put .peer 0 0x103 (ring [d])) with peerDown := if up then [] else List.range 12 }
      s.peerOk 1 == up && (s.sec.queues[0]?).any (fun q => q.descs == [d]) && (s.cinBefore 0 d peerUnit == []) && (s.cinBefore 0 { d with num := 2 } peerUnit == [(d, peerUnit)])) = true := by decide +kernel

/-- SessionsAndPeers: an owner session over a link that delivers, and over a dead one. -/
theorem meets_owner_link : (owned State.reset).ownerUp 0 && !((owned State.reset).modSec (fun x => { x with ideDead := [0] })).ownerUp 0 && !State.reset.ownerUp 0 = true := by decide

/-- PagesAndStreamStart: a context table with a poisoned line; an invalidation that an access and a descriptor hold back, and none; a live queue whose
page has a translation and one whose page has none. -/
theorem meets_context_tables : ([0, 1, 15].all fun k => let s := { State.reset with poisoned := [(k, 1)] }
      s.inPartDram 0 0 1024 && s.badPhys (64 * k) 64 && (List.range k).all (fun j => !s.badPhys (64 * j) 64)) && (List.range 16).all (fun e => !State.reset.badPhys (64 * e) 64) = true := by decide +kernel
theorem meets_invalidations : (let s (ops : List HomeOp) : State := { State.reset with invals := [⟨0, 1, 0x9000, 12, false, 0⟩], homeOps := ops }
      ((s []).invals.find? (fun i => i.part == 0)).any (fun i => (s []).invalReady i && !(s [homeOp .mark]).invalReady i)) &&
    ([(0x9000, true), (0x40000000, false)] : List (Nat × Bool)).all (fun t =>
      let q : Queue := ⟨1, 1, t.1, 2, [(0x8000, 0)]⟩
      let s : State := { mapped .c [] with queues := [q] }
      let r := s.translate ⟨q.asid, 0, ((s.launch? q.seq).map Launch.slot).getD 0, homeDie (q.place 0).1, none⟩ (BitVec.ofNat 64 (q.va / 4096 * 4096)) .write
      q.frames.length == 1 && (match r.2 with | .ok _ => t.2 | .error _ => !t.2)) = true := by decide +kernel

/-- DebugBlock: events of one cycle of which one comes before the other, and a stop that is pending. -/
theorem meets_events : (let a : StopEvent := { reason := 2, idx := 0, at_ := 0, frag := some (0, 0, 0, 0) }
    let b : StopEvent := { a with frag := some (0, 0, 1, 0) }
    let s := (debugged false).modDbg 0 (fun d => { d with pending := some b })
    a.before b && !b.before a && (s.launches.all (fun l => (s.dbgOf l).bind Dbg.pending == some b))) = true := by decide +kernel

/-- MeteredRegions: a range with no access under way and one with; a region that waits for its range; a full list of imports. -/
theorem meets_defining : (let r : Region := ⟨0, 0, 1, 0x9000, 0xA000, 0, 0, 0, 0, false, []⟩
    let s (ops : List HomeOp) : State := { State.reset with homeOps := ops }
    (s []).rangeQuiet 0 1 0x9000 0xA000 && !(s [homeOp .mark]).rangeQuiet 0 1 0x9000 0xA000 &&
      (((s []).modSec (fun x => { x with defining := [(r, 0)] })).sec.defining.find? (fun x => (s []).rangeQuiet x.1.part x.1.asid x.1.base x.1.limit) == some (r, 0)) &&
      ((State.reset.modSec (fun x => { x with defining := [(r, 0)] })).badRange 1 0x9000 0xB000)) = true := by decide +kernel
theorem importing_length (n : Nat) : (State.reset.modSec (fun x => { x with imports := List.replicate n 0 })).importing.length = n := by
  simp [State.importing, State.modSec, State.reset, show Sec.reset.defining = [] from rfl]
theorem meets_full_imports : 8192 ≤ (State.reset.modSec (fun x => { x with imports := List.replicate 8192 0 })).importing.length :=
  Nat.le_of_eq (importing_length 8192).symm

/-- ErrorsAndRepair: die 3 cuts off no other die after a reset, and does where die 1 is being reset. -/
theorem meets_cuts : State.reset.cutOff (3 :: State.reset.dieResets.map DieReset.die) == [] &&
    (let s := { State.reset with dieResets := [⟨1, 1, 2, false⟩] }
     s.cutOff (3 :: s.dieResets.map DieReset.die) != []) = true := by decide

/-- SharesRecombine: each party of a gxch has received the other's tiles and kept its own. -/
theorem meets_mat_shares (ta tb : Team) : let a0 := exch 0 .mat 5 []
    let b0 := exch 1 .mat 7 []
    let p := a0.payload ta (0, 0, 5, 0)
    let q := b0.payload tb (0, 0, 7, 0)
    let a := { a0 with got := [(0, 0, p), (0, 1, q)] }
    let b := { b0 with got := [(0, 0, q), (0, 1, p)] }
    a.k = .z32 ∧ b.k = a.k ∧ a.peer 0 = [b.payload tb (0, 0, 7, 0)] ∧ b.peer 0 = [a.payload ta (0, 0, 5, 0)] ∧
      (a.got.filter (fun g => g.1 == 0 && g.2.1 == 0)).map (fun g => g.2.2) = [a.payload ta (0, 0, 5, 0)] ∧
      (b.got.filter (fun g => g.1 == 0 && g.2.1 == 0)).map (fun g => g.2.2) = [b.payload tb (0, 0, 7, 0)] := by
  simp [Exch.peer, Exch.payload, Exch.item, exch]

end Sys2Proof.Tests
end

/-! SUPPORT. The registers of the window (R388, R393, R394): the blocks that an offset lies in, what the guard of a write answers, and that
every write of a register goes through the guard at the register's own offset. -/

namespace Sys2Proof.Machine

/-! ### The blocks of equal registers -/

theorem regBlock_eq {lo sz n off k : Nat} (hk : k < n) (h1 : lo + sz * k ≤ off) (h2 : off < lo + sz * (k + 1)) :
    regBlock lo sz n off = some k := by
  have hn : sz * (k + 1) ≤ sz * n := Nat.mul_le_mul_left sz hk
  have hq : (off - lo) / sz = k := Nat.div_eq_of_lt_le (by rw [Nat.mul_comm]; omega) (by rw [Nat.mul_comm]; omega)
  have hc : (lo ≤ off && off < lo + sz * n) = true := by
    simp only [Bool.and_eq_true, decide_eq_true_eq]
    exact ⟨Nat.le_of_add_right_le h1, by omega⟩
  rw [regBlock, if_pos hc, hq]

theorem regBlock_none {lo sz n off : Nat} (h : off < lo ∨ lo + sz * n ≤ off) : regBlock lo sz n off = none := by
  rw [regBlock, if_neg]
  simp only [Bool.and_eq_true, decide_eq_true_eq]
  omega

theorem regBlock_some {lo sz n off k : Nat} (h : regBlock lo sz n off = some k) :
    k < n ∧ lo + sz * k ≤ off ∧ off < lo + sz * (k + 1) := by
  unfold regBlock at h
  split at h
  · rename_i hc
    simp only [Bool.and_eq_true, decide_eq_true_eq] at hc
    obtain rfl := Option.some.inj h
    have hs : 0 < sz := Nat.pos_of_ne_zero (fun h0 => by subst h0; omega)
    have hm := Nat.div_mul_le_self (off - lo) sz
    have hl := Nat.lt_mul_div_succ (off - lo) hs
    rw [Nat.mul_comm] at hm
    exact ⟨Nat.div_lt_of_lt_mul (by omega), by omega, by omega⟩
  · cases h

/-! ### The guard of a write -/

variable {s : State} {path : Path} {b : Blk} {off : Nat}

theorem State.guardWrite_unreached (f : State → State) (h : s.reaches path b off = false) : s.guardWrite path b off f = s := by
  simp [State.guardWrite, h]

theorem State.guardWrite_locked {p : Nat} (f : State → State) (hr : s.reaches path b off = true) (hl : s.lockOf b off = some p)
    (hp : s.isLocked p = true) : s.guardWrite path b off f = s.enterError p := by
  simp [State.guardWrite, hr, hl, hp]

theorem State.guardWrite_takes (f : State → State) (h : s.Takes path b off) : s.guardWrite path b off f = f s := by
  obtain ⟨hr, hl⟩ := h
  unfold State.guardWrite
  cases hlock : s.lockOf b off with
  | none => simp [hr]
  | some p => simp [hr, hl p hlock]

/-- A register that only holds what is written to its writable bits. -/
theorem State.writePlain_eq {m : Word} (v : Word) (hm : plainMask b off = m) (h0 : m ≠ 0) :
    s.writePlain b off v path = s.guardWrite path b off (fun s => s.put b off m v) := by
  subst hm
  exact if_neg h0

theorem State.writePlain_takes {m : Word} (v : Word) (h : s.Takes path b off) (hm : plainMask b off = m) (h0 : m ≠ 0) :
    s.writePlain b off v path = s.put b off m v := by
  rw [State.writePlain_eq v hm h0, State.guardWrite_takes _ h]

/-! ### Every write goes through the guard -/

/-- The state t that a write of a register leaves: the guard's, or the one before, of a register that no partition has locked. Only the
debug block also discards a write to a locked register before the guard (R408). -/
def State.Gated (s : State) (path : Path) (b : Blk) (off : Nat) (t : State) : Prop :=
  (∃ f, t = s.guardWrite path b off f) ∨ (t = s ∧ (b = .debug ∨ ∀ p, s.lockOf b off = some p → s.isLocked p = false))

theorem State.gated_guard (off' : Nat) (f : State → State) (h : off' = off) : s.Gated path b off (s.guardWrite path b off' f) :=
  .inl ⟨f, by rw [h]⟩

theorem State.gated_unlocked (h : s.lockOf b off = none) : s.Gated path b off s :=
  .inr ⟨rfl, .inr fun p hp => by rw [h] at hp; cases hp⟩

theorem State.gated_debug : s.Gated path .debug off s := .inr ⟨rfl, .inl rfl⟩

/-- A plain register with no writable bits is no register that a partition locks. -/
theorem State.writePlain_gated (off' : Nat) (v : Word) (ho : off' = off)
    (h : plainMask b off = 0 → b = .debug ∨ s.lockOf b off = none) : s.Gated path b off (s.writePlain b off' v path) := by
  subst ho
  by_cases hm : plainMask b off' = 0
  · rw [State.writePlain, if_pos hm]
    rcases h hm with rfl | hl
    · exact State.gated_debug
    · exact State.gated_unlocked hl
  · rw [State.writePlain_eq v rfl hm]
    exact State.gated_guard _ _ rfl

theorem State.writeStream_gated {st : Nat} (v : Word) (hst : 0x40 * st + off % 0x40 = off) (hoff : off < 0x200) :
    s.Gated path .control off (s.writeStream st (off % 0x40) v path) := by
  have hlock : s.lockOf .control off = none := by simp [State.lockOf, regBlock_none (off := off) (lo := 0x200) (sz := 8) (n := 8) (.inl hoff)]
  unfold State.writeStream
  dsimp only
  split
  · unfold State.writeSmpc
    split
    · exact State.gated_unlocked hlock
    · exact State.gated_guard _ _ (by omega)
  · exact State.gated_guard _ _ (by omega)
  · exact State.gated_guard _ _ (by omega)
  · exact State.gated_guard _ _ (by omega)
  · exact State.gated_guard _ _ (by omega)
  · exact State.gated_guard _ _ (by omega)
  · exact State.gated_unlocked hlock

theorem State.writeXlat_gated (v : Word) (h8 : off % 8 = 0) : s.Gated path .xlat off (s.writeXlat off v path) := by
  unfold State.writeXlat
  split
  next p hp =>
    obtain ⟨hp4, hlo, hhi⟩ := regBlock_some hp
    have hlock (h : off % 0x100 ≠ 0) : s.lockOf .xlat off = none := by simp [State.lockOf, hp, h]
    split
    next => exact State.gated_guard _ _ rfl
    next => apply State.gated_guard; omega
    next => apply State.gated_guard; omega
    next => apply State.gated_guard; omega
    next h _ _ _ => exact State.writePlain_gated _ v rfl (fun _ => .inr (hlock h))
  next hp =>
    split
    next hr =>
      simp only [Bool.and_eq_true, decide_eq_true_eq] at hr
      unfold State.writeWays
      split
      next hbad =>
        simp only [Bool.or_eq_true, decide_eq_true_eq] at hbad
        have h20 : ¬ off % 0x40 < 0x20 := by omega
        exact State.gated_unlocked (by simp [State.lockOf, State.regPart, hp, h20])
      next => exact State.gated_guard _ _ (by omega)
    next hr =>
      exact State.writePlain_gated _ v rfl (fun _ => .inr (by
        simp only [Bool.and_eq_true, decide_eq_true_eq] at hr
        simp [State.lockOf, State.regPart, hp, hr]))

/-- R445: the mask of ALLOW, and the partition that locks it. -/
theorem State.allow_register (s : State) {p : Nat} (hp : p < 4) :
    plainMask .sec (0x1400 + 8 * p) = 0xF ∧ s.lockOf .sec (0x1400 + 8 * p) = some p := by
  have h1 : regBlock 0 0x100 4 (0x1400 + 8 * p) = none := regBlock_none (by omega)
  have h2 : regBlock 0x400 0x40 4 (0x1400 + 8 * p) = none := regBlock_none (by omega)
  have h3 : regBlock 0x1000 0x40 4 (0x1400 + 8 * p) = none := regBlock_none (by omega)
  have h4 : regBlock 0x800 0x10 4 (0x1400 + 8 * p) = none := regBlock_none (by omega)
  have h5 : regBlock 0x1400 8 4 (0x1400 + 8 * p) = some p := regBlock_eq hp (by omega) (by omega)
  have h8 : (0x1400 + 8 * p) % 8 = 0 := by omega
  exact ⟨by simp [plainMask, h1, h2, h3, h5, h8], by simp [State.lockOf, h4, h5]⟩

theorem State.writeAllow_gated {p : Nat} (v : Word) (hp : p < 4) (ho : 0x1400 + 8 * p = off) :
    s.Gated path .sec off (s.writeAllow p v path) := by
  subst ho
  obtain ⟨hmask, hlock⟩ := s.allow_register hp
  unfold State.writeAllow
  split
  next => exact State.writePlain_gated _ v rfl (fun h => by rw [hmask] at h; cases h)
  next h =>
    simp only [Bool.or_eq_true, decide_eq_true_eq, not_or, Bool.not_eq_true] at h
    refine .inr ⟨rfl, .inr fun q hq => ?_⟩
    rw [hlock] at hq
    exact Option.some.inj hq ▸ h.2

theorem State.writeSecReg_gated (v : Word) (h8 : off % 8 = 0) : s.Gated path .sec off (s.writeSecReg off v path) := by
  have plain (h1 : regBlock 0x800 0x10 4 off = none) (h2 : regBlock 0x1400 8 4 off = none) :
      s.Gated path .sec off (s.writePlain .sec off v path) :=
    State.writePlain_gated _ v rfl (fun _ => .inr (by simp [State.lockOf, h1, h2]))
  unfold State.writeSecReg
  split
  next p hp =>
    obtain ⟨hp4, hlo, hhi⟩ := regBlock_some hp
    split
    · apply State.gated_guard; omega
    · exact plain (regBlock_none (by omega)) (regBlock_none (by omega))
  next p _ hp =>
    obtain ⟨hp4, hlo, hhi⟩ := regBlock_some hp
    split
    · apply State.gated_guard; omega
    · exact plain (regBlock_none (by omega)) (regBlock_none (by omega))
  next p _ _ hp =>
    obtain ⟨hp4, hlo, hhi⟩ := regBlock_some hp
    apply State.gated_guard; omega
  next p _ _ _ hp =>
    obtain ⟨hp4, hlo, hhi⟩ := regBlock_some hp
    split
    · apply State.gated_guard; simp only [mreg]; omega
    split
    · apply State.gated_guard; simp only [mreg]; omega
    · exact plain (regBlock_none (by omega)) (regBlock_none (by omega))
  next _ _ h800 _ =>
    split
    next p hp =>
      obtain ⟨hp4, hlo, hhi⟩ := regBlock_some hp
      exact State.writeAllow_gated v hp4 (by omega)
    next h1400 =>
      split
      · apply State.gated_guard; omega
      · exact plain h800 h1400

theorem State.writeLinkReg_gated (v : Word) (h8 : off % 8 = 0) : s.Gated path .hostLink off (s.writeLinkReg off v path) := by
  unfold State.writeLinkReg
  split
  next p hp =>
    obtain ⟨hp4, hlo, hhi⟩ := regBlock_some hp
    split
    next => apply State.gated_guard; omega
    next => apply State.gated_guard; omega
    next => apply State.gated_guard; omega
    next h0 h1 _ => exact State.gated_unlocked (by simpa [State.lockOf] using fun h => (h.elim h0 h1).elim)
  next p hq hp =>
    obtain ⟨hp4, hlo, hhi⟩ := regBlock_some hp
    have hlock : s.lockOf .hostLink off = none := by simp [State.lockOf, hq]
    unfold State.writeTdia
    split
    · exact State.writePlain_gated _ v (by omega) (fun _ => .inr hlock)
    · exact State.gated_unlocked hlock
  next hq _ => exact State.gated_unlocked (by simp [State.lockOf, hq])

theorem State.writeDebugReg_gated (v : Word) (h8 : off % 8 = 0) : s.Gated path .debug off (s.writeDebugReg off v path) := by
  unfold State.writeDebugReg
  split
  next => exact State.gated_debug
  next p hp =>
    obtain ⟨hp4, hlo, hhi⟩ := regBlock_some hp
    dsimp only
    split
    next i hi =>
      obtain ⟨hi8, hilo, hihi⟩ := regBlock_some hi
      apply State.gated_guard; omega
    next =>
      split
      next h =>
        unfold State.writeDbgperm
        split
        · exact State.writePlain_gated _ v (by omega) (fun _ => .inl rfl)
        · exact State.gated_debug
      next => apply State.gated_guard; omega
      next => apply State.gated_guard; simp only [dbgCmdOff]; omega
      next => exact State.writePlain_gated _ v rfl (fun _ => .inl rfl)

theorem State.writePeer_gated (v : Word) (h8 : off % 8 = 0) :
    s.Gated path .peer off (if off < 0x100 then s.writePeers off v path else s.writePlain .peer off v path) := by
  split
  next h =>
    have hlock : s.lockOf .peer off = none := regBlock_none (.inl h)
    unfold State.writePeers
    split
    · exact State.gated_unlocked hlock
    · exact State.writePlain_gated _ v rfl (fun _ => .inr hlock)
  next h =>
    refine State.writePlain_gated _ v rfl (fun hm => ?_)
    cases hb : regBlock 0x100 8 4 off with
    | none => exact .inr hb
    | some p =>
      have h0 : off ≠ 0 := by omega
      simp [plainMask, h, h0, hb, h8] at hm

/-- R388, R393: what a write of an aligned register does. -/
theorem State.writeReg_gated (v : Word) (h8 : off % 8 = 0) : s.Gated path b off (s.writeReg path b off v) := by
  have free (hb : s.lockOf b off = none) : s.Gated path b off (s.writePlain b off v path) :=
    State.writePlain_gated _ v rfl (fun _ => .inr hb)
  unfold State.writeReg
  rw [if_neg (by omega)]
  cases b with
  | control =>
    dsimp only
    split
    next st hst =>
      obtain ⟨hst8, hlo, hhi⟩ := regBlock_some hst
      exact State.writeStream_gated v (by omega) (by omega)
    next st _ hst =>
      obtain ⟨hst8, hlo, hhi⟩ := regBlock_some hst
      apply State.gated_guard; omega
    next _ h => exact free (by simp [State.lockOf, h])
  | xlat => exact State.writeXlat_gated v h8
  | sec => exact State.writeSecReg_gated v h8
  | hostLink => exact State.writeLinkReg_gated v h8
  | peer => exact State.writePeer_gated v h8
  | config =>
    dsimp only
    split
    · apply State.gated_guard; omega
    · exact free rfl
  | debug => exact State.writeDebugReg_gated v h8
  | sensor => exact State.gated_unlocked rfl
  | repair =>
    dsimp only
    split
    · apply State.gated_guard; omega
    split
    · apply State.gated_guard; omega
    · exact State.gated_unlocked rfl
  | power =>
    dsimp only
    split
    · apply State.gated_guard; omega
    · exact free rfl
  | pkg =>
    dsimp only
    split
    · apply State.gated_guard; omega
    · exact State.gated_unlocked rfl

/-- R388, R394: a write through a path that does not reach the register changes nothing. -/
theorem State.writeReg_unreached (v : Word) (h : off % 8 ≠ 0 ∨ s.reaches path b off = false) : s.writeReg path b off v = s := by
  by_cases h8 : off % 8 = 0
  · have hr : s.reaches path b off = false := h.resolve_left (fun hne => hne h8)
    obtain ⟨f, hf⟩ | ⟨hs, -⟩ := State.writeReg_gated (s := s) (path := path) (b := b) v h8
    · rw [hf, State.guardWrite_unreached f hr]
    · exact hs
  · exact if_pos h8

/-- R393, R394: a write to a register that its partition has locked turns the TDI to ERROR. -/
theorem State.writeReg_locked {p : Nat} (v : Word) (h8 : off % 8 = 0) (hb : b ≠ .debug) (hr : s.reaches path b off = true)
    (hl : s.lockOf b off = some p) (hp : s.isLocked p = true) : s.writeReg path b off v = s.enterError p := by
  obtain ⟨f, hf⟩ | ⟨-, hd | hn⟩ := State.writeReg_gated (s := s) (path := path) (b := b) v h8
  · rw [hf, State.guardWrite_locked f hr hl hp]
  · exact absurd hd hb
  · rw [hn p hl] at hp
    cases hp

end Sys2Proof.Machine

/-! SUPPORT. The end of a launch from outside (R341, R394, R449): what it leaves of the launches and of the security unit. -/

namespace Sys2Proof.Machine

/-! ### What the end of a team keeps -/

/-- Two states with the same launches, and the same security unit but for the cores to scrub and the saved images. -/
def State.SameHost (s t : State) : Prop :=
  t.launches = s.launches ∧ t.sec = { s.sec with scrubCore := t.sec.scrubCore, saves := t.sec.saves }

variable {s t u : State}

theorem State.SameHost.refl (s : State) : s.SameHost s := ⟨rfl, rfl⟩

theorem State.SameHost.of_eq (hl : t.launches = s.launches) (hs : t.sec = s.sec) : s.SameHost t := ⟨hl, by rw [hs]⟩

theorem State.SameHost.trans (h : s.SameHost t) (k : t.SameHost u) : s.SameHost u := by
  obtain ⟨hl, hs⟩ := h
  obtain ⟨kl, ks⟩ := k
  exact ⟨kl.trans hl, by rw [ks, hs]⟩

theorem State.writePhys_sameHost (s : State) (slot pa : Nat) (bs : List Byte) : s.SameHost (s.writePhys slot pa bs) := by
  obtain ⟨h, -⟩ := s.writePhys_frame slot pa bs
  have hl := congrArg State.launches h
  have hs := congrArg State.sec h
  exact .of_eq hl hs

theorem State.postFault_sameHost (s : State) (l : Launch) (grp team span stat cause sub : Nat) (tpc tval : Word) :
    s.SameHost (s.postFault l grp team span stat cause sub tpc tval) := by
  unfold State.postFault
  dsimp only
  split
  · exact .refl s
  · exact (s.writePhys_sameHost _ _ _).trans (.of_eq rfl rfl)

theorem State.passNumbers_keeps (s : State) (h : Nat) (x : Exch) :
    (s.passNumbers h x).launches = s.launches ∧ (s.passNumbers h x).sec = s.sec := by
  unfold State.passNumbers
  dsimp only
  split <;> exact ⟨rfl, rfl⟩

theorem State.passAll_launches (h : Nat) (xs : List Exch) (s : State) :
    (xs.foldl (fun s x => s.passNumbers h x) s).launches = s.launches :=
  foldl_keeps (P := fun t : State => t.launches = s.launches) _ (fun t x ht => (t.passNumbers_keeps h x).1.trans ht) xs rfl

theorem State.passAll_sec (h : Nat) (xs : List Exch) (s : State) : (xs.foldl (fun s x => s.passNumbers h x) s).sec = s.sec :=
  foldl_keeps (P := fun t : State => t.sec = s.sec) _ (fun t x ht => (t.passNumbers_keeps h x).2.trans ht) xs rfl

theorem State.foldCounts_sameHost (s : State) (y : Team) : s.SameHost (s.foldCounts y) := by
  unfold State.foldCounts
  split
  · exact .refl s
  · exact .of_eq rfl rfl

theorem State.releaseCore_sameHost (s : State) (y : Team) : s.SameHost (s.releaseCore y) := by
  unfold State.releaseCore
  dsimp only
  split
  · exact s.foldCounts_sameHost y
  · exact (s.foldCounts_sameHost y).trans ⟨rfl, rfl⟩

theorem State.SameHost.release (h : s.SameHost t) (y : Team) (c : Bool) : s.SameHost (if c then t.releaseCore y else t) := by
  cases c
  · exact h
  · exact h.trans (t.releaseCore_sameHost y)

theorem State.dropTeam_sameHost (s : State) (y : Team) (res : Residency) (breaks : Bool) : s.SameHost (s.dropTeam y res breaks) := by
  unfold State.dropTeam
  apply State.SameHost.release
  dsimp only
  refine .of_eq ?_ ?_
  · split
    all_goals
      dsimp only
      split
      · rw [State.passAll_launches]; rfl
      · rfl
  · split
    all_goals
      dsimp only
      split
      · rw [State.passAll_sec]; rfl
      · rfl

theorem State.SameHost.modSaves (h : s.SameHost t) (f : Sec → List SaveEntry) :
    s.SameHost (t.modSec (fun x => { x with saves := f x })) :=
  h.trans ⟨rfl, rfl⟩

theorem State.SameHost.modDbg (h : s.SameHost t) (p : Nat) (f : Dbg → Dbg) : s.SameHost (t.modDbg p f) := h.trans (.of_eq rfl rfl)

/-! ### The end of a launch -/

/-- A launch as its end from outside with a status leaves it (R341, R394): no OK status, every span done. -/
def Launch.close (status : Nat) (l : Launch) : Launch :=
  { l.fail status with st := .ready, spans := l.spans.map (fun p => { p with st := .done, action := none }) }

/-- A launch after the end from outside of the launch with a sequence number, which leaves one alone that has retired. -/
def Launch.endedBy (seq status : Nat) (l : Launch) : Launch := if l.seq = seq ∧ l.st ≠ .retired then l.close status else l

/-- A launch that has been ended: a status that is not OK, and every span done. -/
def Launch.Ended (l : Launch) : Prop := l.status ≠ 0 ∧ ∀ p ∈ l.spans, p.st = .done

@[simp] theorem Launch.endedBy_seq (seq status : Nat) (l : Launch) : (l.endedBy seq status).seq = l.seq := by
  unfold Launch.endedBy
  split <;> rfl

@[simp] theorem Launch.endedBy_part (seq status : Nat) (l : Launch) : (l.endedBy seq status).part = l.part := by
  unfold Launch.endedBy
  split <;> rfl

theorem Launch.endedBy_other {seq : Nat} (status : Nat) {l : Launch} (h : l.seq = seq → l.st = .retired) : l.endedBy seq status = l :=
  if_neg fun hc => hc.2 (h hc.1)

theorem Launch.endedBy_ended {status : Nat} {l : Launch} (hs : status ≠ 0) (hl : l.st ≠ .retired) : (l.endedBy l.seq status).Ended := by
  rw [Launch.endedBy, if_pos ⟨rfl, hl⟩]
  refine ⟨?_, fun p hp => ?_⟩
  · change (if l.status = 0 then status else l.status) ≠ 0
    split
    · exact hs
    · assumption
  · obtain ⟨q, -, rfl⟩ := List.mem_map.mp hp
    rfl

theorem Launch.Ended.endedBy {l : Launch} (h : l.Ended) (seq : Nat) {status : Nat} (hs : status ≠ 0) : (l.endedBy seq status).Ended := by
  by_cases hc : l.seq = seq → l.st = .retired
  · rwa [Launch.endedBy_other status hc]
  · obtain ⟨rfl, hl⟩ := Classical.not_imp.mp hc
    exact Launch.endedBy_ended hs hl

/-- An end from outside changes nothing where the launch is not there or has retired; otherwise it closes the launch. -/
theorem State.endLaunch_cases (s : State) (seq status : Nat) :
    (s.endLaunch seq status = s ∧ ∀ l, s.launch? seq = some l → l.st = .retired) ∨
    ∃ l u, s.launch? seq = some l ∧ l.st ≠ .retired ∧ s.SameHost u ∧ s.endLaunch seq status = u.modLaunch seq (Launch.close status) := by
  unfold State.endLaunch State.endLaunchAs
  cases hl : s.launch? seq with
  | none => exact .inl ⟨rfl, fun l h => by cases h⟩
  | some l =>
    dsimp only
    by_cases hr : l.st = .retired
    · rw [if_pos hr]
      exact .inl ⟨rfl, fun m h => Option.some.inj h ▸ hr⟩
    · rw [if_neg hr]
      have hdrop : s.SameHost ((s.teams.filter (fun t => t.seq == seq && t.res != .retired && t.res != .terminated)).foldl
          (fun s t => (s.postFault l 0xFF t.idx t.span status 0 0 0 0).dropTeam t .terminated true) s) :=
        foldl_keeps _ (fun u t hu => (hu.trans (u.postFault_sameHost ..)).trans (State.dropTeam_sameHost ..)) _ (.refl s)
      refine .inr ⟨l, _, rfl, hr, ?_, rfl⟩
      exact (hdrop.modSaves _).modDbg _ _

/-- A sequence number names one launch of a list in which no two share theirs. Proved here because the package's modules import core
Lean alone, which has no such lemma on lists. -/
theorem Launch.eq_of_seq_eq {ls : List Launch} (hn : (ls.map Launch.seq).Nodup) {l m : Launch} (hl : l ∈ ls) (hm : m ∈ ls)
    (h : l.seq = m.seq) : l = m := by
  induction ls with
  | nil => cases hl
  | cons x xs ih =>
    rw [List.map_cons, List.nodup_cons] at hn
    obtain ⟨hx, hn⟩ := hn
    obtain rfl | hlxs := List.mem_cons.mp hl
    · obtain rfl | hmxs := List.mem_cons.mp hm
      · rfl
      · exact absurd (h ▸ List.mem_map_of_mem hmxs) hx
    · obtain rfl | hmxs := List.mem_cons.mp hm
      · exact absurd (h ▸ List.mem_map_of_mem hlxs) hx
      · exact ih hn hlxs hmxs

/-- Where no two launches have the same sequence number, a look-up of a launch's finds the launch. -/
theorem State.launch?_unique {l m : Launch} (hn : (s.launches.map Launch.seq).Nodup) (hl : s.launch? l.seq = some m) (h : l ∈ s.launches) :
    m = l :=
  Launch.eq_of_seq_eq hn (List.mem_of_find?_eq_some hl) h (eq_of_beq (List.find?_some (p := fun k : Launch => k.seq == l.seq) hl))

theorem State.endLaunch_launches (s : State) (seq status : Nat) (hn : (s.launches.map Launch.seq).Nodup) :
    (s.endLaunch seq status).launches = s.launches.map (Launch.endedBy seq status) := by
  obtain ⟨he, hret⟩ | ⟨l, u, hl, hr, hu, he⟩ := s.endLaunch_cases seq status
  · have hid (m : Launch) (hm : m ∈ s.launches) : m.endedBy seq status = m := by
      refine Launch.endedBy_other status (fun hs => ?_)
      subst hs
      obtain ⟨k, hk⟩ := Option.isSome_iff_exists.mp ((List.find?_isSome (p := fun k : Launch => k.seq == m.seq)).mpr ⟨m, hm, beq_self_eq_true _⟩)
      exact State.launch?_unique hn hk hm ▸ hret k hk
    rw [he, List.map_congr_left hid, List.map_id']
  · rw [he, ← hu.1]
    refine List.map_congr_left (fun m hm => ?_)
    rw [hu.1] at hm
    unfold Launch.endedBy
    by_cases hs : m.seq = seq
    · subst hs
      obtain rfl := State.launch?_unique hn hl hm
      rw [if_pos rfl, if_pos ⟨rfl, hr⟩]
    · rw [if_neg hs, if_neg (fun h => hs h.1)]

theorem State.endLaunch_sec (s : State) (seq status : Nat) : (s.endLaunch seq status).sec =
    { s.sec with scrubCore := (s.endLaunch seq status).sec.scrubCore, saves := (s.endLaunch seq status).sec.saves } := by
  obtain ⟨he, -⟩ | ⟨l, u, -, -, hu, he⟩ := s.endLaunch_cases seq status
  · rw [he]
  · rw [he]
    exact hu.2

/-! ### The end of several launches -/

theorem State.endAll_sec (status : Nat) (seqs : List Nat) (s : State) :
    let t := seqs.foldl (fun s seq => s.endLaunch seq status) s
    t.sec = { s.sec with scrubCore := t.sec.scrubCore, saves := t.sec.saves } :=
  foldl_keeps (P := fun t : State => t.sec = { s.sec with scrubCore := t.sec.scrubCore, saves := t.sec.saves }) _
    (fun t seq ht => (t.endLaunch_sec seq status).trans (by rw [ht])) seqs rfl

theorem State.endAll_launches (status : Nat) (seqs : List Nat) (s : State) (hn : (s.launches.map Launch.seq).Nodup) :
    (seqs.foldl (fun s seq => s.endLaunch seq status) s).launches =
      s.launches.map (fun l => seqs.foldl (fun l seq => l.endedBy seq status) l) := by
  induction seqs generalizing s with
  | nil => exact (List.map_id' _).symm
  | cons seq seqs ih =>
    have hl := s.endLaunch_launches seq status hn
    have hn' : ((s.endLaunch seq status).launches.map Launch.seq).Nodup := by
      rw [hl, List.map_map, show Launch.seq ∘ Launch.endedBy seq status = Launch.seq from funext (Launch.endedBy_seq seq status)]
      exact hn
    rw [List.foldl_cons, ih _ hn', hl, List.map_map]
    rfl

theorem Launch.endedByAll_ended {status : Nat} (hs : status ≠ 0) (seqs : List Nat) {l : Launch} (h : l.Ended ∨ l.seq ∈ seqs ∧ l.st ≠ .retired) :
    (seqs.foldl (fun l seq => l.endedBy seq status) l).Ended := by
  induction seqs generalizing l with
  | nil => exact h.resolve_right (fun hm => List.not_mem_nil hm.1)
  | cons seq seqs ih =>
    refine ih ?_
    obtain he | ⟨hm, hr⟩ := h
    · exact .inl (he.endedBy seq hs)
    obtain rfl | hm := List.mem_cons.mp hm
    · exact .inl (Launch.endedBy_ended hs hr)
    · by_cases hq : l.seq = seq
      · subst hq
        exact .inl (Launch.endedBy_ended hs hr)
      · dsimp only
        rw [Launch.endedBy_other status (fun h => absurd h hq)]
        exact .inr ⟨hm, hr⟩

theorem Launch.endedByAll_retired (status : Nat) (seqs : List Nat) {l : Launch} (h : l.st = .retired) :
    seqs.foldl (fun l seq => l.endedBy seq status) l = l :=
  foldl_keeps (P := fun m => m = l) _ (fun m seq hm => by rw [hm, Launch.endedBy_other status (fun _ => h)]) seqs rfl

theorem Launch.endedByAll_part (status : Nat) (seqs : List Nat) (l : Launch) :
    (seqs.foldl (fun l seq => l.endedBy seq status) l).part = l.part :=
  foldl_keeps (P := fun m : Launch => m.part = l.part) _ (fun m seq hm => (m.endedBy_part seq status).trans hm) seqs rfl

/-! ### A TDI in ERROR (R394) -/

theorem State.enterError_sec (s : State) (p : Nat) : ∃ c v a, (s.enterError p).sec = { s.sec with
    scrubCore := c
    saves := v
    audit := a
    log := s.sec.log ++ [⟨s.clock, 3, p, 1⟩]
    alarm := max s.sec.alarm 1
    queues := s.sec.queues.modify p (fun q => { q with stop := true })
    cins := s.sec.cins.filter (fun c => c.part != p)
    tdi := s.sec.tdi.set p .error } := by
  have h := State.endAll_sec 7 ((s.logAlarm 3 p 1 (some p)).liveOf p) (s.logAlarm 3 p 1 (some p))
  simp only [State.enterError, State.setTdi, State.modQueue, State.modSec, modNth]
  rw [h]
  exact ⟨_, _, _, rfl⟩

theorem State.enterError_launches (s : State) (p : Nat) (hn : (s.launches.map Launch.seq).Nodup) :
    (s.enterError p).launches = s.launches.map (fun l => (s.liveOf p).foldl (fun l seq => l.endedBy seq 7) l) := by
  have h := State.endAll_launches 7 (s.liveOf p) (s.logAlarm 3 p 1 (some p)) hn
  have hlive : (s.logAlarm 3 p 1 (some p)).liveOf p = s.liveOf p := rfl
  simp only [State.enterError, State.setTdi, State.modQueue, State.modSec_launches, hlive]
  exact h

/-- R394: of a partition whose TDI enters ERROR, every launch that has not retired has been ended. -/
theorem State.enterError_ended (s : State) (p : Nat) (hn : (s.launches.map Launch.seq).Nodup) :
    ∀ l ∈ (s.enterError p).launches, l.part = p → l.st ≠ .retired → l.Ended := by
  rw [s.enterError_launches p hn]
  intro l hl hp hr
  obtain ⟨m, hm, rfl⟩ := List.mem_map.mp hl
  have hmr : m.st ≠ .retired := fun h => hr (by rw [Launch.endedByAll_retired 7 _ h, h])
  rw [Launch.endedByAll_part] at hp
  refine Launch.endedByAll_ended (by decide) _ (.inr ⟨List.mem_map.mpr ⟨m, List.mem_filter.mpr ⟨hm, ?_⟩, rfl⟩, hmr⟩)
  simp [hp, hmr]

theorem State.enterError_spec (s : State) (p : Nat) : let t := s.enterError p
    (p < s.sec.tdi.length → t.tdiOf p = .error) ∧ t.sec.cins = s.sec.cins.filter (fun c => c.part != p) ∧
    (∀ q, s.sec.queues[p]? = some q → t.sec.queues[p]? = some { q with stop := true }) ∧
    ⟨s.clock, 3, p, 1⟩ ∈ t.sec.log ∧ 1 ≤ t.sec.alarm := by
  obtain ⟨c, v, a, h⟩ := s.enterError_sec p
  dsimp only [State.tdiOf]
  rw [h]
  refine ⟨fun hp => ?_, rfl, fun q hq => ?_, ?_, ?_⟩
  · simp [List.getD, hp]
  · simp [hq]
  · exact List.mem_append_right _ (List.mem_singleton_self _)
  · exact Nat.le_max_right _ _

end Sys2Proof.Machine

/-! SUPPORT. What a write of each register that holds a value does once the register takes it (R3), and what a read through a path answers
(R388, R391, R445). -/

namespace Sys2Proof.Machine

variable {s : State} {path : Path}

/-! ### The writes of single registers -/

theorem exec_registerWrite (s : State) (path : Path) (b : Blk) (off : Nat) (v : Word) :
    exec (.registerWrite path b off v) s = .next (s.writeReg path b off v) := rfl

theorem State.writeReg_class (v : Word) {i : Nat} (hi : i < 8) (h : s.Takes path .control (0x300 + 8 * i)) :
    s.writeReg path .control (0x300 + 8 * i) v = s.put .control (0x300 + 8 * i) 0xFF v := by
  have h8 : ¬ (0x300 + 8 * i) % 8 ≠ 0 := by omega
  have h1 : regBlock 0 0x40 8 (0x300 + 8 * i) = none := regBlock_none (by omega)
  have h2 : regBlock 0x200 8 8 (0x300 + 8 * i) = none := regBlock_none (by omega)
  have h3 : regBlock 0x300 8 8 (0x300 + 8 * i) = some i := regBlock_eq hi (by omega) (by omega)
  have hm : plainMask .control (0x300 + 8 * i) = 0xFF := by simp [plainMask, h3]
  unfold State.writeReg
  simp only [if_neg h8, h1, h2]
  exact State.writePlain_takes v h hm (by decide)

/-- R322: a register of a stream. -/
theorem State.writeReg_stream (v : Word) {st o : Nat} (hst : st < 8) (ho : o < 0x40) (h8 : o % 8 = 0) :
    s.writeReg path .control (0x40 * st + o) v = s.writeStream st o v path := by
  have hne : ¬ (0x40 * st + o) % 8 ≠ 0 := by omega
  have h1 : regBlock 0 0x40 8 (0x40 * st + o) = some st := regBlock_eq hst (by omega) (by omega)
  have hmod : (0x40 * st + o) % 0x40 = o := by omega
  unfold State.writeReg
  simp only [if_neg hne, h1, hmod]

/-- R322: a register of a stream that holds what is written, as f sets it. -/
theorem exec_streamWrite {v : Word} {st o : Nat} {f : Stream → Stream} (hst : st < 8) (ho : o < 0x40) (h8 : o % 8 = 0)
    (hf : s.writeStream st o v path = s.guardWrite path .control (0x40 * st + o) (fun s => s.modStream st f))
    (h : s.Takes path .control (0x40 * st + o)) :
    exec (.registerWrite path .control (0x40 * st + o) v) s = .next (s.modStream st f) := by
  rw [exec_registerWrite, State.writeReg_stream v hst ho h8, hf, State.guardWrite_takes _ h]

theorem State.writeReg_smas (v : Word) {st : Nat} (hst : st < 8) (h : s.Takes path .control (0x200 + 8 * st)) :
    s.writeReg path .control (0x200 + 8 * st) v = s.modStream st (fun x =>
      if x.st = .idle then { x with part := v.toNat / 2 ^ 16 % 4, asid := v.toNat % 2 ^ 12 } else x) := by
  have h8 : ¬ (0x200 + 8 * st) % 8 ≠ 0 := by omega
  have h1 : regBlock 0 0x40 8 (0x200 + 8 * st) = none := regBlock_none (by omega)
  have h2 : regBlock 0x200 8 8 (0x200 + 8 * st) = some st := regBlock_eq hst (by omega) (by omega)
  unfold State.writeReg
  simp only [if_neg h8, h1, h2]
  rw [State.writeSmas, State.guardWrite_takes _ h]
  simp [field, bits]

theorem State.writeReg_keyArgument (v : Word) {p : Nat} (hp : p < 4) (h : s.Takes path .sec (0x100 * p + 8)) :
    s.writeReg path .sec (0x100 * p + 8) v = s.put .sec (0x100 * p + 8) 0xFFFFFFFFFFFFFFFF v := by
  have h8 : ¬ (0x100 * p + 8) % 8 ≠ 0 := by omega
  have h1 : regBlock 0 0x100 4 (0x100 * p + 8) = some p := regBlock_eq hp (by omega) (by omega)
  have hmod : (0x100 * p + 8) % 0x100 = 8 := by omega
  have hm : plainMask .sec (0x100 * p + 8) = 0xFFFFFFFFFFFFFFFF := by simp [plainMask, h1, hmod]
  unfold State.writeReg
  simp only [if_neg h8, State.writeSecReg, h1, hmod]
  exact State.writePlain_takes v h hm (by decide)

theorem State.writeReg_allow (v : Word) {p : Nat} (hp : p < 4) :
    s.writeReg path .sec (0x1400 + 8 * p) v = s.writeAllow p v path := by
  have h8 : ¬ (0x1400 + 8 * p) % 8 ≠ 0 := by omega
  have h1 : regBlock 0 0x100 4 (0x1400 + 8 * p) = none := regBlock_none (by omega)
  have h2 : regBlock 0x400 0x40 4 (0x1400 + 8 * p) = none := regBlock_none (by omega)
  have h3 : regBlock 0x800 0x10 4 (0x1400 + 8 * p) = none := regBlock_none (by omega)
  have h4 : regBlock 0x1000 0x40 4 (0x1400 + 8 * p) = none := regBlock_none (by omega)
  have h5 : regBlock 0x1400 8 4 (0x1400 + 8 * p) = some p := regBlock_eq hp (by omega) (by omega)
  unfold State.writeReg
  simp only [if_neg h8, State.writeSecReg, h1, h2, h3, h4, h5]

theorem State.writeAllow_takes (v : Word) {p : Nat} (hp : p < 4) (h : s.Takes path .sec (0x1400 + 8 * p)) :
    s.writeAllow p v path = if path = .owner p then s.put .sec (0x1400 + 8 * p) 0xF v else s := by
  obtain ⟨hm, hl⟩ := s.allow_register hp
  have hfree : s.isLocked p = false := h.2 p hl
  unfold State.writeAllow
  by_cases ho : path = .owner p
  · simp only [ho, decide_true, Bool.true_or, if_true]
    exact State.writePlain_takes v (ho ▸ h) hm (by decide)
  · simp [ho, hfree]

theorem State.writeReg_dbgperm (v : Word) {p : Nat} (hp : p < 4) :
    s.writeReg path .debug (0x400 * p) v = s.writeDbgperm p v path := by
  have h8 : ¬ (0x400 * p) % 8 ≠ 0 := by omega
  have h1 : regBlock 0 0x400 4 (0x400 * p) = some p := regBlock_eq hp (by omega) (by omega)
  have hmod : 0x400 * p % 0x400 = 0 := by omega
  have h2 : regBlock 0x180 8 8 0 = none := regBlock_none (by omega)
  unfold State.writeReg
  simp only [if_neg h8, State.writeDebugReg, h1, hmod, h2]

/-- R408: DBGPERM is written through the owner session alone, and locked with its partition. -/
theorem State.writeDbgperm_owner (v : Word) {p : Nat} (hp : p < 4) (h : s.reaches (.owner p) .debug (0x400 * p) = true) :
    s.writeDbgperm p v (.owner p) = if s.isLocked p then s.enterError p else s.put .debug (0x400 * p) 3 v := by
  have hmod : 0x400 * p % 0x400 = 0 := by omega
  have h8 : 0x400 * p % 8 = 0 := by omega
  have h1 : regBlock 0 0x400 4 (0x400 * p) = some p := regBlock_eq hp (by omega) (by omega)
  have hl : s.lockOf .debug (0x400 * p) = some p := by simp [State.lockOf, h1]
  have hm : plainMask .debug (0x400 * p) = 3 := by simp [plainMask, h1, h8]
  rw [State.writeDbgperm, if_pos rfl, State.writePlain_eq v hm (by decide)]
  cases hp : s.isLocked p with
  | true => exact State.guardWrite_locked _ h hl hp
  | false => exact State.guardWrite_takes _ ⟨h, fun q hq => Option.some.inj (hl.symm.trans hq) ▸ hp⟩

theorem State.writeReg_hqbase (v : Word) {p : Nat} (hp : p < 4) (h : s.Takes path .hostLink (0x80 * p)) :
    s.writeReg path .hostLink (0x80 * p) v =
      s.modQueue p (fun q => if q.cfg.getLsbD 63 then q else { q with base := v &&& 0xFFFFFFFFFFFFF00F }) := by
  have h8 : ¬ (0x80 * p) % 8 ≠ 0 := by omega
  have h1 : regBlock 0 0x80 4 (0x80 * p) = some p := regBlock_eq hp (by omega) (by omega)
  have hmod : 0x80 * p % 0x80 = 0 := by omega
  unfold State.writeReg
  simp only [if_neg h8, State.writeLinkReg, h1, hmod]
  rw [State.writeHqbase, State.guardWrite_takes _ h]
  rfl

/-! ### Reads -/

variable {b : Blk} {off : Nat}

/-- R391: a path that reaches a register delivers. -/
theorem State.linkUp_of_reaches (h : s.reaches path b off = true) : s.linkUp path = true := by
  cases path <;> simp_all [State.reaches, State.linkUp]

/-- R388: a path that reaches a register is no VF of a partition that does not exist. -/
theorem State.hasPart_of_reaches {link q : Nat} (h : s.reaches (.vf link q) b off = true) : s.hasPart q = true := by
  simp_all [State.reaches]

theorem exec_withheldRead (hl : s.linkUp path = true) :
    exec (.withheldRead path b off) s = .next ((s.readReg path b off).1.answer path (s.readReg path b off).2) := by
  change (if !s.linkUp path then _ else _) = _
  rw [hl]
  rfl

theorem exec_withheldRead_down (hl : s.linkUp path = false) : exec (.withheldRead path b off) s = .next s := by
  change (if !s.linkUp path then _ else _) = _
  rw [hl]
  rfl

/-- R388: all ones through the VF of a partition that does not exist. -/
theorem State.readReg_absent {link q : Nat} (h : s.hasPart q = false) : s.readReg (.vf link q) b off = (s, 0xFFFFFFFFFFFFFFFF) := by
  simp [State.readReg, h]

theorem State.readReg_present (h : ∀ link q, path = .vf link q → s.hasPart q = true) : s.readReg path b off =
    if off % 8 ≠ 0 || !s.reaches path b off then (s, 0) else s.readReached path b off := by
  unfold State.readReg
  cases path with
  | vf link q => simp [h link q rfl]
  | _ => rfl

/-- R394, R408: 0 where the path does not reach the register. -/
theorem State.readReg_unreached (hp : ∀ link q, path = .vf link q → s.hasPart q = true) (h : off % 8 ≠ 0 ∨ s.reaches path b off = false) :
    s.readReg path b off = (s, 0) := by
  rw [State.readReg_present hp, if_pos]
  simpa using h

theorem exec_withheldRead_reached (h8 : off % 8 = 0) (h : s.reaches path b off = true) : exec (.withheldRead path b off) s =
    .next ((s.readReached path b off).1.answer path (s.readReached path b off).2) := by
  have hp : ∀ link q, path = .vf link q → s.hasPart q = true := by
    rintro link q rfl
    exact State.hasPart_of_reaches h
  rw [exec_withheldRead (State.linkUp_of_reaches h), State.readReg_present hp, if_neg]
  simp [h8, h]

/-- R446: the audit record that a withheld reading leaves. -/
theorem State.auditLog_answer (s : State) (path : Path) (v : Word) (p kind code off : Nat) :
    ∃ a, (s.auditLog p kind code off).answer path v = { s with out := s.out ++ [.value path v], sec := { s.sec with audit := a } } ∧
      ∃ r ∈ a, r.part = p ∧ r.kind = kind ∧ r.off = off :=
  ⟨_, rfl, _, List.mem_append_right _ (List.mem_singleton_self _), rfl, rfl, rfl⟩

/-! ### What single registers read -/

/-- A register of the security unit that only holds its value: none of the alarm log, the audit queue or the gates. -/
theorem State.readSec_held (s : State) (h : off < 0x1100) : s.readSec off = s.hreg .sec off := by
  have h1 : regBlock 0x6000 8 8 off = none := regBlock_none (by omega)
  have h2 : regBlock 0x2100 16 64 off = none := regBlock_none (by omega)
  have h3 : regBlock 0x1600 8 4 off = none := regBlock_none (by omega)
  have h4 : regBlock 0x8000 0x2000 4 off = none := regBlock_none (by omega)
  simp only [State.readSec, h1, h2, h3, h4]
  rw [if_neg (by omega), if_neg (by omega)]

theorem count_register {p : Nat} (hp : p < 4) : (if (0x1018 + 0x40 * p) % 0x40 = 0x18 then regBlock 0x1000 0x40 4 (0x1018 + 0x40 * p) else none) = some p := by
  rw [if_pos (by omega), regBlock_eq hp (by omega) (by omega)]

/-- R445: a COUNT that no region has been counted for, or that the partition allows to the path. -/
theorem State.readSecBy_answered {p : Nat} (hp : p < 4) (h : p ∉ s.sec.counted ∨ s.answered p 2 path = true) :
    s.readSecBy (0x1018 + 0x40 * p) path = (s, s.hreg .sec (0x1018 + 0x40 * p)) := by
  have hc : (s.sec.counted.contains p && !s.answered p 2 path) = false := by
    rcases h with h | h <;> simp [h]
  unfold State.readSecBy
  rw [count_register hp]
  simp only [hc, s.readSec_held (off := 0x1018 + 0x40 * p) (by omega)]
  rfl

/-- R445: a COUNT that is withheld. -/
theorem State.readSecBy_withheld {p : Nat} (hp : p < 4) (h : p ∈ s.sec.counted) (ha : s.answered p 2 path = false) :
    s.readSecBy (0x1018 + 0x40 * p) path = (s.auditLog p 1 (pathCode path) (0x1018 + 0x40 * p), 0) := by
  unfold State.readSecBy
  rw [count_register hp]
  simp [h, ha]

/-- R445: every register of the security unit that is no COUNT is answered. -/
theorem State.readSecBy_other (h : off < 0x1000 ∨ 0x1100 ≤ off ∨ off % 0x40 ≠ 0x18) : s.readSecBy off path = (s, s.readSec off) := by
  have hn : (if off % 0x40 = 0x18 then regBlock 0x1000 0x40 4 off else none) = none := by
    split
    · exact regBlock_none (by omega)
    · rfl
  unfold State.readSecBy
  rw [hn]

theorem State.readPower_held (s : State) (h : off < 0x40) : s.readPower off = s.hreg .power off := by
  simp [State.readPower, regBlock_none (lo := 0x40) (sz := 8) (n := 30) (.inl h)]

/-- R445: outside the debug and sensor blocks and the COUNTs, what a register reads is withheld from no path. -/
theorem State.readReached_open (hd : b ≠ .debug) (hs : b ≠ .sensor) (hc : b = .sec → off < 0x1000 ∨ 0x1100 ≤ off ∨ off % 0x40 ≠ 0x18) :
    (s.readReached path b off).1 = s := by
  cases b with
  | xlat =>
    unfold State.readReached
    dsimp only
    split <;> rfl
  | sec => exact congrArg Prod.fst (State.readSecBy_other (hc rfl))
  | repair =>
    unfold State.readReached
    dsimp only
    split <;> rfl
  | debug => exact absurd rfl hd
  | sensor => exact absurd rfl hs
  | _ => rfl

/-- R443, R445: a sensor of a die, answered or withheld by the partition of the die. -/
theorem State.readSensor_die (s : State) (path : Path) {d k : Nat} (hd : d < 8) (hk : k < 0x38) : s.readSensor (0x100 * d + k) path =
    if s.answered (s.partOf d) 0 path then (s, Config.sensor s.nonce (0x100 * d + k) &&& 0x7FFFFFFFFFFFFFFF)
    else (s.auditLog (s.partOf d) 1 (pathCode path) (0x100 * d + k), 0x8000000000000000) := by
  have hmod : (0x100 * d + k) % 0x100 = k := by omega
  have h1 : regBlock 0 0x100 8 (0x100 * d + k) = some d := regBlock_eq hd (by omega) (by omega)
  simp [State.readSensor, State.sensorValue, hmod, hk, h1]

end Sys2Proof.Machine

namespace Sys2Proof.Machine

/-- Settles O45: a write of an aligned register is its guard's (`State.writeReg_gated`), the ends of the live launches leave the security unit
but for what they held (`State.endAll_sec`), and a read is the case of the register that the path reaches. -/
theorem registersAndPaths : Obligations.RegistersAndPaths := by
  unfold Obligations.RegistersAndPaths
  refine ⟨fun s path b off v h => ?unreached, fun s path b off v p h8 hb hr hl hp => ?locked, fun s p => ?error,
    fun s path i v h hi => ?share, fun s path st v hst => ?streams, fun s path p v hp => ?held, fun s path b off hpart => ?reads,
    fun s link q b off hq hl => ?absent⟩
  case unreached => rw [exec_registerWrite, State.writeReg_unreached v h]
  case locked => rw [exec_registerWrite, State.writeReg_locked v h8 hb hr hl hp]
  case error =>
    obtain ⟨htdi, hcins, hqueue, hlog, halarm⟩ := s.enterError_spec p
    exact ⟨htdi, hcins, hqueue, hlog, halarm, s.enterError_ended p⟩
  case share => rw [exec_registerWrite, State.writeReg_class v hi h]
  case streams =>
    refine ⟨exec_streamWrite hst (by decide) (by decide) rfl, exec_streamWrite hst (by decide) (by decide) rfl,
      exec_streamWrite hst (by decide) (by decide) rfl, fun h => ?_⟩
    rw [exec_registerWrite, State.writeReg_smas v hst h]
  case held =>
    refine ⟨fun h => ?_, fun h => ?_, fun h => ?_, fun ho h => ?_, fun h => ?_⟩
    · rw [exec_registerWrite, State.writeReg_keyArgument v hp h]
    · rw [exec_registerWrite, State.writeReg_allow v hp, State.writeAllow_takes v hp h]
    · rw [exec_registerWrite, State.writeReg_dbgperm v hp, State.writeDbgperm, if_neg h]
    · subst ho
      rw [exec_registerWrite, State.writeReg_dbgperm v hp, State.writeDbgperm_owner v hp h]
    · rw [exec_registerWrite, State.writeReg_hqbase v hp h]
  case reads =>
    refine ⟨exec_withheldRead_down, fun hl h => ?unreached, fun p hp hb ho hr => ?count, fun h8 hr hd hs hc => ?plain,
      fun d k hd hk hb ho h8 hr => ?sensor⟩
    case unreached =>
      rw [exec_withheldRead hl, State.readReg_unreached hpart h]
      rfl
    case count =>
      subst hb ho
      refine ⟨fun h => ?_, fun hc ha => ?_⟩
      · rw [exec_withheldRead_reached (by omega) hr, State.readReached, State.readSecBy_answered hp h]
        rfl
      · rw [exec_withheldRead_reached (by omega) hr, State.readReached, State.readSecBy_withheld hp hc ha]
        obtain ⟨a, he, hm⟩ := s.auditLog_answer path 0 p 1 (pathCode path) (0x1018 + 0x40 * p)
        exact ⟨a, congrArg _ he, hm⟩
    case plain =>
      refine ⟨(s.readReached path b off).2, ?_, ?_, ?_, ?_⟩
      · rw [exec_withheldRead_reached h8 hr, State.readReached_open hd hs hc]
        rfl
      · rintro rfl ho
        exact s.readPower_held ho
      · rintro rfl
        rfl
      · rintro rfl - ho
        rw [State.readReached, State.readSecBy_other (hc rfl)]
        exact s.readSec_held (by omega)
    case sensor =>
      subst hb ho
      refine ⟨fun ha => ?_, fun ha => ?_⟩
      · rw [exec_withheldRead_reached h8 hr, State.readReached, State.readSensor_die s path hd hk, if_pos ha]
        rfl
      · rw [exec_withheldRead_reached h8 hr, State.readReached, State.readSensor_die s path hd hk, if_neg (by simp [ha])]
        obtain ⟨a, he, hm⟩ := s.auditLog_answer path 0x8000000000000000 (s.partOf d) 1 (pathCode path) (0x100 * d + k)
        exact ⟨a, congrArg _ he, hm⟩
  case absent =>
    have hup : s.linkUp (.vf link q) = true := by simpa [State.linkUp] using hl
    rw [exec_withheldRead hup, State.readReg_absent hq]
    rfl

end Sys2Proof.Machine

/-! SUPPORT. The package after reset (R96, R253, R309, R322, R367, R370, R393, R442, R447), and the words that move the values of lanes (R131,
R132, R134). -/

namespace Sys2Proof.Machine

/-! ### The state after package reset -/

/-- A register file at reset lists nothing, so every register reads its reset value. -/
theorem State.hreg_reset (b : Blk) (off : Nat) : State.reset.hreg b off = regReset b off := by
  change (0 : Word) ^^^ regReset b off = regReset b off
  simp

/-- R367: the way masks of requester 0 on each die. -/
theorem regReset_wayMask {d : Nat} (hd : d < 8) : regReset .xlat (0x4000 + 0x40 * d) = 0xFFFF := by
  have h : (0x4000 ≤ 0x4000 + 0x40 * d && 0x4000 + 0x40 * d < 0x4200 && (0x4000 + 0x40 * d) % 0x40 ≤ 0x20) = true := by
    simp only [Bool.and_eq_true, decide_eq_true_eq]
    omega
  exact if_pos h

theorem State.tdiOf_reset (p : Nat) : State.reset.tdiOf p = .unlocked := by
  change (List.replicate 4 Tdi.unlocked).getD p .unlocked = .unlocked
  rw [List.getD_eq_getElem?_getD, List.getElem?_replicate]
  split <;> rfl

/-- R442: islands 0 to 26 are active, 27 to 29 are held in A3. -/
theorem islandsReset_active : ∀ i, i < 27 → (islandsReset[i]?).map Island.st = some 0 := by decide

theorem islandsReset_off : ∀ i, 27 ≤ i → i < 30 → (islandsReset[i]?).map Island.st = some 3 := by
  intro i h1 h2
  have : ∀ i, i < 30 → 27 ≤ i → (islandsReset[i]?).map Island.st = some 3 := by decide
  exact this i h2 h1

/-- Settles O60: `State.reset` lists nothing where the spec has nothing, so registers read their reset values. -/
theorem resetState : Obligations.ResetState := by
  unfold Obligations.ResetState
  refine ⟨rfl, rfl, rfl, rfl, rfl, rfl, rfl, rfl, rfl, rfl, rfl, rfl, fun x hx => ?streams, rfl, rfl, rfl, rfl, rfl, State.tdiOf_reset,
    State.hreg_reset, State.hreg_reset _ _, State.hreg_reset _ _, fun d hd => ?ways, islandsReset_active, islandsReset_off,
    fun d hd => ?budget, State.reset_memOk⟩
  case streams =>
    obtain rfl : x = Stream.reset := List.eq_of_mem_replicate hx
    exact ⟨rfl, rfl, rfl, rfl, rfl, rfl, rfl, rfl, rfl, rfl, rfl⟩
  case ways => rw [State.hreg_reset, regReset_wayMask hd]
  case budget =>
    change (List.replicate 8 48)[d]? = some 48
    rw [List.getElem?_replicate, if_pos hd]

/-! ### Lanes that a cross-lane word names (R131, R132) -/

variable {i : Instr} {s : State} {x : Issue}

@[simp] theorem Issue.modG_clock (x : Issue) (s : State) (f : Group → Group) : (x.modG s f).clock = s.clock := by
  unfold Issue.modG
  split <;> rfl

@[simp] theorem Issue.modG_nonce (x : Issue) (s : State) (f : Group → Group) : (x.modG s f).nonce = s.nonce := by
  unfold Issue.modG
  split <;> rfl

/-- The word as it goes on once it has read a never-launched lane: GSTAT.PZ is set (R131). -/
def Issue.markPz (x : Issue) : Issue := { x with s := x.modG x.s (fun g => { g with pz := true }) }

/-- What a word reads is not changed by a change of its group's status. -/
theorem Issue.opnd_markPz (x : Issue) (w : Nat) (o : Opr) (l : Nat) : x.markPz.opnd w o l = x.opnd w o l := by
  have hrd (k : Key) : x.markPz.rd k = x.rd k := by simp [Issue.rd, Issue.markPz]
  cases o <;> simp only [Issue.opnd, Issue.vreg, Issue.sreg, hrd]

theorem Issue.crossOpnd_markPz (x : Issue) (w : Nat) (a : Fin 192) (k : Nat) : x.markPz.crossOpnd w a k = x.crossOpnd w a k := by
  simp only [Issue.crossOpnd, Issue.opnd_markPz]
  rfl

theorem Issue.crossOpnd_launched {w : Nat} {a : Fin 192} {k : Nat} (h : x.grp.launched.getLsbD k = true) :
    x.crossOpnd w a k = x.opnd w (.v a) k := if_pos h

theorem Issue.crossOpnd_unlaunched {w : Nat} {a : Fin 192} {k : Nat} (h : x.grp.launched.getLsbD k = false) : x.crossOpnd w a k = 0 :=
  if_neg (by simp [h])

theorem Issue.mem_unlaunched {ks : List Nat} {k : Nat} : k ∈ x.unlaunched ks ↔ k ∈ ks ∧ x.grp.launched.getLsbD k = false := by
  simp [Issue.unlaunched]

/-- R131: where every source lane was launched, the word goes on. -/
theorem Issue.crossRead_launched {ks : List Nat} (go : Issue → Act) (h : ∀ k ∈ ks, x.grp.launched.getLsbD k = true) :
    x.crossRead ks go = go x := by
  have hn : x.unlaunched ks = [] := List.filter_eq_nil_iff.mpr (fun k hk => by simp [h k hk])
  simp [Issue.crossRead, hn]

/-- R131: a never-launched source lane sets GSTAT.PZ where MODE.PRT is clear. -/
theorem Issue.crossRead_markPz {ks : List Nat} {k : Nat} (go : Issue → Act) (hk : k ∈ ks) (h : x.grp.launched.getLsbD k = false)
    (hp : x.grp.mode.getLsbD 8 = false) : x.crossRead ks go = go x.markPz := by
  have hm := Issue.mem_unlaunched.mpr ⟨hk, h⟩
  unfold Issue.crossRead
  dsimp only
  split
  next hn => rw [List.min?_eq_none_iff.mp hn] at hm; cases hm
  next => exact if_neg (by rw [modePrt, hp]; exact Bool.false_ne_true)

/-- R131: under MODE.PRT the word traps PRMZ with the lowest never-launched source lane. -/
theorem Issue.crossRead_trap {ks : List Nat} {k : Nat} (go : Issue → Act) (hk : k ∈ ks) (h : x.grp.launched.getLsbD k = false)
    (hp : x.grp.mode.getLsbD 8 = true) : ∃ j ∈ ks, x.grp.launched.getLsbD j = false ∧
      (∀ i ∈ ks, x.grp.launched.getLsbD i = false → j ≤ i) ∧
      x.crossRead ks go = .trap { code := cPRMZ, tval := BitVec.ofNat 64 j } := by
  have hm := Issue.mem_unlaunched.mpr ⟨hk, h⟩
  unfold Issue.crossRead
  dsimp only
  split
  next hn => rw [List.min?_eq_none_iff.mp hn] at hm; cases hm
  next j hj =>
    obtain ⟨hmem, hle⟩ := List.min?_eq_some_iff.mp hj
    obtain ⟨hks, hz⟩ := Issue.mem_unlaunched.mp hmem
    exact ⟨j, hks, hz, fun i hi hi0 => hle i (Issue.mem_unlaunched.mpr ⟨hi, hi0⟩), if_pos hp⟩

/-! ### prm (R132) -/

section
variable {h : Hdr} {d a : Fin 192} {b : Opr} {mode : PrmMode} {w64 : Bool} (hi : Issues (.prm h d a b mode w64) s x)

/-- The source lane that a prm names for a lane. -/
def Issue.prmSrc (x : Issue) (b : Opr) (mode : PrmMode) (l : Nat) : Nat := prmLane mode x.W l (x.amt b l)

include hi

theorem prm_completes (hl : ∀ l ∈ x.lanesList, x.grp.launched.getLsbD (x.prmSrc b mode l) = true) :
    Completes (.prm h d a b mode w64) s x 6 (w64Bits w64) false (.v d) 0 (fun l => x.opnd (w64Bits w64) (.v a) (x.prmSrc b mode l)) :=
  completes_of_perLane hi _ rfl _ (Issue.crossRead_launched _ (List.forall_mem_map.mpr hl)) (fun l => x.opnd (w64Bits w64) (.v a) (x.prmSrc b mode l))
    (fun l hm => congrArg _ (Issue.crossOpnd_launched (hl l hm))) (by cases w64 <;> decide) (fun _ _ => rfl)

theorem prm_marksPz {l : Nat} (hm : l ∈ x.lanesList) (h0 : x.grp.launched.getLsbD (x.prmSrc b mode l) = false)
    (hp : x.grp.mode.getLsbD 8 = false) : exec (.prm h d a b mode w64) s = .next (x.markPz.fixed 6
      (x.lanesList.flatMap (fun l => putInt (w64Bits w64) false (.v d) l (x.crossOpnd (w64Bits w64) a (x.prmSrc b mode l)))) 0) := by
  refine word_done hi ((Issue.crossRead_markPz _ (List.mem_map_of_mem hm) h0 hp).trans ?_)
  simp only [Issue.crossOpnd_markPz]
  rfl

theorem prm_traps {l : Nat} (hm : l ∈ x.lanesList) (h0 : x.grp.launched.getLsbD (x.prmSrc b mode l) = false)
    (hp : x.grp.mode.getLsbD 8 = true) : ∃ j ∈ x.lanesList, x.grp.launched.getLsbD (x.prmSrc b mode j) = false ∧
      (∀ i ∈ x.lanesList, x.grp.launched.getLsbD (x.prmSrc b mode i) = false → x.prmSrc b mode j ≤ x.prmSrc b mode i) ∧
      exec (.prm h d a b mode w64) s = .next (s.takeTrap s.cur { code := cPRMZ, tval := BitVec.ofNat 64 (x.prmSrc b mode j) }) := by
  obtain ⟨k, hk, hk0, hle, ht⟩ := Issue.crossRead_trap (ks := x.lanesList.map (x.prmSrc b mode))
    (fun y => y.perLane 6 (.v d) (fun l => putInt (w64Bits w64) false (.v d) l (y.crossOpnd (w64Bits w64) a (x.prmSrc b mode l))))
    (List.mem_map_of_mem hm) h0 hp
  obtain ⟨j, hj, rfl⟩ := List.mem_map.mp hk
  exact ⟨j, hj, hk0, fun i hi => hle _ (List.mem_map_of_mem hi), word_trap hi ht⟩

end

/-! ### rdlane (R134) -/

section
variable {h : Hdr} {d : Fin 64} {a : Fin 192} {b : Fin 64} {w64 : Bool} (hi : Issues (.rdlane h d a b w64) s x)

/-- The lane that an rdlane names. -/
def Issue.rdSrc (x : Issue) (b : Fin 64) : Nat := (x.sreg b).toNat % x.W

include hi

theorem rdlane_completes (hl : x.grp.launched.getLsbD (x.rdSrc b) = true) : CompletesW (.rdlane h d a b w64) s x 6
    [⟨.s d.val, BitVec.ofNat 64 (x.opnd (w64Bits w64) (.v a) (x.rdSrc b))⟩] 0 := by
  have hval : zext (x.crossOpnd (w64Bits w64) a (x.rdSrc b)) 64 = BitVec.ofNat 64 (x.opnd (w64Bits w64) (.v a) (x.rdSrc b)) := by
    rw [Issue.crossOpnd_launched hl]
    exact BitVec.eq_of_toNat_eq (by simp [zext])
  obtain ⟨g, hg, hread, hfl, hfr⟩ := fixed_after hi 6 [⟨.s d.val, BitVec.ofNat 64 (x.opnd (w64Bits w64) (.v a) (x.rdSrc b))⟩] 0
  refine ⟨_, g, word_done hi ((Issue.crossRead_launched _ (List.forall_mem_singleton.mpr hl)).trans ?_), hg, fun now nonce k v hn hk => ?_, hfl, hfr⟩
  · rw [← hval]
    rfl
  · exact flight_reads hread hn nonce k v hk

theorem rdlane_marksPz (h0 : x.grp.launched.getLsbD (x.rdSrc b) = false) (hp : x.grp.mode.getLsbD 8 = false) :
    exec (.rdlane h d a b w64) s = .next (x.markPz.fixed 6 [⟨.s d.val, 0⟩] 0) := by
  refine word_done hi ((Issue.crossRead_markPz _ (List.mem_singleton_self _) h0 hp).trans ?_)
  have hz : x.markPz.crossOpnd (w64Bits w64) a (x.rdSrc b) = 0 := by rw [Issue.crossOpnd_markPz, Issue.crossOpnd_unlaunched h0]
  simp only [← Issue.rdSrc.eq_def, hz]
  rfl

theorem rdlane_traps (h0 : x.grp.launched.getLsbD (x.rdSrc b) = false) (hp : x.grp.mode.getLsbD 8 = true) :
    exec (.rdlane h d a b w64) s = .next (s.takeTrap s.cur { code := cPRMZ, tval := BitVec.ofNat 64 (x.rdSrc b) }) := by
  obtain ⟨k, hk, -, -, ht⟩ := Issue.crossRead_trap (ks := [x.rdSrc b])
    (fun y => .done (y.fixed 6 [⟨.s d.val, zext (y.crossOpnd (w64Bits w64) a (x.rdSrc b)) 64⟩] 0)) (List.mem_singleton_self _) h0 hp
  obtain rfl := List.mem_singleton.mp hk
  exact word_trap hi ht

end

/-- Settles O14: a cross-lane word goes on where its source lanes were launched (`Issue.crossRead_launched`), and otherwise sets GSTAT.PZ or
traps (`Issue.crossRead_markPz`, `Issue.crossRead_trap`). -/
theorem laneMoves : Obligations.LaneMoves := by
  unfold Obligations.LaneMoves
  refine fun s x => ⟨fun h d a b mode w64 hi => ?prm, fun h d a b w64 hi => ?rdlane⟩
  case prm => exact ⟨prm_completes hi, fun l hm h0 hp => prm_marksPz hi hm h0 hp, fun l hm h0 hp => prm_traps hi hm h0 hp⟩
  case rdlane => exact ⟨rdlane_completes hi, rdlane_marksPz hi, rdlane_traps hi⟩

end Sys2Proof.Machine

/-! SUPPORT. The special registers (R88-R96, R249, R419): what issuing leaves, and the words that read, write and mark. -/

namespace Sys2Proof.Machine
variable {i : Instr} {s : State} {x : Issue}

/-! ### What issuing leaves -/

theorem Issues.clock (h : Issues i s x) : x.s.clock = s.clock := by
  have e := congrArg State.clock h.within.state
  exact e

/-- R423: a team of a launch that no debugger is attached to is not counted. -/
theorem State.tally_detached {t : Team} {l : Launch} (e n : Nat) (hl : s.launch? t.seq = some l) (hd : s.dbgOf l = none) :
    s.tally t e n = s := by
  unfold State.tally
  split
  · rfl
  · simp [hl, hd]

theorem State.tallyWord_detached {t : Team} {l : Launch} (f : Frag) (act : Lanes) (p : Bool) (hl : s.launch? t.seq = some l)
    (hd : s.dbgOf l = none) : s.tallyWord t f act p = s := by
  simp only [State.tallyWord, State.tally_detached _ _ hl hd, ite_self]

theorem State.charge_detached {t : Team} {l : Launch} (f : Frag) (act : Lanes) (p : Bool) (hl : s.launch? t.seq = some l)
    (hd : s.dbgOf l = none) : (s.charge t f act p).dbg = s.dbg := by
  unfold State.charge
  split
  · rfl
  · have ho := s.occupy_eq t f p
    rw [State.tallyWord_detached f act p (l := l) (by rw [ho]; exact hl) (by rw [ho]; exact hd), ho]

/-- A word of a launch that no debugger is attached to leaves it so. -/
theorem Issues.dbgOf_none (h : Issues i s x) (hd : s.dbgOf x.la = none) : x.s.dbgOf x.la = none := by
  suffices hs : x.s.dbg = s.dbg by rw [State.dbgOf, hs]; exact hd
  obtain ⟨tid, gi, ent, -, hx⟩ | ⟨n, y, -, hx⟩ := h.cases
  · rw [hx.state]
    exact State.charge_detached (s := s.modGroup tid gi _) (l := x.la) _ _ _ hx.la hd
  · rw [hx.state]
    rfl

/-- R419: nothing is traced of a launch that no debugger is attached to. -/
theorem State.trace_detached {l : Launch} (hd : s.dbgOf l = none) (die kind grp team span id : Nat) (pc val : Word) :
    s.trace l die kind grp team span id pc val = s := by
  unfold State.trace
  rw [hd]

/-! ### Special registers -/

/-- R91: GSTAT bit by bit. -/
theorem Group.gstat_bit (g : Group) (W : Nat) {j : Nat} (hj : j < 64) : (g.gstat W).getLsbD j =
    (if j = 0 then g.pz else if j = 1 then g.abt else if j = 2 then g.launched != lanesBelow W else if j = 3 then g.rst
      else if j = 8 then g.role == .m else if j = 9 then g.role == .v else false) := by
  have table : ∀ (role : Role) (rst plg abt pz : Bool) (j : Fin 64),
      (BitVec.ofNat 64 (roleCode role * 2 ^ 8 + (if rst then 8 else 0) + (if plg then 4 else 0) + (if abt then 2 else 0) +
        (if pz then 1 else 0))).getLsbD j.val = (if j.val = 0 then pz else if j.val = 1 then abt else if j.val = 2 then plg
          else if j.val = 3 then rst else if j.val = 8 then role == .m else if j.val = 9 then role == .v else false) := by
    intro role
    cases role <;> decide
  exact table g.role g.rst (g.launched != lanesBelow W) g.abt g.pz ⟨j, hj⟩

/-- R94: the typical time of an rdsr. -/
def rdsrLat (sr : SpecialReg) : Nat := if sr = .clock then 24 else 8

/-- R94, R323: a word that may read the register goes on. -/
theorem Issue.readable {sr : SpecialReg} (hs : ∀ n, x.who = .stream n → srInStream sr = true) (a b : Act) :
    (match x.who, srInStream sr with
     | .stream _, false => a
     | _, _ => b) = b := by
  split
  next n hn hr => exact absurd (hs n hn) (by simp [hr])
  next => rfl

/-- R73: a read of MODE goes on once the group's conversions are complete. -/
theorem Issue.settled {sr : SpecialReg} (hc : sr = .mode → x.converting = false) (a b : Act) :
    (if sr = .mode && x.converting then a else b) = b :=
  if_neg (by simpa using hc)

/-- R73: a read of MODE waits for the group's conversions. -/
theorem rdsr_waits {h : Hdr} {d : Opr} (hi : Issues (.rdsr h d .mode) s x) (hc : x.converting = true) (hn : ∀ n, x.who ≠ .stream n) :
    exec (.rdsr h d .mode) s = .next s.retry := by
  change word _ s _ = _
  rw [word_of_issues hi]
  exact congrArg (fun a : Act => Host.Outcome.next (a.after s))
    ((Issue.readable (fun n hw => absurd hw (hn n)) _ _).trans (if_pos (by simp [hc])))

theorem wrap_natCast (w n : Nat) : wrap w n = n % 2 ^ w := by
  rw [wrap, ← Int.natCast_emod, Int.toNat_natCast]

theorem zext_mod (y n : Nat) : zext (y % 2 ^ n) n = zext y n := by
  rw [zext, Nat.mod_mod, zext]

theorem Issue.lt_of_mem_lanesList {l : Nat} (h : l ∈ x.lanesList) : l < 64 :=
  BitVec.lt_of_getLsbD (List.mem_filter.mp h).2

theorem orAll_zeros {xs : List (BitVec 6)} (h : ∀ a ∈ xs, a = 0) : orAll xs = 0 := by
  induction xs with
  | nil => rfl
  | cons a xs ih =>
    obtain rfl := h a (by simp)
    exact ih (fun b hb => h b (by simp [hb]))

/-- R94: what an rdsr writes to a v register or pair of a lane, and its flags. -/
def Issue.specialWrites (x : Issue) (n : Fin 192) (sr : SpecialReg) (l : Nat) : List RegWrite × BitVec 6 :=
  if sr = .laneid then ([⟨.v n.val l, BitVec.ofNat 64 l⟩], 0)
  else if sr.bits = 64 then (vPair n.val l (x.special sr).toNat, 0) else ([⟨.v n.val l, zext (x.special sr).toNat 32⟩], 0)

theorem Issue.specialWrites_flags (x : Issue) (n : Fin 192) (sr : SpecialReg) (l : Nat) : (x.specialWrites n sr l).2 = 0 := by
  unfold Issue.specialWrites
  split
  · rfl
  · split <;> rfl

/-- R92: the width at which a special register is read. -/
def srWidth (sr : SpecialReg) : Nat := if sr.bits = 64 then 64 else 32

/-- R92, R94: the value of a special register in a lane. -/
def Issue.specialOf (x : Issue) (sr : SpecialReg) (l : Nat) : Nat := if sr = .laneid then l else (x.special sr).toNat

theorem Issue.specialWrites_eq {n : Fin 192} {sr : SpecialReg} {l : Nat} (hl : l < 64) :
    (x.specialWrites n sr l).1 = putInt (srWidth sr) false (.v n) l (wrap (srWidth sr) (x.specialOf sr l)) := by
  rw [wrap_natCast]
  unfold Issue.specialWrites Issue.specialOf srWidth
  by_cases hlane : sr = .laneid
  · subst hlane
    have hz : zext (l % 2 ^ 32) 32 = BitVec.ofNat 64 l := by rw [zext_mod, zext, Nat.mod_eq_of_lt (by omega)]
    rw [if_pos rfl, if_pos rfl, if_neg (by decide)]
    exact congrArg (fun v => [(⟨.v n.val l, v⟩ : RegWrite)]) hz.symm
  · rw [if_neg hlane, if_neg hlane]
    by_cases hb : sr.bits = 64
    · rw [if_pos hb, if_pos hb, Nat.mod_eq_of_lt (x.special sr).isLt]
      rfl
    · rw [if_neg hb, if_neg hb]
      rw [← zext_mod]
      rfl

section
variable {h : Hdr} {sr : SpecialReg} (hs : ∀ n, x.who = .stream n → srInStream sr = true) (hc : sr = .mode → x.converting = false)
include hs hc

/-- R94: rdsr to an s register. -/
theorem rdsr_scalar {n : Fin 64} (hi : Issues (.rdsr h (.s n) sr) s x) : exec (.rdsr h (.s n) sr) s =
    .next (x.variable x.s [.s n.val] [⟨.s n.val, if sr.bits = 64 then x.special sr else ((x.special sr).setWidth 32).setWidth 64⟩] 0 0
      (s.clock + rdsrLat sr) false) := by
  have hz : zext (x.special sr).toNat 32 = ((x.special sr).setWidth 32).setWidth 64 := BitVec.eq_of_toNat_eq (by simp [zext])
  rw [← hz, ← hi.clock]
  exact word_done hi ((Issue.readable hs _ _).trans (Issue.settled hc _ _))

/-- R94: rdsr to a v register or pair. -/
theorem rdsr_lanes {n : Fin 192} (hi : Issues (.rdsr h (.v n) sr) s x) :
    Pends (.rdsr h (.v n) sr) s x (rdsrLat sr) (srWidth sr) false (.v n) 0 (fun l => x.specialOf sr l) := by
  have hp := pends_of_perLaneV (lat := rdsrLat sr) (w := srWidth sr) (cnt := if sr.bits = 64 then 2 else 1) (sg := false)
    (val := fun l => x.specialOf sr l) hi _ rfl (x.specialWrites n sr) ((Issue.readable hs _ _).trans (Issue.settled hc _ _))
    (by unfold srWidth; split <;> rfl) (fun l hl => Issue.specialWrites_eq (Issue.lt_of_mem_lanesList hl))
  rwa [orAll_zeros (by simp [Issue.specialWrites_flags])] at hp

end

/-! ### wrsr (R95) -/

/-- R88: MODE as a wrsr writes it, reserved bits 0. -/
def modeWritten (v : Word) : BitVec 24 := BitVec.ofNat 24 (field v 23 16 * 2 ^ 16 + field v 8 0)

theorem modeWritten_bit (v : Word) {j : Nat} (hj : j < 24) :
    (modeWritten v).getLsbD j = ((decide (j < 9) || decide (16 ≤ j)) && v.getLsbD j) := by
  have h8 : field v 8 0 < 2 ^ 16 := Nat.lt_of_lt_of_le (Nat.mod_lt _ (by decide)) (by decide)
  have hsplit : (modeWritten v).getLsbD j = (2 ^ 16 * field v 23 16 + field v 8 0).testBit j := by
    rw [modeWritten, BitVec.getLsbD_ofNat, Nat.mul_comm]
    simp [hj]
  rw [hsplit, Nat.testBit_two_pow_mul_add _ h8]
  simp only [field, bits, Nat.testBit_mod_two_pow, Nat.testBit_div_two_pow, BitVec.getLsbD]
  split
  next h =>
    have hn : ¬ 16 ≤ j := by omega
    simp [hn]
  next h =>
    have h9 : ¬ j < 9 := by omega
    have h16 : 16 ≤ j := by omega
    have hd : j - 16 < 8 := by omega
    simp [h9, h16, hd]

theorem exec_wrsr {h : Hdr} {a : Fin 64} {sr : SpecialReg} (hi : Issues (.wrsr h a sr) s x) (hc : x.converting = false) :
    exec (.wrsr h a sr) s = .next (x.modG x.s (fun g => g.settle.writeSpecial sr (x.sreg a))) :=
  word_done hi (if_neg (by simp [hc]))

theorem exec_mark {h : Hdr} {a : Fin 64} {id : BitVec 8} (hi : Issues (.mark h a id) s x) : exec (.mark h a id) s =
    .next (x.s.trace x.la x.team.die 1 x.gi x.team.idx x.team.span id.toNat x.pc (x.sreg a)) := word_done hi rfl

/-- R94: an rdsr reads one value, the same in every lane: to an s register, a v pair or a v register. -/
def ReadsValue (h : Hdr) (d : Opr) (sr : SpecialReg) (s : State) (x : Issue) (v : Word) : Prop :=
  (∀ n, d = .s n → exec (.rdsr h d sr) s = .next (x.variable x.s [.s n.val]
    [⟨.s n.val, if sr.bits = 64 then v else (v.setWidth 32).setWidth 64⟩] 0 0 (s.clock + rdsrLat sr) false)) ∧
  (∀ n, d = .v n → sr.bits = 64 → Pends (.rdsr h d sr) s x (rdsrLat sr) 64 false d 0 (fun _ => v.toNat)) ∧
  (∀ n, d = .v n → sr.bits ≠ 64 → Pends (.rdsr h d sr) s x (rdsrLat sr) 32 false d 0 (fun _ => v.toNat))

/-- R92: every special register but LANEID reads one value, LANEID in an s register too. -/
theorem rdsr_readsValue {h : Hdr} {d : Opr} {sr : SpecialReg} (hi : Issues (.rdsr h d sr) s x) (hc : sr = .mode → x.converting = false)
    (hs : ∀ n, x.who = .stream n → srInStream sr = true) (hl : sr = .laneid → ∀ n, d ≠ .v n) :
    ReadsValue h d sr s x (x.special sr) := by
  have lanes {n : Fin 192} (hn : d = .v n) : Pends (.rdsr h d sr) s x (rdsrLat sr) (srWidth sr) false d 0 (fun _ => (x.special sr).toNat) := by
    subst hn
    have hp := rdsr_lanes hs hc hi
    simpa only [Issue.specialOf, if_neg (fun he => hl he n rfl)] using hp
  refine ⟨fun n hn => ?_, fun n hn hb => ?_, fun n hn hb => ?_⟩
  · subst hn
    exact rdsr_scalar hs hc hi
  · have hw : srWidth sr = 64 := if_pos hb
    have hp := lanes hn
    rwa [hw] at hp
  · have hw : srWidth sr = 32 := if_neg hb
    have hp := lanes hn
    rwa [hw] at hp

/-- Settles O37: an rdsr reads the value that R92 names (`rdsr_readsValue`, LANEID by `rdsr_lanes`), MODE once the conversions are complete; a
wrsr writes to the settled group what its register holds. -/
theorem specialRegisters : Obligations.SpecialRegisters := by
  unfold Obligations.SpecialRegisters
  refine fun s x => ⟨fun h sr hsr hc d hi hn => ?waits, fun h d sr hi hc hs => ?reads, fun h a sr hi hc => ?writes, fun h a id hi => ?mark⟩
  case waits =>
    subst hsr
    exact rdsr_waits hi hc hn
  case reads =>
    have value (hl : sr ≠ .laneid) : ReadsValue h d sr s x (x.special sr) := rdsr_readsValue hi hc hs (fun he => absurd he hl)
    cases sr with
    | gstat => exact ⟨_, value (by decide), fun j => x.grp.gstat_bit x.W⟩
    | clock =>
      have hv : x.special .clock = BitVec.ofNat 64 s.clock := congrArg (BitVec.ofNat 64) hi.clock
      exact hv ▸ value (by decide)
    | laneid =>
      refine ⟨fun n hn => ?_, fun n hn => ?_⟩
      · subst hn
        exact rdsr_readsValue hi hc hs (fun _ m hm => by cases hm)
      · subst hn
        exact rdsr_lanes hs hc hi
    | _ => exact value (by decide)
  case writes =>
    refine ⟨modeWritten (x.sreg a), fun j => modeWritten_bit _, ?_⟩
    rw [exec_wrsr hi hc]
    cases sr <;> rfl
  case mark =>
    refine ⟨fun hd => ?_, exec_mark hi⟩
    rw [exec_mark hi, State.trace_detached (hi.dbgOf_none hd)]

end Sys2Proof.Machine

/-! SUPPORT. The delivery of a trap (R250): a state on which the statement about traps does not hold. -/

namespace Sys2Proof.Machine

/-! ### Two teams of one number -/

/-- A fragment in the midst of an inv. -/
def Twins.frag : Frag :=
  { Frag.blank with invIn := some { pc := 0, br := 0, lanes := 1, imt := false, tgts := [], fin := 0, body := [], again := false } }

/-- The first team of number 0: its group holds the fragment. -/
def Twins.first : Team := { Team.blank with res := .resident, groups := [{ Group.blank with frags := [Twins.frag] }] }

/-- The second team of number 0: its group has no fragment. -/
def Twins.second : Team := { Team.blank with res := .resident, groups := [Group.blank] }

/-- Their launch, whose record declares a handler. -/
def Twins.launch : Launch := { Launch.blank with r := { Rec.blank with traph := 8 } }

def Twins.state : State := { State.reset with teams := [Twins.first, Twins.second], launches := [Twins.launch] }

/-- ALIGN, a cause that a handler receives. -/
def Twins.trap : Trap := { code := cALIGN, tval := 0 }

/-- The invs that the groups' trapping fragments left, team by team. -/
def State.lefts (s : State) : List (List (Option InvRun)) := s.teams.map (fun t => t.groups.map Group.left)

/-- A delivery reads the fragment of each group it changes: the second team's group has left no inv. -/
theorem Twins.lefts_takeTrap : (Twins.state.takeTrap (.frag 0 0 0) Twins.trap).lefts = [[Twins.frag.invIn], [none]] := by
  decide

/-- Nothing holds the trap back: the group's work is complete, and neither a save nor a stop is under way. -/
theorem Twins.not_held : ¬ (Twins.state.drained Twins.first 0 { Group.blank with frags := [Twins.frag] } = false ∨
    Twins.state.saving Twins.first = true ∨ Twins.state.faultHeld Twins.launch Twins.first = true) := by
  decide

/-- Refutes O36, at the delivery of a trap to a handler. Over every state the statement lets two teams bear one number (no run makes such a
state): both teams' groups then take the trap, and each keeps the inv of its own fragment, where the statement has both keep the inv of
the first team's fragment. The clause lacks the hypothesis that teams have distinct numbers. -/
theorem not_trapsEnterAndReturn : ¬ Obligations.TrapsEnterAndReturn := by
  unfold Obligations.TrapsEnterAndReturn
  rintro ⟨-, hfrag, -⟩
  obtain ⟨-, hdeliver, -⟩ := hfrag Twins.state 0 0 0 Twins.trap Twins.first _ Twins.launch Twins.frag rfl rfl rfl rfl
  have h := congrArg State.lefts (hdeliver Twins.not_held (by decide) (by decide) rfl rfl)
  rw [Twins.lefts_takeTrap] at h
  exact absurd h (by decide)

end Sys2Proof.Machine

/-! SUPPORT. The end of a launch (R261, R331): what leaves the launches and the timelines as they are, and what retirement leaves of the launch. -/

namespace Sys2Proof.Machine

/-! ### What leaves the launches and the timelines as they are -/

/-- A context without the number of records posted to its fault queue. -/
def Ctx.unposted (c : Ctx) : Ctx := { c with posted := 0 }

theorem Ctx.of_unposted {c d : Ctx} (h : c.unposted = d.unposted) : c.handle = d.handle ∧ c.signal = d.signal ∧ c.stream = d.stream ∧ c.tls = d.tls := by
  simp only [Ctx.unposted, Ctx.mk.injEq] at h
  simp [h]

/-- Two states with the same launches, and the same contexts but for the fault records posted to them. -/
def State.SameLedger (s t : State) : Prop :=
  t.launches = s.launches ∧ ∀ h, (t.ctx? h).map Ctx.unposted = (s.ctx? h).map Ctx.unposted

variable {s t u : State}

theorem State.SameLedger.of_eq (hl : t.launches = s.launches) (hc : t.ctxs = s.ctxs) : s.SameLedger t :=
  ⟨hl, fun h => by rw [State.ctx?, hc]; rfl⟩

theorem State.SameLedger.refl (s : State) : s.SameLedger s := .of_eq rfl rfl

theorem State.SameLedger.trans (h : s.SameLedger t) (k : t.SameLedger u) : s.SameLedger u :=
  ⟨k.1.trans h.1, fun i => (k.2 i).trans (h.2 i)⟩

theorem State.SameLedger.launch? (h : s.SameLedger t) (seq : Nat) : t.launch? seq = s.launch? seq := by
  rw [State.launch?, h.1]
  rfl

theorem State.writePhys_sameLedger (s : State) (slot pa : Nat) (bs : List Byte) : s.SameLedger (s.writePhys slot pa bs) := by
  obtain ⟨h, -⟩ := s.writePhys_frame slot pa bs
  have hl := congrArg State.launches h
  have hc := congrArg State.ctxs h
  exact .of_eq hl hc

/-- An answer that leaves the state where a condition holds. -/
theorem State.SameLedger.unless {α : Type} {c : Prop} [Decidable c] {y : α} {r : State × α} (h : s.SameLedger r.1) :
    s.SameLedger (if c then (s, y) else r).1 := by
  split
  · exact .refl s
  · exact h

theorem State.SameLedger.ite {c : Prop} [Decidable c] (h : s.SameLedger t) (k : s.SameLedger u) : s.SameLedger (if c then t else u) := by
  split
  · exact h
  · exact k

/-! ### Translating and reaching an address -/

theorem State.touch_sameLedger (s : State) (pa : Nat) (a : Access) : s.SameLedger (s.touch pa a) := by
  unfold State.touch
  dsimp only
  split
  · exact .refl s
  · exact s.writePhys_sameLedger _ _ _

theorem State.install_sameLedger (s : State) (sp : Space) (va pa level : Nat) (e : Word) (a : Access) :
    s.SameLedger (s.install sp va pa level e a).1 := by
  unfold State.install
  dsimp only
  split
  · exact (foldl_keeps (P := s.SameLedger) _ (fun t j h => h.trans (t.touch_sameLedger _ a)) _ (.refl s)).trans (.of_eq rfl rfl)
  · exact (s.touch_sameLedger pa a).trans (.of_eq rfl rfl)

theorem State.walkFrom_sameLedger (sp : Space) (va : Nat) (a : Access) (level : Nat) : ∀ (s : State) (table : Nat),
    s.SameLedger (s.walkFrom sp va a level table).1 := by
  induction level with
  | zero => exact fun s _ => .refl s
  | succ level ih =>
    intro s table
    unfold State.walkFrom
    dsimp only
    refine .unless (.unless (.unless (.unless (.unless ?_))))
    split
    · exact .unless (.unless (s.install_sameLedger ..))
    · exact .unless (.unless (.trans (.of_eq rfl rfl) (ih _ _)))

theorem State.viaTlb_sameLedger (s : State) (sp : Space) (n : Nat) (a : Access) (root : Nat) : s.SameLedger (s.viaTlb sp n a root).1 := by
  unfold State.viaTlb
  dsimp only
  have hb : s.SameLedger (if sp.die < 8 then s.bump 4 sp.die (ctlOf n) 3 sp.part 1 else s) := .ite (.of_eq rfl rfl) (.refl s)
  split
  · split
    · exact .trans (.of_eq rfl rfl) (State.walkFrom_sameLedger ..)
    · exact .unless (.refl s)
  · split <;> exact hb.trans (State.walkFrom_sameLedger ..)

theorem State.peerChecked_state (s : State) (r : State × Except Nat Tr) : (s.peerChecked r).1 = r.1 := by
  unfold State.peerChecked
  split
  · split <;> rfl
  · rfl

theorem State.homeChecked_state (sp : Space) (va : Nat) (a : Access) (r : State × Except Nat Tr) :
    (State.homeChecked sp va a r).1 = r.1 := by
  unfold State.homeChecked
  split
  · split
    · rfl
    · split
      · split <;> rfl
      · rfl
  · rfl

theorem State.translate_sameLedger (s : State) (sp : Space) (va : Word) (a : Access) : s.SameLedger (s.translate sp va a).1 := by
  unfold State.translate
  dsimp only
  refine .unless (.unless (.unless (.unless ?_)))
  split
  · refine .unless ?_
    split
    · rw [State.peerChecked_state, State.homeChecked_state]
      exact s.viaTlb_sameLedger ..
    · rw [State.peerChecked_state]
      exact .refl s
  · rw [State.peerChecked_state, State.homeChecked_state]
    exact s.viaTlb_sameLedger ..

theorem State.addSlice_sameLedger (s : State) (die index : Nat) (c : Loc) (replica : Bool) : s.SameLedger (s.addSlice die index c replica) := by
  unfold State.addSlice
  split
  · exact .of_eq rfl rfl
  · exact .ite (.refl s) (.of_eq rfl rfl)

theorem State.replicate_sameLedger (s : State) (die : Nat) (c : Loc) (r : Tr) : s.SameLedger (s.replicate die c r).1 := by
  unfold State.replicate
  refine .unless ?_
  split
  · exact .unless (.unless (.of_eq rfl rfl))
  · dsimp only
    split <;> exact .of_eq rfl rfl

theorem State.fill_sameLedger (s : State) (sp : Space) (a : Access) (c : Loc) (r : Tr) : s.SameLedger (s.fill sp a c r) := by
  have hr : s.SameLedger (if a == .write then (s, false) else s.replicate sp.die c r).1 := .unless (s.replicate_sameLedger ..)
  have hs := hr.trans (State.addSlice_sameLedger _ (homeDie c.pa) sp.part c false)
  exact .ite (.refl s) (.ite (hs.trans (State.addSlice_sameLedger ..)) hs)

theorem State.peerTouch_sameLedger (s : State) (peer pa n : Nat) : s.SameLedger (s.peerTouch peer pa n) := .of_eq rfl rfl

theorem State.askHome_sameLedger (s : State) (c : Loc) (n : Nat) : s.SameLedger (s.askHome c n) := .ite (.refl s) (.of_eq rfl rfl)

theorem State.reach1_sameLedger (s : State) (sp : Space) (a : Access) (rd q : Bool) (n : Nat) (va : Word) :
    s.SameLedger (s.reach1 sp a rd q n va).1 := by
  have ht := s.translate_sameLedger sp va a
  unfold State.reach1
  split
  next u e he => rwa [he] at ht
  next u r hr =>
    rw [hr] at ht
    dsimp only at ht ⊢
    split
    · exact ht
    · have hp := ht.trans (.ite (u.peerTouch_sameLedger r.peer (r.pa / 64 * 64) 64) (.refl u) (c := (r.peer != 0) = true))
      exact (hp.trans (.ite (State.askHome_sameLedger ..) (.refl _))).trans (State.fill_sameLedger ..)

theorem State.collapsePhys_sameLedger (s : State) (pa n : Nat) : s.SameLedger (s.collapsePhys pa n) := by
  have drops (t : State) (r : Replica) : t.SameLedger ((List.range 8).foldl (fun s d => s.dropReplica r d) t) :=
    foldl_keeps (P := t.SameLedger) (fun s d => s.dropReplica r d) (fun _ _ h => h.trans (.of_eq rfl rfl)) _ (.refl t)
  exact (foldl_keeps (P := s.SameLedger) _ (fun t r h => h.trans (drops t r)) _ (.refl s)).trans (.of_eq rfl rfl)

theorem State.writeHome_sameLedger (s : State) (c : Loc) (bs : List Byte) : s.SameLedger (s.writeHome c bs) :=
  .ite (.of_eq rfl rfl) (.ite (.ite (.refl s) (.of_eq rfl rfl)) (s.writePhys_sameLedger ..))

/-! ### Records -/

theorem State.storeWords_sameLedger {sp : Space} {va : Word} {ws : List Word} (h : s.storeWords sp va ws = some t) : s.SameLedger t := by
  unfold State.storeWords at h
  generalize ws.zipIdx = xs at h
  induction xs generalizing s with
  | nil =>
    cases h
    exact .refl _
  | cons x xs ih =>
    rw [List.foldlM_cons, Option.bind_eq_bind, Option.bind_eq_some_iff] at h
    obtain ⟨u, hu, ht⟩ := h
    refine State.SameLedger.trans ?_ (ih ht)
    have hr := s.reach1_sameLedger sp .write false false 8 (va + BitVec.ofNat 64 (8 * x.2))
    split at hu
    next v c r hv =>
      cases hu
      rw [hv] at hr
      exact (hr.trans (.ite (v.collapsePhys_sameLedger ..) (.refl v))).trans (State.writeHome_sameLedger ..)
    next => cases hu

theorem State.trace_sameLedger (s : State) (l : Launch) (die kind grp team span id : Nat) (pc val : Word) :
    s.SameLedger (s.trace l die kind grp team span id pc val) := by
  unfold State.trace
  split
  · exact .refl s
  · refine .ite (.refl s) ?_
    dsimp only
    split
    next h => exact (State.storeWords_sameLedger h).trans (.of_eq rfl rfl)
    next => exact .of_eq rfl rfl

/-- A change of contexts that keeps all but the number of records posted. -/
theorem State.modCtx_sameLedger (s : State) (h : Nat) {f : Ctx → Ctx} (hf : ∀ c, (f c).unposted = c.unposted) : s.SameLedger (s.modCtx h f) := by
  refine ⟨rfl, fun k => ?_⟩
  have hh (c : Ctx) : (f c).handle = c.handle := (Ctx.of_unposted (hf c)).1
  unfold State.ctx? State.modCtx
  dsimp only
  induction s.ctxs with
  | nil => rfl
  | cons c cs ih =>
    rw [List.map_cons, List.find?_cons, List.find?_cons]
    have hk : (if c.handle = h then f c else c).handle = c.handle := by split <;> simp [hh]
    rw [hk]
    split
    · rw [Option.map_some, Option.map_some]
      split <;> simp [hf]
    · exact ih

theorem State.postFault_sameLedger (s : State) (l : Launch) (grp team span stat cause sub : Nat) (tpc tval : Word) :
    s.SameLedger (s.postFault l grp team span stat cause sub tpc tval) := by
  unfold State.postFault
  dsimp only
  split
  · exact .refl s
  · exact (s.writePhys_sameLedger ..).trans (State.modCtx_sameLedger _ _ (fun _ => rfl))

theorem State.dissolve_sameLedger (s : State) (q : Queue) : s.SameLedger (s.dissolve q) :=
  (s.writePhys_sameLedger ..).trans (.of_eq rfl rfl)

theorem State.dissolveAll_sameLedger (s : State) (qs : List Queue) : s.SameLedger (qs.foldl State.dissolve s) :=
  foldl_keeps (P := s.SameLedger) _ (fun t q h => h.trans (t.dissolve_sameLedger q)) qs (.refl s)

/-- R178: what is dissolved is gone. -/
theorem State.dissolveAll_queues (qs : List Queue) : ∀ s : State, (qs.foldl State.dissolve s).queues = s.queues.filter (fun y => !qs.contains y) := by
  induction qs with
  | nil => exact fun s => (List.filter_eq_self.mpr (by simp)).symm
  | cons q qs ih =>
    intro s
    have hq : (s.dissolve q).queues = s.queues.filter (fun y => y != q) := by
      have e := congrArg State.queues (s.writePhys_frame (q.place 0).2 (q.place 0).1 (leBytes 8 (s.queueWord q 0 % 2 ^ 63))).1
      exact congrArg (List.filter (fun y => y != q)) e
    rw [List.foldl_cons, ih, hq, List.filter_filter]
    refine List.filter_congr (fun y _ => ?_)
    rw [List.contains_cons, Bool.not_or, Bool.and_comm]
    rfl

theorem State.dissolveOwn_queues (s : State) (seq : Nat) :
    ∀ q ∈ ((s.queues.filter (fun q => q.seq == seq)).foldl State.dissolve s).queues, q.seq ≠ seq := by
  intro q hq hseq
  rw [State.dissolveAll_queues] at hq
  obtain ⟨hmem, hn⟩ := List.mem_filter.mp hq
  simp [hmem, hseq] at hn

/-! ### Raising a timeline and erasing a slot -/

/-- Two states with the same launches, teams, carries, saved images and queues. -/
structure State.SameHeld (s t : State) : Prop where
  launches : t.launches = s.launches
  teams    : t.teams = s.teams
  chain    : t.chain = s.chain
  saves    : t.sec.saves = s.sec.saves
  queues   : t.queues = s.queues

theorem State.SameHeld.refl (s : State) : s.SameHeld s := ⟨rfl, rfl, rfl, rfl, rfl⟩

theorem State.SameHeld.trans (h : s.SameHeld t) (k : t.SameHeld u) : s.SameHeld u :=
  ⟨k.launches.trans h.launches, k.teams.trans h.teams, k.chain.trans h.chain, k.saves.trans h.saves, k.queues.trans h.queues⟩

theorem State.SameHeld.launch? (h : s.SameHeld t) (seq : Nat) : t.launch? seq = s.launch? seq := by
  rw [State.launch?, h.launches]
  rfl

theorem State.announce_sameHeld (s : State) (c : Ctx) (i : Nat) (v : Word) : s.SameHeld (s.announce c i v) := by
  unfold State.announce
  dsimp only
  split <;> split <;> exact ⟨rfl, rfl, rfl, rfl, rfl⟩

theorem State.raise_sameHeld (s : State) (h i : Nat) (v : Word) : s.SameHeld (s.raise h i v) := by
  unfold State.raise
  split
  · exact .refl s
  · exact .trans (t := s.modCtx h _) ⟨rfl, rfl, rfl, rfl, rfl⟩ (State.announce_sameHeld ..)

theorem State.ctx?_modCtx (s : State) (h : Nat) {f : Ctx → Ctx} (hf : ∀ c, (f c).handle = c.handle) :
    (s.modCtx h f).ctx? h = (s.ctx? h).map f := by
  unfold State.ctx? State.modCtx
  dsimp only
  induction s.ctxs with
  | nil => rfl
  | cons c cs ih =>
    rw [List.map_cons, List.find?_cons, List.find?_cons]
    by_cases hc : c.handle = h
    · simp [hc, hf]
    · rw [if_neg hc, beq_false_of_ne hc]
      exact ih

theorem State.announce_ctxs (s : State) (c : Ctx) (i : Nat) (v : Word) : (s.announce c i v).ctxs = s.ctxs := by
  unfold State.announce
  dsimp only
  split <;> split <;> rfl

/-- R252, R332: a raised timeline of a context is at least what it was raised to. -/
theorem State.timeline_raise {c : Ctx} {h i : Nat} (v : Word) (hc : s.ctx? h = some c) (hi : i < c.tls.length) :
    v.toNat ≤ ((s.raise h i v).timeline h i).toNat := by
  have hm (w : Word) : (s.modCtx h (fun c => { c with tls := c.tls.set i w })).ctx? h = some { c with tls := c.tls.set i w } :=
    (State.ctx?_modCtx s h (f := fun c => { c with tls := c.tls.set i w }) (fun _ => rfl)).trans (by rw [hc]; rfl)
  have ht : (s.raise h i v).timeline h i = if (c.tls.getD i 0).toNat < v.toNat then v else c.tls.getD i 0 := by
    unfold State.raise State.timeline
    rw [hc]
    dsimp only
    rw [State.ctx?, State.announce_ctxs, ← State.ctx?, hm]
    simp [hi]
  rw [ht]
  split <;> omega

/-- R370: what the erasure of a slot leaves of the ledger and of what launches hold. -/
theorem State.eraseSlot_keeps (s : State) (n : Nat) : s.SameHeld (s.eraseSlot n) ∧ (s.eraseSlot n).ctxs = s.ctxs := by
  have line (t : State) (k : Nat) : t.SameHeld (t.rekeyLine 0 k) ∧ (t.rekeyLine 0 k).ctxs = t.ctxs := by
    unfold State.rekeyLine
    split <;> exact ⟨⟨rfl, rfl, rfl, rfl, rfl⟩, rfl⟩
  have hleave : s.SameHeld (s.leaveSlot n) ∧ (s.leaveSlot n).ctxs = s.ctxs :=
    foldl_keeps (P := fun t => s.SameHeld t ∧ t.ctxs = s.ctxs) _
      (fun t k h => ⟨h.1.trans (line t k).1, (line t k).2.trans h.2⟩) _ ⟨.refl s, rfl⟩
  obtain ⟨hheld, hctxs⟩ := hleave
  exact ⟨hheld.trans ⟨rfl, rfl, rfl, rfl, rfl⟩, hctxs⟩

/-! ### The end of a launch (R332) -/

/-- Nothing in a state belongs to the launch with a sequence number: no team, carry, saved image or queue. -/
structure State.Without (s : State) (seq : Nat) : Prop where
  teams  : ∀ y ∈ s.teams, y.seq ≠ seq
  chain  : ∀ y ∈ s.chain, y.seq ≠ seq
  saves  : ∀ e ∈ s.sec.saves, e.seq ≠ seq
  queues : ∀ q ∈ s.queues, q.seq ≠ seq

theorem State.Without.congr {seq : Nat} (h : s.Without seq) (k : s.SameHeld t) : t.Without seq :=
  ⟨k.teams ▸ h.teams, k.chain ▸ h.chain, k.saves ▸ h.saves, k.queues ▸ h.queues⟩

/-- A launch as its retirement leaves it. -/
def Launch.retire (l : Launch) : Launch := { l with st := .retired, spans := [] }

/-- R332: the raise of a retired launch's timeline. -/
def State.signalEnd (s : State) (l : Launch) : State :=
  if s.launchCtx l.stream l.r.ctx && (l.r.sigtl == 0 || l.r.sigtl == 6 || l.r.sigtl == 7) then s.raise l.r.ctx l.r.sigtl l.r.sigval else s

/-- R377: the slot of a retired launch, erased where it was retiring and no launch still uses it. -/
def State.freeKey (s : State) (l : Launch) : State :=
  if l.slot != 0 && (s.keySlot l.slot).st == .retiring && !s.slotUsed l.slot then s.eraseSlot l.slot else s

theorem State.signalEnd_sameHeld (s : State) (l : Launch) : s.SameHeld (s.signalEnd l) := by
  unfold State.signalEnd
  split
  · exact s.raise_sameHeld ..
  · exact .refl s

theorem State.freeKey_keeps (s : State) (l : Launch) : s.SameHeld (s.freeKey l) ∧ (s.freeKey l).ctxs = s.ctxs := by
  unfold State.freeKey
  split
  · exact s.eraseSlot_keeps l.slot
  · exact ⟨.refl s, rfl⟩

/-- R178, R332: a retirement frees what the launch held, marks it retired, raises its timeline, frees its slot and lets its debugger go. -/
theorem State.retireLaunch_stages {seq : Nat} {l : Launch} (hl : s.launch? seq = some l) : ∃ u f, s.SameLedger u ∧ u.Without seq ∧
    s.retireLaunch seq = (((u.modLaunch seq Launch.retire).signalEnd l).freeKey l).modDbg l.part f := by
  unfold State.retireLaunch
  rw [hl]
  dsimp only
  refine ⟨_, _, ?ledger, ?without, rfl⟩
  case ledger =>
    have hp : s.SameLedger (if l.status = 0 then s else s.postFault l 0xFF 0xFF 0xFFFF l.status 0 0 0 0) := .ite (.refl s) (s.postFault_sameLedger ..)
    exact ((hp.trans (State.trace_sameLedger ..)).trans (State.dissolveAll_sameLedger ..)).trans (.of_eq rfl rfl)
  case without =>
    have without {α : Type} (seqOf : α → Nat) (xs : List α) : ∀ y ∈ xs.filter (fun y => seqOf y != seq), seqOf y ≠ seq := by simp
    exact ⟨without Team.seq _, without Carry.seq _, without SaveEntry.seq _, State.dissolveOwn_queues _ seq⟩

theorem State.launch?_modLaunch (s : State) (seq : Nat) {f : Launch → Launch} (hf : ∀ l, (f l).seq = l.seq) :
    (s.modLaunch seq f).launch? seq = (s.launch? seq).map f := by
  unfold State.launch? State.modLaunch
  dsimp only
  induction s.launches with
  | nil => rfl
  | cons c cs ih =>
    rw [List.map_cons, List.find?_cons, List.find?_cons]
    by_cases hc : c.seq = seq
    · simp [hc, hf]
    · rw [if_neg hc, beq_false_of_ne hc]
      exact ih

/-- R332: after its retirement a launch is retired, and nothing of it is left. -/
theorem State.retireLaunch_retires {seq : Nat} {l : Launch} (hl : s.launch? seq = some l) :
    (s.retireLaunch seq).launch? seq = some l.retire ∧ (s.retireLaunch seq).Without seq := by
  obtain ⟨u, f, hledger, hwithout, he⟩ := State.retireLaunch_stages hl
  have hend : (u.modLaunch seq Launch.retire).SameHeld (s.retireLaunch seq) := by
    rw [he]
    exact ((State.signalEnd_sameHeld ..).trans (State.freeKey_keeps ..).1).trans ⟨rfl, rfl, rfl, rfl, rfl⟩
  have hretired : (u.modLaunch seq Launch.retire).Without seq := ⟨hwithout.teams, hwithout.chain, hwithout.saves, hwithout.queues⟩
  refine ⟨?_, hretired.congr hend⟩
  rw [hend.launch?, State.launch?_modLaunch u seq (f := Launch.retire) (fun _ => rfl), hledger.launch?, hl]
  rfl

/-- R332: the timeline that a launch names reaches its value when the launch retires. -/
theorem State.retireLaunch_timeline {seq : Nat} {l : Launch} {c : Ctx} (hl : s.launch? seq = some l) (hc : s.ctx? l.r.ctx = some c)
    (hsig : c.signal = false) (hstr : c.stream = l.stream) (htl : l.r.sigtl ∈ [0, 6, 7]) (hlen : l.r.sigtl < c.tls.length) :
    l.r.sigval.toNat ≤ ((s.retireLaunch seq).timeline l.r.ctx l.r.sigtl).toNat := by
  obtain ⟨u, f, hledger, -, he⟩ := State.retireLaunch_stages hl
  obtain ⟨d, hd, hdc⟩ : ∃ d, (u.modLaunch seq Launch.retire).ctx? l.r.ctx = some d ∧ d.unposted = c.unposted :=
    Option.map_eq_some_iff.mp ((hledger.2 l.r.ctx).trans (congrArg (Option.map Ctx.unposted) hc))
  obtain ⟨-, hdsig, hdstr, hdtls⟩ := Ctx.of_unposted hdc
  have hraise : (u.modLaunch seq Launch.retire).signalEnd l = (u.modLaunch seq Launch.retire).raise l.r.ctx l.r.sigtl l.r.sigval :=
    if_pos (by simpa [State.launchCtx, hd, hdsig, hdstr, hsig, hstr, or_assoc] using htl)
  rw [he]
  have hctxs : ((((u.modLaunch seq Launch.retire).signalEnd l).freeKey l).modDbg l.part f).ctxs =
      ((u.modLaunch seq Launch.retire).raise l.r.ctx l.r.sigtl l.r.sigval).ctxs := by
    rw [← hraise]
    exact (State.freeKey_keeps ..).2
  rw [State.timeline, State.ctx?, hctxs]
  exact State.timeline_raise l.r.sigval hd (hdtls ▸ hlen)

end Sys2Proof.Machine

/-! SUPPORT. The life of a launch (R82-R87, R261, R298, R329-R331): its teams' start, their end, and what each of its events does. -/

namespace Sys2Proof.Machine
variable {s t u : State}

/-! ### The start of a team (R82-R87, R261) -/

/-- Values written at consecutive keys, from k on. -/
theorem Cells.get_foldl_set {α : Type} [DecidableEq α] (d : α) (xs : List α) : ∀ (k : Nat) (m : Cells α), Cells.wf d m = true → ∀ n,
    Cells.get d ((xs.zipIdx k).foldl (fun c x => Cells.set d c x.2 x.1) m) n =
      if k ≤ n ∧ n < k + xs.length then xs.getD (n - k) d else Cells.get d m n := by
  induction xs with
  | nil =>
    intro k m _ n
    rw [if_neg (by simp only [List.length_nil]; omega)]
    rfl
  | cons x xs ih =>
    intro k m hm n
    rw [List.zipIdx_cons, List.foldl_cons, ih _ _ (Cells.wf_set d hm k x), Cells.get_set d hm, List.length_cons]
    by_cases hk : k = n
    · subst hk
      rw [if_neg (by omega), if_pos rfl, if_pos (by omega), Nat.sub_self]
      rfl
    · by_cases hlt : k + 1 ≤ n ∧ n < k + 1 + xs.length
      · obtain ⟨j, rfl⟩ := Nat.exists_eq_add_of_lt (show k < n by omega)
        have hj : k + j + 1 - k = (k + j + 1 - (k + 1)) + 1 := by omega
        rw [if_pos hlt, if_pos (by omega), hj]
        rfl
      · rw [if_neg hlt, if_neg hk, if_neg (by omega)]

/-- R85: the s registers of a group at the start of its team. -/
theorem Launch.startGroup_s (l : Launch) (now gi n : Nat) (h8 : l.argv.length = 8) :
    (l.startGroup now gi).raw (.s n) = if n < 8 then l.argv.getD n 0 else if n = 8 then l.r.args else 0 := by
  change Cells.get 0 ((l.argv.zipIdx 0).foldl (fun c x => Cells.set 0 c x.2 x.1) (Cells.set 0 [] 8 l.r.args)) n = _
  rw [Cells.get_foldl_set 0 _ _ _ (Cells.wf_set 0 rfl 8 _), Cells.get_set 0 rfl, h8]
  by_cases hn : n < 8
  · rw [if_pos (by omega), if_pos hn]
    rfl
  · rw [if_neg (by omega), if_neg hn]
    simp only [Cells.get_nil, eq_comm]

/-- R82: a group starts with no predicate true but p0. -/
theorem Launch.startGroup_p (l : Launch) (now gi : Nat) {n : Nat} (i : Nat) (hn : n ≠ 0) : (l.startGroup now gi).raw (.p n i) = 0 := by
  change (if n = 0 then (1 : Word) else if (Cells.get (0 : Lanes) [] n).getLsbD i then 1 else 0) = 0
  simp [hn]

theorem Launch.startTeam_group {l : Launch} {now id sp idx half die core gi : Nat} {g : Group}
    (h : (l.startTeam now id sp idx half die core).groups[gi]? = some g) : g = l.startGroup now gi := by
  have hm : ((List.range l.r.groups).map (l.startGroup now))[gi]? = some g := h
  rw [List.getElem?_map, Option.map_eq_some_iff] at hm
  obtain ⟨k, hk, rfl⟩ := hm
  obtain ⟨hlt, rfl⟩ := List.getElem?_eq_some_iff.mp hk
  rw [List.getElem_range]

/-! ### The retirement of a team (R261, R305) -/

theorem State.combDrop_teams (s : State) (y : Team) : (s.combDrop y).teams = s.teams :=
  foldl_keeps (P := fun t : State => t.teams = s.teams) _ (fun t nb h => by split <;> exact h) _ rfl

theorem State.releaseCore_keeps (s : State) (y : Team) : (s.releaseCore y).teams = s.teams ∧ (s.releaseCore y).broken = s.broken := by
  have hf : (s.foldCounts y).teams = s.teams ∧ (s.foldCounts y).broken = s.broken := by
    unfold State.foldCounts
    split <;> exact ⟨rfl, rfl⟩
  unfold State.releaseCore
  dsimp only
  split <;> exact hf

theorem State.releaseCore_if (c : Bool) (y : Team) (h : t.teams = u.teams ∧ t.broken = u.broken) :
    (if c then t.releaseCore y else t).teams = u.teams ∧ (if c then t.releaseCore y else t).broken = u.broken := by
  cases c
  · exact h
  · exact ⟨(t.releaseCore_keeps y).1.trans h.1, (t.releaseCore_keeps y).2.trans h.2⟩

/-- A team that issues nothing more. -/
def Team.dropped (res : Residency) (t : Team) : Team :=
  { t with res := res, latch := [], copyLatch := [], exchs := [],
           groups := t.groups.map (fun g => { g with frags := [], joins := [], held := [], pend := [], exited := g.launched }) }

/-- R305: a team without exchanges under way is dropped, and its chain position breaks. -/
theorem State.dropTeam_breaks (s : State) {y : Team} (res : Residency) (hx : y.exchs = []) :
    (s.dropTeam y res true).teams = (s.modTeam y.id (Team.dropped res)).teams ∧
      (s.dropTeam y res true).broken = s.broken ++ (y.chainPos.map (fun p => ⟨y.seq, p⟩)).toList := by
  unfold State.dropTeam
  refine State.releaseCore_if (u := { s.modTeam y.id (Team.dropped res) with
    broken := s.broken ++ (y.chainPos.map (fun p => (⟨y.seq, p⟩ : Broken))).toList }) _ y ?_
  simp only [hx, List.filter_nil, List.foldl_nil]
  cases y.chainPos with
  | none =>
    rw [Option.map_none, Option.toList_none, List.append_nil]
    constructor <;> dsimp only <;> split <;> rfl
  | some p =>
    constructor <;> dsimp only <;> split <;> rfl

/-- R153, R261: the conditions of a team's retirement, for a team without exchanges. -/
theorem State.teamOver_of {y : Team} (hhere : y.here = true) (hended : ∀ g ∈ y.groups, g.launched &&& ~~~g.exited = 0)
    (hmats : y.mats = []) (hxfers : y.xfers = []) (hscan : y.scanq = []) (hexchs : y.exchs = []) (hlatch : y.latch = []) (hcopy : y.copyLatch = [])
    (hquiet : ∀ g ∈ y.groups, g.pend = [] ∧ g.flights = []) (hmsgs : ∀ m ∈ s.msgs, m.team ≠ y.id) : s.teamOver y = true := by
  have hall : y.groups.all Group.ended = true := List.all_eq_true.mpr (fun g hg => by simp [Group.ended, hended g hg])
  have hengines : y.enginesDone = true := by simp [Team.enginesDone, hmats, hxfers, hscan, hexchs]
  have hnone : s.msgs.all (fun m => m.team != y.id) = true := List.all_eq_true.mpr (fun m hm => by simp [hmsgs m hm])
  have hpend : y.groups.all (fun g => g.pend.isEmpty && g.flights.isEmpty) = true :=
    List.all_eq_true.mpr (fun g hg => by simp [hquiet g hg])
  simp only [State.teamOver, hhere, hall, hengines, hexchs, hlatch, hcopy, hnone, hpend, List.isEmpty_nil, Bool.and_self]

theorem exec_teamRetirement {id : Nat} {y : Team} (hy : s.team? id = some y) (hover : s.teamOver y = true) :
    exec (.teamRetirement id) s = .next ((s.combDrop y).dropTeam y .retired true) := by
  change execTeamRetirement id s = _
  unfold execTeamRetirement
  rw [hy]
  exact if_pos hover

/-- R261, R305: a retired team issues nothing more, and its chain position is broken. -/
theorem State.retireTeam_retires {id : Nat} {y : Team} (hy : s.team? id = some y) (hx : y.exchs = []) :
    ((s.combDrop y).dropTeam y .retired true).team? id = some (y.dropped .retired) ∧
      ∀ p, y.chainPos = some p → ⟨y.seq, p⟩ ∈ ((s.combDrop y).dropTeam y .retired true).broken := by
  obtain ⟨hteams, hbroken⟩ := (s.combDrop y).dropTeam_breaks .retired hx
  refine ⟨?_, fun p hp => ?_⟩
  · have hdrop : ((s.combDrop y).dropTeam y .retired true).team? id = ((s.combDrop y).modTeam y.id (Team.dropped .retired)).team? id :=
      congrArg (List.find? _) hteams
    have hcomb : (s.combDrop y).team? id = s.team? id := congrArg (List.find? _) (s.combDrop_teams y)
    rw [hdrop, State.team?_modTeam _ _ _ (Team.dropped .retired) (fun _ => rfl), hcomb, hy]
    exact congrArg some (if_pos rfl)
  · rw [hbroken, hp]
    simp

/-! ### The events of a launch -/

theorem exec_launchReady {seq : Nat} {l : Launch} (hl : s.launch? seq = some l) (hst : l.st = .waiting) (hdeps : s.depsMet l = true) :
    exec (.launchReady seq) s = .next (s.modLaunch seq (fun l => { l with st := .ready, readyAt := s.clock, aged := 0 })) := by
  change execLaunchReady seq s = _
  unfold execLaunchReady
  rw [hl]
  exact if_pos (by simp [hst, hdeps])

theorem exec_aging {seq : Nat} {l : Launch} (hl : s.launch? seq = some l) (hages : s.ages l = true) :
    exec (.aging seq) s = .next (s.modLaunch seq (fun l => { l with aged := l.aged + 1 })) := by
  change execAging seq s = _
  unfold execAging
  rw [hl]
  exact if_pos hages

/-- R331: a dispatcher places the span of its first candidate. -/
theorem exec_dispatch_placed {die : Nat} (h : s.dispatchOn die = some t) :
    exec (.dispatch die) s = .next { t with passes := t.passes.filter (fun v => v.die != die) } := by
  change execDispatch die s = _
  unfold execDispatch
  rw [h]

/-- R331: a dispatcher that can place nothing ends its pass. -/
theorem exec_dispatch_over {die : Nat} (h : s.dispatchOn die = none) : exec (.dispatch die) s = .next (s.endPass die) := by
  change execDispatch die s = _
  unfold execDispatch
  rw [h]

theorem State.dispatchOn_none {die : Nat} (h : s.candidate die = none) : s.dispatchOn die = none := by
  unfold State.dispatchOn
  rw [h]

/-- R331: what a dispatcher tries for its first candidate: all the spans of a resident launch, while fewer than four are admitted, or one span. -/
theorem State.dispatchOn_candidate {die : Nat} {l : Launch} {p : Span} (hc : s.candidate die = some (l, p)) (hh : s.heldFirst l = none) :
    s.dispatchOn die =
      (if l.r.resid then (if decide (s.residents < 4) then s.placeAll l.seq (s.spansFor l die) else none)
       else (s.fitSpan l p die).map (s.placeSpan l p)).map (fun s => { s with launches := s.launches.map Launch.settleFront }) := by
  unfold State.dispatchOn
  rw [hc]
  dsimp only
  rw [hh]

theorem State.endPass_launches (s : State) (die : Nat) : s.endPass die = { s with
    passes := s.passes.filter (fun v => v.die != die) ++ [s.passOf die]
    launches := s.launches.map (fun l => if s.spansFor l die = [] then l else { l with front := false }) } := by
  simp only [State.endPass, List.isEmpty_iff]

/-- R329: a span that is not saved starts its teams anew. -/
theorem State.placeTeam_starts (s : State) (l : Launch) {p : Span} (idx half die core : Nat) (hp : p.st ≠ .saved) :
    s.placeTeam l p (idx, half, die, core) = { s.acquire (64 * die + core) with
      teams := (s.acquire (64 * die + core)).teams ++ [l.startTeam (s.acquire (64 * die + core)).clock (s.acquire (64 * die + core)).nextId p.idx idx half die core]
      nextId := (s.acquire (64 * die + core)).nextId + 1 } :=
  if_neg (by simpa using hp)

/-- R332: the conditions of a launch's retirement. -/
theorem State.launchOver_of {l : Launch} (hst : l.st = .ready) (hspans : ∀ p ∈ l.spans, s.spanOver l.seq p = true)
    (hidle : ∀ t ∈ s.teams, t.seq = l.seq → s.enginesIdle l t = true) (hops : ∀ p ∈ s.homeOps, ∀ t ∈ s.teams, t.seq = l.seq → t.id ≠ p.team)
    (hdbg : ∀ d, s.dbgOf l = some d → d.susp = []) : s.launchOver l = true := by
  have hsusp : ((s.dbgOf l).map (fun d => d.susp.isEmpty)).getD true = true := by
    cases hd : s.dbgOf l with
    | none => rfl
    | some d => simp [hdbg d hd]
  have hengines : s.teams.all (fun t => t.seq != l.seq || s.enginesIdle l t) = true := by
    refine List.all_eq_true.mpr (fun t ht => ?_)
    by_cases h : t.seq = l.seq <;> simp [h, hidle t ht]
  have hhome : s.homeOps.all (fun p => s.teams.all (fun t => t.seq != l.seq || t.id != p.team)) = true := by
    refine List.all_eq_true.mpr (fun p hp => List.all_eq_true.mpr (fun t ht => ?_))
    by_cases h : t.seq = l.seq <;> simp [h, hops p hp t ht]
  simp only [State.launchOver, hst, List.all_eq_true.mpr hspans, hsusp, hengines, hhome, beq_self_eq_true, Bool.and_self]

theorem exec_launchRetirement {seq : Nat} {l : Launch} (hl : s.launch? seq = some l) (hover : s.launchOver l = true) :
    exec (.launchRetirement seq) s = .next (s.retireLaunch seq) := by
  change execLaunchRetirement seq s = _
  unfold execLaunchRetirement
  rw [hl]
  exact if_pos hover

/-- Settles O43: one lemma for each event of a launch's life, and for what a team's start and the two retirements leave. -/
theorem launchLife : Obligations.LaunchLife := by
  unfold Obligations.LaunchLife
  refine ⟨?ready, ?aging, ?place, ?placeAll, ?pass, ?start, ?team, ?teamEnd, ?launchEnd⟩
  case ready =>
    intro s seq l hl hst hdeps
    exact exec_launchReady hl hst (List.all_eq_true.mpr (fun d hd => decide_eq_true (hdeps d hd)))
  case aging =>
    intro s seq l hl hst hprio hdue
    refine exec_aging hl ?_
    have hep : decide (l.eprio < 15) = true := decide_eq_true hprio
    have hnext : decide (l.nextAging ≤ s.clock) = true := decide_eq_true hdue
    simp only [State.ages, hst, hep, hnext, beq_self_eq_true, Bool.and_self]
  case place =>
    intro s die l p xs hc hh hr hfit
    refine exec_dispatch_placed (t := { s.placeSpan l p xs with launches := (s.placeSpan l p xs).launches.map Launch.settleFront }) ?_
    rw [State.dispatchOn_candidate hc hh, hr, hfit]
    rfl
  case placeAll =>
    intro s die l p t hc hh hr hres hall
    refine exec_dispatch_placed (t := { t with launches := t.launches.map Launch.settleFront }) ?_
    rw [State.dispatchOn_candidate hc hh, hr, hall, decide_eq_true hres]
    rfl
  case pass =>
    intro s die h
    rw [← State.endPass_launches]
    refine exec_dispatch_over ?_
    obtain hc | ⟨l, p, hc, hh, hr, hfit⟩ | ⟨l, p, hc, hh, hr, hfull | hall⟩ := h
    · exact State.dispatchOn_none hc
    · rw [State.dispatchOn_candidate hc hh, hr, hfit]
      rfl
    · rw [State.dispatchOn_candidate hc hh, hr, decide_eq_false (by omega)]
      rfl
    · rw [State.dispatchOn_candidate hc hh, hr, hall, ite_self]
      rfl
  case start =>
    intro s l p idx half die core hp
    exact s.placeTeam_starts l idx half die core hp
  case team =>
    intro l now id sp idx half die core
    have hlen : (l.startTeam now id sp idx half die core).groups.length = l.r.groups := by simp [Launch.startTeam]
    refine ⟨hlen, rfl, rfl, rfl, rfl, rfl, ?_⟩
    intro gi g hg h8
    rw [Launch.startTeam_group hg]
    exact ⟨fun n => l.startGroup_s now gi n h8, fun n i => rfl, fun n i hn => l.startGroup_p now gi i hn, rfl, rfl, rfl, rfl, rfl, rfl, rfl, rfl,
      rfl, _, rfl, rfl, rfl, rfl, rfl, rfl⟩
  case teamEnd =>
    intro s id y hy hhere hended hmats hxfers hscan hexchs hlatch hcopy hquiet hmsgs
    obtain ⟨hteam, hbroken⟩ := State.retireTeam_retires hy hexchs
    exact ⟨exec_teamRetirement hy (State.teamOver_of hhere hended hmats hxfers hscan hexchs hlatch hcopy hquiet hmsgs),
      _, hteam, rfl, hbroken⟩
  case launchEnd =>
    intro s seq l hl hst hspans hidle hops hdbg
    obtain ⟨hretired, hwithout⟩ := State.retireLaunch_retires hl
    refine ⟨_, _, exec_launchRetirement hl (State.launchOver_of hst hspans hidle hops hdbg), hretired, rfl, rfl, rfl,
      hwithout.teams, hwithout.chain, hwithout.saves, hwithout.queues, ?_⟩
    intro c hc hsig hstr htl hlen
    exact State.retireLaunch_timeline hl hc hsig hstr htl hlen

end Sys2Proof.Machine

/-! SUPPORT. The values of the integer words (R105-R114): the model's arithmetic on numbers is the arithmetic of patterns of the operand width. -/

namespace Sys2Proof.Machine

/-! ### Patterns and their numbers -/

theorem natCast_two_pow (k : Nat) : ((2 ^ k : Nat) : Int) = 2 ^ k := Int.natCast_pow 2 k

theorem natCast_emod_congr {w a b : Nat} (h : a % 2 ^ w = b % 2 ^ w) : (a : Int) % 2 ^ w = (b : Int) % 2 ^ w := by exact_mod_cast h

/-- A number and the pattern of its low bits have one residue. -/
theorem emod_toNat_ofNat (w y : Nat) : (y : Int) % 2 ^ w = ((BitVec.ofNat w y).toNat : Int) % 2 ^ w :=
  natCast_emod_congr (by rw [BitVec.toNat_ofNat, Nat.mod_mod])

theorem asInt_toNat (ty : ITy) (u : BitVec ty.width) : asInt ty u.toNat = ITy.num ty u := by rw [asInt_eq, BitVec.ofNat_toNat, BitVec.setWidth_eq]

theorem sInt_toNat {w : Nat} (hw : 0 < w) (u : BitVec w) : sInt w u.toNat = u.toInt := by
  rw [sInt_eq w _ hw, BitVec.ofNat_toNat, BitVec.setWidth_eq]

theorem toInt_emod {w : Nat} (u : BitVec w) : u.toInt % 2 ^ w = (u.toNat : Int) % 2 ^ w := by
  rw [BitVec.toInt_eq_toNat_bmod]
  exact_mod_cast Int.bmod_emod (x := (u.toNat : Int)) (m := 2 ^ w)

theorem ITy.num_signed {ty : ITy} (h : ty.signed = true) (u : BitVec ty.width) : ITy.num ty u = u.toInt := if_pos h

/-- A pattern is the residue of the number its type reads it as. -/
theorem wrap_num (ty : ITy) (u : BitVec ty.width) : wrap ty.width (ITy.num ty u) = u.toNat := by
  have h : ((wrap ty.width (ITy.num ty u) : Nat) : Int) = (u.toNat : Nat) := by
    rw [wrap_eq, num_emod]
    exact_mod_cast Nat.mod_eq_of_lt u.isLt
  exact_mod_cast h

theorem bit_eq_testBit (a j : Nat) : bit a j = a.testBit j := by rw [Nat.testBit_eq_decide_div_mod_eq]; rfl

theorem intLt_toNat (ty : ITy) (u v : BitVec ty.width) : intLt ty u.toNat v.toNat = decide (ITy.num ty u < ITy.num ty v) := by
  simp only [intLt, asInt_toNat]

/-! ### Sums and products (R105) -/

theorem subW_emod (w a b : Nat) : (subW w a b : Int) % 2 ^ w = ((a : Int) - b) % 2 ^ w := by
  have hb : b % 2 ^ w ≤ 2 ^ w := Nat.le_of_lt (Nat.mod_lt b (Nat.two_pow_pos w))
  have he : (subW w a b : Int) = (a : Int) + 2 ^ w - (b : Int) % 2 ^ w := by
    unfold subW
    rw [Int.ofNat_sub (by omega), Int.natCast_add, Int.natCast_emod, natCast_two_pow]
  rw [he, Int.sub_emod, Int.emod_emod_of_dvd _ (Int.dvd_refl _), Int.add_emod_right, ← Int.sub_emod]

theorem mulHigh_emod (ty : ITy) (u v : BitVec ty.width) :
    (mulHigh ty u.toNat v.toNat : Int) % 2 ^ ty.width = ITy.num ty u * ITy.num ty v / 2 ^ ty.width % 2 ^ ty.width := by
  unfold mulHigh
  rw [wrap_emod, asInt_toNat, asInt_toNat, natCast_two_pow]

/-! ### Order, absolute value, negation and saturation (R106, R107) -/

theorem imin_emod (ty : ITy) (u v : BitVec ty.width) :
    ((if intLt ty v.toNat u.toNat then v.toNat else u.toNat : Nat) : Int) % 2 ^ ty.width =
      min (ITy.num ty u) (ITy.num ty v) % 2 ^ ty.width := by
  rw [intLt_toNat]
  by_cases h : ITy.num ty v < ITy.num ty u
  · rw [if_pos (decide_eq_true h), Int.min_eq_right (Int.le_of_lt h), num_emod]
  · rw [if_neg (ne_true_of_eq_false (decide_eq_false h)), Int.min_eq_left (Int.not_lt.mp h), num_emod]

theorem imax_emod (ty : ITy) (u v : BitVec ty.width) :
    ((if intLt ty u.toNat v.toNat then v.toNat else u.toNat : Nat) : Int) % 2 ^ ty.width =
      max (ITy.num ty u) (ITy.num ty v) % 2 ^ ty.width := by
  rw [intLt_toNat]
  by_cases h : ITy.num ty u < ITy.num ty v
  · rw [if_pos (decide_eq_true h), Int.max_eq_right (Int.le_of_lt h), num_emod]
  · rw [if_neg (ne_true_of_eq_false (decide_eq_false h)), Int.max_eq_left (Int.not_lt.mp h), num_emod]

theorem subW_zero_emod (w a : Nat) : (subW w 0 a : Int) % 2 ^ w = -(a : Int) % 2 ^ w := by
  rw [subW_emod, Int.natCast_zero, Int.zero_sub]

theorem satVal_emod (ty : ITy) (tgt : SatTo) (u : BitVec ty.width) :
    (satVal ty tgt u.toNat : Int) % 2 ^ ty.width = min (max (ITy.num ty u) (satRange tgt).1) (satRange tgt).2 % 2 ^ ty.width := by
  unfold satVal
  rw [wrap_emod, asInt_toNat]

/-! ### Quotient and remainder (R108) -/

theorem wrap_neg_one (w : Nat) : wrap w (-1) = 2 ^ w - 1 := by
  have hp := Nat.two_pow_pos w
  have h : (-1 : Int) % (2 ^ w : Nat) = ((2 ^ w : Nat) : Int) - 1 := by
    rw [show (-1 : Int) = Int.negSucc 0 from rfl, Int.negSucc_emod 0 (by omega), Int.natCast_zero, Int.zero_emod, Int.sub_zero]
  unfold wrap
  rw [h]
  omega

theorem divMod_quotient (ty : ITy) (u v : BitVec ty.width) :
    (divMod ty u.toNat v.toNat).1 = wrap ty.width (if ITy.num ty v = 0 then -1 else (ITy.num ty u).tdiv (ITy.num ty v)) := by
  unfold divMod
  simp only [asInt_toNat]
  split
  · exact (wrap_neg_one _).symm
  · rfl

theorem divMod_remainder (ty : ITy) (u v : BitVec ty.width) :
    (divMod ty u.toNat v.toNat).2 = wrap ty.width
      (if ITy.num ty v = 0 then ITy.num ty u else ITy.num ty u - (ITy.num ty u).tdiv (ITy.num ty v) * ITy.num ty v) := by
  unfold divMod
  simp only [asInt_toNat]
  split
  · exact (wrap_num ty u).symm
  · rw [Int.tmod_def, Int.mul_comm]

/-! ### Logic and shifts (R109, R110) -/

theorem notW_toNat {w : Nat} (u : BitVec w) : notW w u.toNat = (~~~u).toNat := by
  rw [notW, Nat.mod_eq_of_lt u.isLt, BitVec.toNat_not]

theorem andnW_toNat {w : Nat} (u v : BitVec w) : andnW w u.toNat v.toNat = (u &&& ~~~v).toNat := by
  rw [BitVec.toNat_and, ← notW_toNat]
  rfl

theorem shl_emod {w : Nat} (u : BitVec w) (k : Nat) : ((u.toNat * 2 ^ k : Nat) : Int) % 2 ^ w = ((u <<< k).toNat : Int) % 2 ^ w := by
  refine natCast_emod_congr ?_
  rw [BitVec.toNat_shiftLeft, Nat.shiftLeft_eq, Nat.mod_mod]

theorem shr_toNat {w : Nat} (u : BitVec w) (k : Nat) : u.toNat / 2 ^ k = (u >>> k).toNat := by
  rw [BitVec.toNat_ushiftRight, Nat.shiftRight_eq_div_pow]

theorem sarW_emod {w : Nat} (hw : 0 < w) (u : BitVec w) (k : Nat) :
    (sarW w u.toNat k : Int) % 2 ^ w = ((u.sshiftRight k).toNat : Int) % 2 ^ w := by
  rw [← toInt_emod, BitVec.toInt_sshiftRight, Int.shiftRight_eq_div_pow, sarW, wrap_emod, sInt_toNat hw]

/-- R110: the two parts of a rotation do not meet. -/
theorem rotW_emod {w : Nat} (u : BitVec w) {k : Nat} (hk : k < w) :
    (rotW w u.toNat k : Int) % 2 ^ w = ((u.rotateLeft k).toNat : Int) % 2 ^ w := by
  refine natCast_emod_congr ?_
  have hlow : u.toNat / 2 ^ (w - k) < 2 ^ k := by
    rw [Nat.div_lt_iff_lt_mul (Nat.two_pow_pos _), ← Nat.pow_add, Nat.add_sub_cancel' (Nat.le_of_lt hk)]
    exact u.isLt
  have hhigh : u.toNat * 2 ^ k % 2 ^ w = u.toNat % 2 ^ (w - k) * 2 ^ k := by
    rw [← Nat.mul_mod_mul_right, ← Nat.pow_add, Nat.sub_add_cancel (Nat.le_of_lt hk)]
  rw [BitVec.toNat_rotateLeft, Nat.mod_eq_of_lt hk, Nat.shiftLeft_eq, Nat.shiftRight_eq_div_pow, hhigh, ← Nat.shiftLeft_eq (u.toNat % _),
    ← Nat.shiftLeft_add_eq_or_of_lt hlow, Nat.shiftLeft_eq, ← hhigh, rotW, Nat.mod_add_mod]

/-! ### Fields (R111, R112) -/

theorem wrap_eq_ofInt (w : Nat) (v : Int) : wrap w v = (BitVec.ofInt w v).toNat := (BitVec.toNat_ofInt v).symm

theorem bits_7_0 (desc : Nat) : bits desc 7 0 = desc % 256 := by
  unfold bits
  omega

theorem bits_15_8 (desc : Nat) : bits desc 15 8 = desc / 256 % 256 := rfl

theorem fieldNum_empty (ty : ITy) (u : BitVec ty.width) (pos : Nat) : fieldNum ty u pos 0 = 0 := by
  unfold fieldNum
  rw [BitVec.eq_nil (BitVec.ofInt 0 _)]
  split <;> rfl

theorem bfeVal_emod (ty : ITy) (u : BitVec ty.width) (desc : Nat) :
    (bfeVal ty u.toNat desc : Int) % 2 ^ ty.width =
      fieldNum ty u (desc % 256) (min (desc / 256 % 256) ty.width) % 2 ^ ty.width := by
  unfold bfeVal
  dsimp only
  rw [bits_7_0, bits_15_8, asInt_toNat]
  generalize min (desc / 256 % 256) ty.width = len
  by_cases h0 : len = 0
  · rw [if_pos h0, h0, fieldNum_empty]
    rfl
  · rw [if_neg h0, wrap_eq_ofInt len, natCast_two_pow]
    unfold fieldNum
    by_cases hs : ty.signed = true
    · rw [if_pos hs, if_pos hs, wrap_emod, sInt_toNat (Nat.pos_of_ne_zero h0)]
    · rw [if_neg hs, if_neg hs]

/-- R112: bits pos to pos + len - 1 of the first number replaced by the low bits of the second. -/
theorem testBit_merge (a b pos len j : Nat) :
    (a % 2 ^ pos + b % 2 ^ len * 2 ^ pos + a / 2 ^ (pos + len) * 2 ^ (pos + len)).testBit j =
      if pos ≤ j ∧ j < pos + len then b.testBit (j - pos) else a.testBit j := by
  have hsum : a % 2 ^ pos + b % 2 ^ len * 2 ^ pos + a / 2 ^ (pos + len) * 2 ^ (pos + len) =
      2 ^ pos * (2 ^ len * (a / 2 ^ (pos + len)) + b % 2 ^ len) + a % 2 ^ pos := by
    have htop : a / 2 ^ (pos + len) * 2 ^ (pos + len) = 2 ^ pos * (2 ^ len * (a / 2 ^ (pos + len))) := by
      rw [Nat.mul_comm, Nat.pow_add, Nat.mul_assoc]
    rw [htop, Nat.mul_add, Nat.mul_comm (b % 2 ^ len)]
    omega
  rw [hsum, Nat.testBit_two_pow_mul_add _ (Nat.mod_lt _ (Nat.two_pow_pos _)), Nat.testBit_two_pow_mul_add _ (Nat.mod_lt _ (Nat.two_pow_pos _)),
    Nat.testBit_mod_two_pow, Nat.testBit_mod_two_pow, Nat.testBit_div_two_pow]
  by_cases hlow : j < pos
  · rw [if_pos hlow, if_neg (by omega), decide_eq_true hlow, Bool.true_and]
  · by_cases hin : j - pos < len
    · rw [if_neg hlow, if_pos hin, if_pos (by omega), decide_eq_true hin, Bool.true_and]
    · rw [if_neg hlow, if_neg hin, if_neg (by omega), show j - pos - len + (pos + len) = j by omega]

theorem bfiVal_testBit {w a b desc j : Nat} (hj : j < w) : (bfiVal w a b desc).testBit j =
    if desc % 256 ≤ j ∧ j < desc % 256 + desc / 256 % 256 then b.testBit (j - desc % 256) else a.testBit j := by
  unfold bfiVal
  dsimp only
  rw [bits_7_0, bits_15_8]
  split
  next hpos => rw [if_neg (by omega)]
  next hpos =>
    rw [testBit_merge]
    have hcut : (desc % 256 ≤ j ∧ j < desc % 256 + min (min (desc / 256 % 256) w) (w - desc % 256)) ↔
        (desc % 256 ≤ j ∧ j < desc % 256 + desc / 256 % 256) := by omega
    simp only [hcut]

/-! ### Counts and reversal (R111) -/

theorem popcW_toNat {w : Nat} (u : BitVec w) : popcW w u.toNat = ((List.range w).filter (fun j => u.getLsbD j)).length := by
  simp only [popcW, bit_eq_testBit, BitVec.testBit_toNat]

theorem clzW_le (w a : Nat) : clzW w a ≤ w := by
  unfold clzW
  split <;> omega

theorem clzW_above {w : Nat} (u : BitVec w) {j : Nat} (hj : w - clzW w u.toNat ≤ j) : u.getLsbD j = false := by
  rw [← BitVec.testBit_toNat]
  rw [clzW, Nat.mod_eq_of_lt u.isLt] at hj
  split at hj
  next h0 => rw [h0, Nat.zero_testBit]
  next h0 =>
    have hlt : u.toNat.log2 < w := (Nat.log2_lt h0).mpr u.isLt
    exact Nat.testBit_lt_two_pow ((Nat.log2_lt h0).mp (by omega))

theorem clzW_highest {w : Nat} (u : BitVec w) (h : clzW w u.toNat < w) : u.getLsbD (w - 1 - clzW w u.toNat) = true := by
  rw [← BitVec.testBit_toNat]
  rw [clzW, Nat.mod_eq_of_lt u.isLt] at h ⊢
  split at h
  next => omega
  next h0 =>
    have hlt : u.toNat.log2 < w := (Nat.log2_lt h0).mpr u.isLt
    rw [if_neg h0, show w - 1 - (w - 1 - u.toNat.log2) = u.toNat.log2 by omega, Nat.testBit_log2 h0]

theorem brevW_succ (n a : Nat) : brevW (n + 1) a = 2 ^ 1 * brevW n a + a / 2 ^ n % 2 := by
  rw [brevW, List.range_succ, List.foldl_append, Nat.mul_comm]
  rfl

theorem brevW_testBit (w a j : Nat) : (brevW w a).testBit j = (decide (j < w) && a.testBit (w - 1 - j)) := by
  induction w generalizing j with
  | zero => exact Nat.zero_testBit j
  | succ n ih =>
    rw [brevW_succ, Nat.testBit_two_pow_mul_add _ (Nat.mod_lt _ Nat.two_pos)]
    by_cases hj : j < 1
    · obtain rfl : j = 0 := by omega
      rw [if_pos hj, Nat.testBit_zero, Nat.mod_mod, Nat.testBit_eq_decide_div_mod_eq, decide_eq_true (Nat.succ_pos n), Bool.true_and]
      rfl
    · rw [if_neg hj, ih, show n + 1 - 1 - j = n - 1 - (j - 1) by omega, decide_eq_decide.mpr (show j - 1 < n ↔ j < n + 1 by omega)]

/-! ### Comparison and address (R113, R114) -/

section
variable (ty : ITy) (u v : BitVec ty.width)

theorem icmpVal_eq : icmpVal ty .eq u.toNat v.toNat = decide (u = v) := by
  simp only [icmpVal, ← BitVec.toNat_inj]
  rfl

theorem icmpVal_ne : icmpVal ty .ne u.toNat v.toNat = decide (u ≠ v) := by
  rw [decide_not, ← icmpVal_eq]
  rfl

theorem icmpVal_lt : icmpVal ty .lt u.toNat v.toNat = decide (ITy.num ty u < ITy.num ty v) := intLt_toNat ty u v

theorem icmpVal_ge : icmpVal ty .ge u.toNat v.toNat = decide (ITy.num ty v ≤ ITy.num ty u) := by
  simp only [icmpVal, intLt_toNat, ← Int.not_lt, decide_not]

theorem icmpVal_gt : icmpVal ty .gt u.toNat v.toNat = decide (ITy.num ty v < ITy.num ty u) := icmpVal_lt ty v u

theorem icmpVal_le : icmpVal ty .le u.toNat v.toNat = decide (ITy.num ty u ≤ ITy.num ty v) := icmpVal_ge ty v u

end

theorem leaIndex_emod (x : Issue) (ty : ITy) (o : Opr) (l : Nat) : (leaIndex ty (x.opnd ty.width o l) : Int) % 2 ^ 64 =
    (if ty = .i32 then (x.pat 32 o l).toInt else (x.opnd ty.width o l : Int)) % 2 ^ 64 := by
  unfold leaIndex
  split
  next hty =>
    subst hty
    rw [toNat_sext32, Issue.pat, BitVec.toInt_ofNat', Int.emod_emod_of_dvd _ (Int.dvd_refl _)]
    rfl
  next => rfl

/-! ### Words whose result is computed lane by lane -/

section
variable {i : Instr} {s : State} {x : Issue} {ty : ITy} {d a b : Opr} (hi : Issues i s x)

include hi

/-- R99, R100: a fixed-latency result written at the width of a type. -/
theorem completes_int {lat : Nat} {body : Issue → Act} {y : Nat → Nat} {val : Nat → Int} (he : exec i s = word i s body)
    (hb : body x = x.perLane lat d (fun l => putTy ty d l (y l))) (hv : ∀ l, (y l : Int) % 2 ^ ty.width = val l % 2 ^ ty.width) :
    Completes i s x lat ty.width ty.signed d 0 val :=
  completes_of_perLane hi body he _ hb y (fun _ _ => rfl) (ITy.width_ok ty) (fun l _ => hv l)

/-- A result of one source pattern. -/
theorem completes_int1 {f : Nat → Nat} (v : BitVec ty.width → Int) (he : exec i s = word i s (fun x => x.int1 ty d a f))
    (hv : ∀ u : BitVec ty.width, (f u.toNat : Int) % 2 ^ ty.width = v u % 2 ^ ty.width) :
    Completes i s x 4 ty.width ty.signed d 0 (fun l => v (x.pat ty.width a l)) :=
  completes_int hi he rfl (fun l => by rw [← x.pat_toNat]; exact hv _)

/-- A result of two source patterns. -/
theorem completes_int2 {f : Nat → Nat → Nat} (v : BitVec ty.width → BitVec ty.width → Int)
    (he : exec i s = word i s (fun x => x.int2 ty d a b f))
    (hv : ∀ u w : BitVec ty.width, (f u.toNat w.toNat : Int) % 2 ^ ty.width = v u w % 2 ^ ty.width) :
    Completes i s x 4 ty.width ty.signed d 0 (fun l => v (x.pat ty.width a l) (x.pat ty.width b l)) :=
  completes_int hi he rfl (fun l => by rw [← x.pat_toNat, ← x.pat_toNat]; exact hv _ _)

/-- A bit operation whose source A may be an accumulator fragment (R101). -/
theorem completes_logicA {a : ASrc} {f : Nat → Nat → Nat} (v : BitVec ty.width → BitVec ty.width → BitVec ty.width)
    (he : exec i s = word i s (fun x => x.intA ty d a b f)) (hv : ∀ u w : BitVec ty.width, f u.toNat w.toNat = (v u w).toNat) :
    Completes i s x (srcLat a 4) ty.width ty.signed d 0 (fun l => (v (x.patA ty.width a l) (x.pat ty.width b l)).toNat) :=
  completes_int hi he rfl (fun l => by rw [← x.patA_toNat, ← x.pat_toNat, hv])

/-- R110: a result of a pattern and an amount below its width. -/
theorem completes_shift {f : Nat → Nat → Nat} (v : BitVec ty.width → Nat → BitVec ty.width)
    (he : exec i s = word i s (fun x => x.shift ty d a b f))
    (hv : ∀ (u : BitVec ty.width) (k : Nat), k < ty.width → (f u.toNat k : Int) % 2 ^ ty.width = ((v u k).toNat : Int) % 2 ^ ty.width) :
    Completes i s x 4 ty.width ty.signed d 0 (fun l => (v (x.pat ty.width a l) (x.amt b l % ty.width)).toNat) :=
  completes_int hi he rfl (fun l => by rw [← x.pat_toNat]; exact hv _ _ (Nat.mod_lt _ (ITy.width_pos ty)))

/-- R111: a count is written to a single register. -/
theorem completes_count {f : Nat → Nat} {n : Nat → Nat}
    (he : exec i s = word i s (fun x => x.perLane 4 d (fun l => putInt 32 false d l (f (x.opnd ty.width a l)))))
    (hv : ∀ l, f (x.opnd ty.width a l) = n l) : Completes i s x 4 32 false d 0 (fun l => n l) :=
  completes_of_perLane hi _ he _ rfl _ (fun _ _ => rfl) (by decide) (fun l _ => by rw [hv])

/-- R108: a result of a division, pending until every lane is written. -/
theorem pends_int2 (f : Nat → Nat → Nat) (v : BitVec ty.width → BitVec ty.width → Int)
    (he : exec i s = word i s (fun x => x.perLaneV (divLat ty) d ty.regs
      (fun l => (putTy ty d l (f (x.opnd ty.width a l) (x.opnd ty.width b l)), 0))))
    (hv : ∀ u w : BitVec ty.width, f u.toNat w.toNat = wrap ty.width (v u w)) :
    Pends i s x (divLat ty) ty.width ty.signed d 0 (fun l => v (x.pat ty.width a l) (x.pat ty.width b l)) := by
  have hp := pends_of_perLaneV (w := ty.width) (sg := ty.signed) (val := fun l => v (x.pat ty.width a l) (x.pat ty.width b l)) hi _ he _ rfl rfl
    (fun l _ => by rw [← hv, x.pat_toNat, x.pat_toNat]; rfl)
  rwa [orAll_zeros (List.forall_mem_map.mpr fun _ _ => rfl)] at hp

/-- R113: a predicate of two source patterns. -/
theorem completes_icmp {p : BitVec 3} {cond : ICond} (v : BitVec ty.width → BitVec ty.width → Bool)
    (he : exec i s = word i s (fun x => x.perLaneP 4 p (fun l => (icmpVal ty cond (x.opnd ty.width a l) (x.opnd ty.width b l), 0))))
    (hv : ∀ u w : BitVec ty.width, icmpVal ty cond u.toNat w.toNat = v u w) :
    CompletesP i s x 4 p 0 (fun l => v (x.pat ty.width a l) (x.pat ty.width b l)) := by
  have hp := completesP_of_perLaneP hi _ he _ rfl
  rw [orAll_zeros (List.forall_mem_map.mpr fun _ _ => rfl)] at hp
  simpa only [← hv, x.pat_toNat] using hp

end

/-- R106: iabs reads a signed type. -/
theorem iabs_signed {h : Hdr} {d a : Opr} {ty : ITy} {s : State} {x : Issue} (hi : Issues (.iabs h d a ty) s x) : ty.signed = true := by
  have hok : (ty.signed && sDest d [a]) = true := hi.ok
  exact (Bool.and_eq_true_iff.mp hok).1

/-- Settles O2: each word writes its result's pattern at its type's width (`completes_int`), and the model's sum, difference, product, choice
and clamp have the residue that the statement's integer has. -/
theorem integerArithmetic : Obligations.IntegerArithmetic := by
  unfold Obligations.IntegerArithmetic
  refine ⟨fun s x => ⟨fun h d a b ty hi => ?iadd, fun h d a b ty hi => ?isub, fun h d a b ty hi => ?imul, fun h d a b ty hi => ?imulh,
      fun h d a b c ty hi => ?imad⟩,
    fun s x => ⟨fun h d a b ty hi => ?imin, fun h d a b ty hi => ?imax, fun h d a ty hi => ?iabs, fun h d a ty hi => ?ineg,
      fun h d a tgt ty hi => ?isat⟩⟩
  case iadd => exact completes_int hi rfl rfl (fun _ => rfl)
  case isub => exact completes_int hi rfl rfl (fun _ => subW_emod ..)
  case imul => exact completes_int hi rfl rfl (fun _ => congrArg (· % _) (Int.natCast_mul ..))
  case imulh => exact completes_int2 hi (fun u v => ITy.num ty u * ITy.num ty v / 2 ^ ty.width) rfl (mulHigh_emod ty)
  case imad => exact completes_int hi rfl rfl (fun _ => by rw [Int.natCast_add, Int.natCast_mul])
  case imin => exact completes_int2 hi (fun u v => min (ITy.num ty u) (ITy.num ty v)) rfl (imin_emod ty)
  case imax => exact completes_int2 hi (fun u v => max (ITy.num ty u) (ITy.num ty v)) rfl (imax_emod ty)
  case iabs => exact completes_int1 hi (fun u => u.toInt.natAbs) rfl (fun u => by rw [asInt_toNat, ITy.num_signed (iabs_signed hi)])
  case ineg => exact completes_int hi rfl rfl (fun _ => subW_zero_emod ..)
  case isat => cases tgt <;> exact completes_int1 hi (fun u => min (max (ITy.num ty u) _) _) rfl (satVal_emod ty _)

/-- Settles O3: the pending writes hold the residues of the truncated quotient and its remainder (`divMod_quotient`, `divMod_remainder`). -/
theorem division : Obligations.Division := by
  unfold Obligations.Division
  refine fun s x => ⟨fun h d a b ty hi => ?idiv, fun h d a b ty hi => ?irem⟩
  case idiv =>
    exact pends_int2 hi (fun u v => (divMod ty u v).1) (fun u v => if ITy.num ty v = 0 then -1 else (ITy.num ty u).tdiv (ITy.num ty v)) rfl
      (divMod_quotient ty)
  case irem =>
    exact pends_int2 hi (fun u v => (divMod ty u v).2)
      (fun u v => if ITy.num ty v = 0 then ITy.num ty u else ITy.num ty u - (ITy.num ty u).tdiv (ITy.num ty v) * ITy.num ty v) rfl
      (divMod_remainder ty)

/-- Settles O4: the model's operations on numbers are the bit operations on patterns; the two parts of a rotation do not meet (`rotW_emod`). -/
theorem logicAndShifts : Obligations.LogicAndShifts := by
  unfold Obligations.LogicAndShifts
  refine fun s x => ⟨fun h d a b ty hi => ?and, fun h d a b ty hi => ?or, fun h d a b ty hi => ?xor, fun h d a b ty hi => ?andn,
    fun h d a ty hi => ?not, fun h d a b ty hi => ?shl, fun h d a b ty hi => ?shr, fun h d a b ty hi => ?sar, fun h d a b ty hi => ?rot⟩
  case and => exact completes_logicA hi (· &&& ·) rfl (fun u v => (BitVec.toNat_and u v).symm)
  case or => exact completes_logicA hi (· ||| ·) rfl (fun u v => (BitVec.toNat_or u v).symm)
  case xor => exact completes_logicA hi (· ^^^ ·) rfl (fun u v => (BitVec.toNat_xor u v).symm)
  case andn => exact completes_int2 hi (fun u v => (u &&& ~~~v).toNat) rfl (fun u v => by rw [andnW_toNat])
  case not => exact completes_int1 hi (fun u => (~~~u).toNat) rfl (fun u => by rw [notW_toNat])
  case shl => exact completes_shift hi (fun u k => u <<< k) rfl (fun u k _ => shl_emod u k)
  case shr => exact completes_shift hi (fun u k => u >>> k) rfl (fun u k _ => by rw [shr_toNat])
  case sar => exact completes_shift hi BitVec.sshiftRight rfl (fun u k _ => sarW_emod (ITy.width_pos ty) u k)
  case rot => exact completes_shift hi BitVec.rotateLeft rfl (fun u k hk => rotW_emod u hk)

/-- Settles O5: the bits of a merged field, of a count's source and of a reversal are named one by one (`bfiVal_testBit`, `clzW_above`,
`clzW_highest`, `brevW_testBit`); the field, the predicate and the index of an address are numbers read by the type's kind. -/
theorem fieldsCountsAndComparisons : Obligations.FieldsCountsAndComparisons := by
  unfold Obligations.FieldsCountsAndComparisons
  refine ⟨fun s x => ⟨fun h d a b ty hi => ?bfe, fun h d a b c ty hi => ?bfi, fun h d a ty hi => ?popc, fun h d a ty hi => ?clz,
      fun h d a ty hi => ?brev⟩,
    fun s x => ⟨fun h p a b cond ty hi => ?icmp, fun h d a b sh ty hi => ?lea⟩⟩
  case bfe => exact completes_int hi rfl rfl (fun l => by rw [← x.pat_toNat]; exact bfeVal_emod ty _ _)
  case bfi =>
    refine ⟨fun l => BitVec.ofNat ty.width (bfiVal ty.width (x.opnd ty.width a l) (x.opnd ty.width b l) (x.amt c l)),
      completes_int hi rfl rfl (fun _ => emod_toNat_ofNat ..), fun l j hj => ?_⟩
    rw [BitVec.getLsbD_ofNat, decide_eq_true hj, Bool.true_and, bfiVal_testBit hj, ← x.pat_toNat, ← x.pat_toNat, BitVec.testBit_toNat,
      BitVec.testBit_toNat]
  case popc => exact completes_count hi rfl (fun l => by rw [← x.pat_toNat, popcW_toNat])
  case clz =>
    exact ⟨fun l => clzW ty.width (x.pat ty.width a l).toNat, completes_count hi rfl (fun l => by rw [← x.pat_toNat]),
      fun l => ⟨clzW_le _ _, fun j hj => clzW_above _ hj, clzW_highest _⟩⟩
  case brev =>
    refine ⟨fun l => BitVec.ofNat ty.width (brevW ty.width (x.opnd ty.width a l)), completes_int hi rfl rfl (fun _ => emod_toNat_ofNat ..),
      fun l j hj => ?_⟩
    rw [BitVec.getLsbD_ofNat, brevW_testBit, decide_eq_true hj, Bool.true_and, Bool.true_and, ← x.pat_toNat, BitVec.testBit_toNat]
  case icmp =>
    cases cond with
    | eq => exact completes_icmp hi (fun u v => decide (u = v)) rfl (icmpVal_eq ty)
    | ne => exact completes_icmp hi (fun u v => decide (u ≠ v)) rfl (icmpVal_ne ty)
    | lt => exact completes_icmp hi (fun u v => decide (ITy.num ty u < ITy.num ty v)) rfl (icmpVal_lt ty)
    | le => exact completes_icmp hi (fun u v => decide (ITy.num ty u ≤ ITy.num ty v)) rfl (icmpVal_le ty)
    | gt => exact completes_icmp hi (fun u v => decide (ITy.num ty v < ITy.num ty u)) rfl (icmpVal_gt ty)
    | ge => exact completes_icmp hi (fun u v => decide (ITy.num ty v ≤ ITy.num ty u)) rfl (icmpVal_ge ty)
  case lea =>
    refine completes_of_perLane hi _ rfl _ rfl _ (fun _ _ => rfl) (.inr rfl) (fun l _ => ?_)
    rw [Int.natCast_add, Int.natCast_mul, Int.add_emod, Int.mul_emod, leaIndex_emod, ← Int.mul_emod, ← Int.add_emod, natCast_two_pow]

end Sys2Proof.Machine

/-! SUPPORT. What translating addresses and counting requests may change (R168, R344-R354, R364, R421, R424): each step of it keeps `Walked`. -/

namespace Sys2Proof.Machine

variable {s t u : State}

/-! ### The relation -/

theorem Walked.refl (s : State) : Walked s s := rfl

theorem Walked.trans (h : Walked s t) (k : Walked t u) : Walked s u := by
  unfold Walked at *
  rw [← k] at h
  exact h

theorem Walked.ite {c : Prop} [Decidable c] (h : Walked s t) (k : Walked s u) : Walked s (if c then t else u) := by
  split
  · exact h
  · exact k

/-- An answer that leaves the state where a condition holds. -/
theorem Walked.unless {α : Type} {c : Prop} [Decidable c] {y : α} {r : State × α} (h : Walked s r.1) :
    Walked s (if c then (s, y) else r).1 := by
  split
  · exact .refl s
  · exact h

/-- A change of memory, of the slots of lines, or of what is bad in them alone. -/
theorem Walked.of_mem (h : { t with mem := s.mem, slotOf := s.slotOf, poisoned := s.poisoned } = s) : Walked s t := by
  unfold Walked
  rw [← h]

theorem State.writePhys_walked (s : State) (slot pa : Nat) (bs : List Byte) : Walked s (s.writePhys slot pa bs) :=
  .of_mem (s.writePhys_frame slot pa bs).1

theorem Walked.teams (h : Walked s t) : t.teams = s.teams := by have e := congrArg State.teams h; exact e
theorem Walked.streams (h : Walked s t) : t.streams = s.streams := by have e := congrArg State.streams h; exact e
theorem Walked.clock (h : Walked s t) : t.clock = s.clock := by have e := congrArg State.clock h; exact e

/-! ### Translating an address -/

theorem State.addTlb_walked (s : State) (x : TlbEntry) : Walked s (s.addTlb x) := rfl

theorem State.addWalk_walked (s : State) (x : WalkEntry) : Walked s (s.addWalk x) := rfl

theorem State.setTlb_walked (s : State) (xs : List TlbEntry) : Walked s { s with tlb := xs } := rfl

theorem State.bump_walked (s : State) (kind die unit event part amount : Nat) : Walked s (s.bump kind die unit event part amount) := rfl

theorem State.peerTouch_walked (s : State) (peer pa n : Nat) : Walked s (s.peerTouch peer pa n) := by
  unfold State.peerTouch
  rfl

theorem State.touch_walked (s : State) (pa : Nat) (a : Access) : Walked s (s.touch pa a) := by
  unfold State.touch
  exact .ite (.refl s) (s.writePhys_walked _ _ _)

theorem State.install_walked (s : State) (sp : Space) (va pa level : Nat) (e : Word) (a : Access) : Walked s (s.install sp va pa level e a).1 := by
  unfold State.install
  dsimp only
  split
  · exact (foldl_keeps (P := Walked s) _ (fun t j h => h.trans (t.touch_walked _ a)) _ (.refl s)).trans (State.addTlb_walked ..)
  · exact (s.touch_walked pa a).trans (State.addTlb_walked ..)

theorem State.walkFrom_walked (sp : Space) (va : Nat) (a : Access) (level : Nat) : ∀ (s : State) (table : Nat),
    Walked s (s.walkFrom sp va a level table).1 := by
  induction level with
  | zero => exact fun s _ => .refl s
  | succ level ih =>
    intro s table
    unfold State.walkFrom
    refine .unless (.unless (.unless (.unless (.unless ?_))))
    split
    · exact .unless (.unless (s.install_walked ..))
    · exact .unless (.unless (.trans (State.addWalk_walked ..) (ih _ _)))

theorem State.viaTlb_walked (s : State) (sp : Space) (n : Nat) (a : Access) (root : Nat) : Walked s (s.viaTlb sp n a root).1 := by
  unfold State.viaTlb
  dsimp only
  split
  · split
    · exact .trans (State.setTlb_walked s _) (State.walkFrom_walked ..)
    · exact .unless (.refl s)
  · have hb : Walked s (if sp.die < 8 then s.bump 4 sp.die (ctlOf n) 3 sp.part 1 else s) :=
      .ite (s.bump_walked ..) (.refl s)
    split <;> exact hb.trans (State.walkFrom_walked ..)

theorem State.translate_walked (s : State) (sp : Space) (va : Word) (a : Access) : Walked s (s.translate sp va a).1 := by
  unfold State.translate
  refine .unless (.unless (.unless (.unless ?_)))
  split
  · refine .unless ?_
    split
    · rw [State.peerChecked_state, State.homeChecked_state]
      exact s.viaTlb_walked ..
    · rw [State.peerChecked_state]
      exact .refl s
  · rw [State.peerChecked_state, State.homeChecked_state]
    exact s.viaTlb_walked ..

/-! ### Reaching a location -/

theorem State.addSlice_walked (s : State) (die index : Nat) (c : Loc) (replica : Bool) : Walked s (s.addSlice die index c replica) := by
  unfold State.addSlice
  split
  · rfl
  · exact .ite (.refl s) rfl

theorem State.replicate_walked (s : State) (die : Nat) (c : Loc) (r : Tr) : Walked s (s.replicate die c r).1 := by
  unfold State.replicate
  refine .unless ?_
  split
  · exact .unless (.unless rfl)
  · dsimp only
    split <;> rfl

theorem State.fill_walked (s : State) (sp : Space) (a : Access) (c : Loc) (r : Tr) : Walked s (s.fill sp a c r) := by
  have hr : Walked s (if a == .write then (s, false) else s.replicate sp.die c r).1 := .unless (s.replicate_walked ..)
  have hs := hr.trans (State.addSlice_walked _ (homeDie c.pa) sp.part c false)
  exact .ite (.refl s) (.ite (hs.trans (State.addSlice_walked ..)) hs)

/-- What an agent with an L1 reaches is the location of its address; its way changes what translation may. -/
theorem State.reach1_walked (s : State) {sp : Space} (hsp : sp.core ≠ none) (a : Access) (rd q : Bool) (n : Nat) (va : Word) :
    Walked s (s.reach1 sp a rd q n va).1 ∧ ∀ c r, (s.reach1 sp a rd q n va).2 = .ok (c, r) → c.va = va.toNat := by
  have ht := s.translate_walked sp va a
  have hcore : (sp.core.isNone && a != .write) = false := by simp [hsp]
  unfold State.reach1
  split
  next u e he =>
    rw [he] at ht
    exact ⟨ht, fun c r h => by cases h⟩
  next u r hr =>
    rw [hr] at ht
    dsimp only at ht ⊢
    split
    · exact ⟨ht, fun c r h => by cases h⟩
    · rw [hcore]
      have hp : Walked s (if (r.peer != 0) = true then u.peerTouch r.peer (r.pa / 64 * 64) 64 else u) := 
        ht.trans (.ite (u.peerTouch_walked ..) (.refl u))
      refine ⟨hp.trans (State.fill_walked ..), fun c r h => ?_⟩
      cases h
      rfl

theorem State.reach_walked {sp : Space} (hsp : sp.core ≠ none) (a : Access) (rd q : Bool) (n : Nat) (ps : List (Nat × Word)) : ∀ s : State,
    Walked s (State.reach sp a rd q n s ps).1 ∧ ∀ e ∈ (State.reach sp a rd q n s ps).2, ∀ c r, e.2 = .ok (c, r) → c.va = e.1.2.toNat := by
  induction ps with
  | nil => exact fun s => ⟨.refl s, fun e he => by cases he⟩
  | cons p ps ih =>
    intro s
    obtain ⟨hw, hva⟩ := s.reach1_walked hsp a rd q n p.2
    obtain ⟨hws, hvas⟩ := ih (s.reach1 sp a rd q n p.2).1
    refine ⟨hw.trans hws, fun e he => ?_⟩
    obtain rfl | he := List.mem_cons.mp he
    · exact hva
    · exact hvas e he

theorem Issue.space_core (x : Issue) : x.space.core ≠ none := by
  unfold Issue.space
  split <;> simp

/-! ### Counting and sampling a request (R421, R424) -/

theorem State.countAt_walked (s : State) (kind die unit part n : Nat) : Walked s (s.countAt kind die unit part n) :=
  (s.bump_walked ..).trans (State.bump_walked ..)

theorem State.addFlits_walked (s : State) (seq die n : Nat) : Walked s (s.addFlits seq die n) := rfl

theorem State.countLinks_walked (s : State) (part seq n a b : Nat) : Walked s (s.countLinks part seq n a b) := by
  refine foldl_keeps (P := Walked s) _ (fun t x h => ?_) _ (.refl s)
  split
  · exact (h.trans (t.countAt_walked ..)).trans (State.addFlits_walked ..)
  · exact h

theorem State.countSlice_walked (s : State) (part die unit n : Nat) (miss : Bool) : Walked s (s.countSlice part die unit n miss) :=
  .ite ((s.countAt_walked ..).trans (State.bump_walked ..)) (s.countAt_walked ..)

theorem State.countRequest_walked (s : State) (part seq core n : Nat) (c : Loc) (level : Nat) (found : Level) :
    Walked s (s.countRequest part seq core n c level found) := by
  unfold State.countRequest
  have hx : Walked s (if (decide (level = 0) || decide (8 ≤ core / 64)) = true then s else
      (s.countAt 1 (core / 64) (core % 64 / 16) part n).countAt 2 (core / 64) 0 part n) :=
    .ite (.refl s) ((s.countAt_walked ..).trans (State.countAt_walked ..))
  have slice (t : State) (h : Walked s t) (k : Bool) (die unit : Nat) (miss : Bool) :
      Walked s (if k = true then t else t.countSlice part die unit n miss) := .ite h (h.trans (t.countSlice_walked ..))
  have home (t : State) (h : Walked s t) (a b unit : Nat) : Walked s (if level = 3 then
      ((t.countSlice part b unit n (level == 3)).countLinks part seq n a b).countDram part c.pa n
      else (t.countSlice part b unit n (level == 3)).countLinks part seq n a b) := by
    have hl : Walked s ((t.countSlice part b unit n (level == 3)).countLinks part seq n a b) :=
      (h.trans (t.countSlice_walked ..)).trans (State.countLinks_walked ..)
    exact .ite (hl.trans (State.countAt_walked ..)) hl
  exact .ite hx (.ite (hx.trans (State.countAt_walked ..)) (.ite hx (.ite (slice _ hx ..) (home _ (slice _ hx ..) ..))))

theorem State.modDbg_walked (s : State) (p : Nat) (f : Dbg → Dbg) : Walked s (s.modDbg p f) := rfl

theorem Issue.sample_walked (x : Issue) (kind n : Nat) (ps : List (Nat × Loc × Tr)) (s : State) : Walked s (x.sample kind n ps s) := by
  unfold Issue.sample
  split
  · exact .refl s
  · exact .ite (.refl s) (State.modDbg_walked ..)

end Sys2Proof.Machine

/-! SUPPORT. A word whose participants pass the checks of R168: where they land, and that the word goes on to its accesses. -/

namespace Sys2Proof.Machine

/-! ### Two lists side by side -/

/-- Two lists that agree under two maps agree entry by entry. -/
theorem forall_mem_zip_of_map_eq {α β γ : Type} {f : α → γ} {g : β → γ} : ∀ {xs : List α} {ys : List β}, xs.map f = ys.map g →
    ∀ y ∈ xs.zip ys, f y.1 = g y.2
  | [], _, _, y, hy => by cases hy
  | _ :: _, [], _, y, hy => by cases hy
  | x :: xs, z :: ys, h, y, hy => by
    rw [List.map_cons, List.map_cons, List.cons.injEq] at h
    obtain ⟨h1, hs⟩ := h
    obtain rfl | hy := List.mem_cons.mp hy
    · exact h1
    · exact forall_mem_zip_of_map_eq hs y hy

/-- Two lists of one length that agree entry by entry under two maps have the same image. -/
theorem map_eq_map_of_zip {α β γ : Type} {f : α → γ} {g : β → γ} {xs : List α} {ys : List β} (hl : xs.length = ys.length)
    (h : ∀ y ∈ xs.zip ys, f y.1 = g y.2) : xs.map f = ys.map g := by
  have hx : (xs.zip ys).map Prod.fst = xs := List.map_fst_zip (Nat.le_of_eq hl)
  have hy : (xs.zip ys).map Prod.snd = ys := List.map_snd_zip (Nat.le_of_eq hl.symm)
  calc xs.map f = ((xs.zip ys).map Prod.fst).map f := by rw [hx]
    _ = ((xs.zip ys).map Prod.snd).map g := by
      rw [List.map_map, List.map_map]
      exact List.map_congr_left h
    _ = ys.map g := by rw [hy]

/-- An entry of the second of two lists of one length stands beside one of the first. -/
theorem exists_mem_zip_right {α β : Type} {xs : List α} {ys : List β} (hl : xs.length = ys.length) {b : β} (hb : b ∈ ys) :
    ∃ a, (a, b) ∈ xs.zip ys := by
  have hy : (xs.zip ys).map Prod.snd = ys := List.map_snd_zip (Nat.le_of_eq hl.symm)
  rw [← hy] at hb
  obtain ⟨⟨a, c⟩, hm, rfl⟩ := List.mem_map.mp hb
  exact ⟨a, hm⟩

/-! ### Where the participants land (R168) -/

section
variable {x : Issue} {a : Access} {rd q : Bool} {n kind : Nat} {ps : List (Nat × Word)} {s1 : State} {ok : List (Nat × Loc × Tr)}
  (h : x.Reaches a rd q n kind ps s1 ok)
include h

theorem Issue.Reaches.length : ps.length = ok.length := by
  have e := congrArg List.length h.lanes
  rw [List.length_map, List.length_map] at e
  exact e.symm

theorem Issue.Reaches.walked : Walked x.s s1 := by
  obtain ⟨s0, hr, -, -, rfl⟩ := h.reach
  have hw := (State.reach_walked x.space_core a rd q n ps x.s).1
  rw [hr] at hw
  have hc := foldl_keeps (P := Walked x.s)
    (fun s (c : Nat × Loc × Tr) => s.countRequest x.la.part x.la.seq x.coreIx n c.2.1 (x.level s0 kind n c.2.1 c.2.2) c.2.2.found)
    (fun t c ht => ht.trans (t.countRequest_walked ..)) ok hw
  exact hc.trans (x.sample_walked ..)

/-- Each participant lands at its own address. -/
theorem Issue.Reaches.places : ∀ y ∈ ps.zip ok, y.2.1 = y.1.1 ∧ y.2.2.1.va = y.1.2.toNat := by
  intro y hy
  refine ⟨(forall_mem_zip_of_map_eq h.lanes.symm y hy).symm, ?_⟩
  obtain ⟨s0, hr, -⟩ := h.reach
  have hv := (State.reach_walked x.space_core a rd q n ps x.s).2
  rw [hr] at hv
  exact hv (y.1, .ok y.2.2) (List.mem_map.mpr ⟨y, hy, rfl⟩) y.2.2.1 y.2.2.2 rfl

theorem Issue.Reaches.addresses : ok.map (fun p => p.2.1.va) = ps.map (fun p => p.2.toNat) :=
  (map_eq_map_of_zip h.length (fun y hy => (h.places y hy).2.symm)).symm

/-- R168: once its participants pass the checks, a word goes on to its accesses. -/
theorem Issue.access_of_reaches (perform : State → List (Nat × Loc × Tr) → Act) : x.access a rd q n kind ps perform = perform s1 ok := by
  obtain ⟨s0, hr, hawake, hrm, rfl⟩ := h.reach
  have haligned : ps.find? (fun p => !aligned p.2.toNat n) = none :=
    List.find?_eq_none.mpr (fun p hp => by simp [aligned, h.aligned p hp])
  have hbad : (ps.zip ok).filterMap (fun _ => (none : Option (Nat × Word × Nat))) = [] := List.filterMap_eq_nil_iff.mpr (fun _ _ => rfl)
  have hok : (ps.zip ok).filterMap (fun y => some (y.1.1, y.2.2.1, y.2.2.2)) = ok := by
    have hid : (ps.zip ok).filterMap (fun y => some (y.1.1, y.2.2.1, y.2.2.2)) = (ps.zip ok).map Prod.snd := by
      rw [List.filterMap_eq_map']
      exact List.map_congr_left (fun y hy => by rw [← (h.places y hy).1])
    exact hid.trans (List.map_snd_zip (Nat.le_of_eq h.length.symm))
  have hne : ok.isEmpty = false := by
    have hps := List.length_pos_iff.mpr h.present
    rw [h.length] at hps
    simpa using List.ne_nil_of_length_pos hps
  have hcold : ok.filter (fun c => c.2.1.peer == 0 && inDram c.2.1.pa && s0.asleep (homeDie c.2.1.pa)) = [] := by
    refine List.filter_eq_nil_iff.mpr (fun c hc hb => ?_)
    simp only [Bool.and_eq_true, beq_iff_eq] at hb
    rw [hawake c hc hb.1.1 hb.1.2] at hb
    exact Bool.false_ne_true hb.2
  have hdev : (ok.any (fun c => c.2.1.mt == 2) && x.busy (fun q => q.loc.mt == 2)) = false := by
    refine Bool.eq_false_iff.mpr (fun hb => ?_)
    obtain ⟨hb, hbusy⟩ := Bool.and_eq_true_iff.mp hb
    obtain ⟨c, hc, hmt⟩ := List.any_eq_true.mp hb
    rw [h.device c hc (eq_of_beq hmt)] at hbusy
    exact Bool.false_ne_true hbusy
  have hreplica : (a == .write && ok.any (fun c => c.2.2.rm && (s0.replica? c.2.1.asid c.2.1.va).isSome)) = false := by
    refine Bool.eq_false_iff.mpr (fun hb => ?_)
    obtain ⟨ha, hb⟩ := Bool.and_eq_true_iff.mp hb
    obtain ⟨c, hc, hr⟩ := List.any_eq_true.mp hb
    obtain ⟨hr, hsome⟩ := Bool.and_eq_true_iff.mp hr
    rw [hrm (eq_of_beq ha) c hc hr] at hsome
    exact Bool.false_ne_true hsome
  unfold Issue.access
  simp only [haligned, h.watch, hr, List.filterMap_map, Function.comp_def, hbad, hok, List.find?_nil, hcold, hdev, hreplica, hne,
    List.map_nil, List.isEmpty_nil, Bool.not_true, Bool.and_false, Bool.or_self,
    Bool.false_eq_true, if_false, if_true]
  split
  next hp => exact hp.symm
  next => rfl

end

section
variable {x : Issue} {a : Access} {rd q once : Bool} {n kind : Nat} {f : Nat → Word} {s1 : State} {ok : List (Nat × Loc × Tr)}

/-- R164: a participant's location is that of the address it computes. -/
theorem Issue.Reaches.address (h : x.Reaches a rd q n kind (x.parts once f) s1 ok) : ∀ p ∈ ok, p.2.1.va = (f p.1).toNat := by
  intro p hp
  obtain ⟨y, hy⟩ := exists_mem_zip_right h.length hp
  obtain ⟨hl, hv⟩ := h.places _ hy
  obtain ⟨l, -, rfl⟩ := List.mem_map.mp (List.of_mem_zip hy).1
  dsimp only at hl hv
  rw [hv, hl]

/-- R168: a misaligned participant traps before anything else is checked. -/
theorem Issue.access_misaligned {ps : List (Nat × Word)} {p : Nat × Word} (hp : p ∈ ps) (hn : p.2.toNat % n ≠ 0)
    (perform : State → List (Nat × Loc × Tr) → Act) :
    ∃ y ∈ ps, y.2.toNat % n ≠ 0 ∧ x.access a rd q n kind ps perform = .trap { code := cALIGN, tval := y.2 } := by
  have hs : (ps.find? (fun p => !aligned p.2.toNat n)).isSome := List.find?_isSome.mpr ⟨p, hp, by simpa [aligned] using hn⟩
  obtain ⟨y, hy⟩ := Option.isSome_iff_exists.mp hs
  refine ⟨y, List.mem_of_find?_eq_some hy, by simpa [aligned] using List.find?_some hy, ?_⟩
  unfold Issue.access
  simp only [hy]

end

end Sys2Proof.Machine

/-! SUPPORT. The issuer after a word whose effect is on memory: what its group is when teams and streams are those of the issue. -/

namespace Sys2Proof.Machine

/-! ### The issuing group -/

/-- A group but for its pending results, its fragments and when it last issued. -/
def Group.SameBut (g h : Group) : Prop :=
  { g with pend := h.pend, frags := h.frags, last := h.last, pipeAt := h.pipeAt, afWait := h.afWait } = h

theorem Issue.groupAfter_congr (x : Issue) {t u : State} (ht : t.teams = u.teams) (hs : t.streams = u.streams) :
    x.groupAfter t = x.groupAfter u := by
  simp only [Issue.groupAfter, State.team?, ht, hs]

theorem Issue.modG_congr (x : Issue) {t u : State} (f : Group → Group) (ht : t.teams = u.teams) (hs : t.streams = u.streams) :
    (x.modG t f).teams = (x.modG u f).teams ∧ (x.modG t f).streams = (x.modG u f).streams := by
  unfold Issue.modG
  split <;> simp [State.modGroup, State.modTeam, State.modStream, ht, hs]

/-- A change of the issuing group changes teams and streams alone. -/
theorem Issue.modG_rest (x : Issue) (s : State) (f : Group → Group) : { x.modG s f with teams := s.teams, streams := s.streams } = s := by
  unfold Issue.modG
  split <;> rfl

theorem Issue.modF_rest (x : Issue) (s : State) (f : Frag → Frag) : { x.modF s f with teams := s.teams } = s := by
  unfold Issue.modF
  split <;> rfl

theorem Issue.modG_bytes (x : Issue) (s : State) (f : Group → Group) (slot a : Nat) : (x.modG s f).byteAt slot a = s.byteAt slot a :=
  ((Issue.Within.refl x s).modG f).bytes slot a

@[simp] theorem Issue.modG_l1 (x : Issue) (s : State) (f : Group → Group) : (x.modG s f).l1 = s.l1 := by
  have e := congrArg State.l1 (x.modG_rest s f)
  exact e

@[simp] theorem Issue.modG_homeOps (x : Issue) (s : State) (f : Group → Group) : (x.modG s f).homeOps = s.homeOps := by
  have e := congrArg State.homeOps (x.modG_rest s f)
  exact e

@[simp] theorem Issue.modF_homeOps (x : Issue) (s : State) (f : Frag → Frag) : (x.modF s f).homeOps = s.homeOps := by
  have e := congrArg State.homeOps (x.modF_rest s f)
  exact e

/-- A change of an entry that changes nothing. -/
theorem modNth_id {α : Type} (l : List α) (k : Nat) : modNth l k (fun y => y) = l := List.modify_id k l

theorem Issue.modG_id (x : Issue) (s : State) : x.modG s id = s := by
  have hteam (id : Nat) (g : Nat) : s.modGroup id g (fun y => y) = s := by
    have hm : (s.teams.map fun t => if t.id = id then { t with groups := modNth t.groups g fun y => y } else t) = s.teams := by
      have hk : ∀ t ∈ s.teams, (if t.id = id then { t with groups := modNth t.groups g fun y => y } else t) = t := by
        intro t _
        rw [modNth_id]
        split <;> rfl
      exact (List.map_congr_left hk).trans (List.map_id _)
    unfold State.modGroup State.modTeam
    rw [hm]
  unfold Issue.modG
  split
  · exact hteam ..
  · exact hteam ..
  · unfold State.modStream
    exact congrArg (fun y => { s with streams := y }) (modNth_id s.streams _)
  · rfl

variable {i : Instr} {s : State} {x : Issue}

/-- What a change of the group's results leaves, made in a state with the teams and streams of the issue. -/
theorem Issues.group_modG (h : Issues i s x) {u : State} (ht : u.teams = x.s.teams) (hs : u.streams = x.s.streams) {f : Group → Group}
    (hf : ResultsOnly f) (hfl : (f x.grp).flights = x.grp.flights) :
    ∃ g, x.groupAfter (x.modG u f) = some g ∧ g.pend = (f x.grp).pend ∧ g.SameBut x.grp := by
  obtain ⟨g, hg, hflights, hpend, -, -, hframe⟩ := modG_after h f hf
  obtain ⟨h1, h2⟩ := x.modG_congr f ht hs
  refine ⟨g, (x.groupAfter_congr h1 h2).trans hg, hpend, ?_⟩
  have hgrp := (hframe (fun _ => True) (fun _ _ _ hn => absurd trivial hn)).group
  have hfl : g.flights = x.grp.flights := hflights.trans hfl
  unfold Group.SameBut
  rw [← hfl] at hgrp
  exact hgrp

/-- The issuing group, in a state with the teams and streams of the issue. -/
theorem Issues.group_same (h : Issues i s x) {u : State} (ht : u.teams = x.s.teams) (hs : u.streams = x.s.streams) :
    ∃ g, x.groupAfter u = some g ∧ g.pend = x.grp.pend ∧ g.SameBut x.grp := by
  obtain ⟨g, hg, hp, hsame⟩ := h.group_modG ht hs (f := id) ⟨fun _ => rfl, fun _ _ h1 h2 => ⟨h1, h2⟩⟩ rfl
  rw [x.modG_id] at hg
  exact ⟨g, hg, hp, hsame⟩

/-- R32: the group after a word of variable latency, in a state with the teams and streams of the issue. -/
theorem Issues.group_variable (h : Issues i s x) {u : State} (ht : u.teams = x.s.teams) (hs : u.streams = x.s.streams)
    (regs : List PendReg) (ws : List RegWrite) (fl : BitVec 6) (left due : Nat) (acq : Bool) :
    ∃ g, x.groupAfter (x.variable u regs ws fl left due acq) = some g ∧
      g.pend = x.grp.pend ++ [⟨u.nextId, x.frag.mask, regs, ws, fl, left, due, acq⟩] ∧ g.SameBut x.grp :=
  h.group_modG ht hs (resultsOnly_pend ⟨u.nextId, x.frag.mask, regs, ws, fl, left, due, acq⟩) rfl

theorem Issue.variable_bytes (x : Issue) (u : State) (regs : List PendReg) (ws : List RegWrite) (fl : BitVec 6) (left due : Nat) (acq : Bool)
    (slot a : Nat) : (x.variable u regs ws fl left due acq).byteAt slot a = u.byteAt slot a := x.modG_bytes u _ slot a

end Sys2Proof.Machine

/-! SUPPORT. The operations that set out for their homes (R166, R170, R174, R175). -/

namespace Sys2Proof.Machine

/-- What operations have beside their numbers they keep as they set out. -/
theorem map_setOut {α : Type} (f : HomeOp → α) (k : Nat) (hf : ∀ q n, f { q with id := n } = f q) (ops : List HomeOp) :
    (ops.zipIdx.map (fun y => { y.1 with id := k + y.2 })).map f = ops.map f := by
  rw [List.map_map]
  calc ops.zipIdx.map (f ∘ fun y => { y.1 with id := k + y.2 })
      = ops.zipIdx.map (f ∘ Prod.fst) := List.map_congr_left (fun y _ => hf y.1 _)
    _ = (ops.zipIdx.map Prod.fst).map f := by rw [List.map_map]
    _ = ops.map f := by rw [List.zipIdx_map_fst]

theorem State.sendHome_fns (s : State) (ops : List HomeOp) : (s.sendHome ops).homeOps.map HomeOp.fn = s.homeOps.map HomeOp.fn ++ ops.map HomeOp.fn := by
  unfold State.sendHome
  rw [List.map_append, map_setOut HomeOp.fn s.nextId (fun _ _ => rfl)]

theorem State.sendHome_bytes (s : State) (ops : List HomeOp) (slot a : Nat) : (s.sendHome ops).byteAt slot a = s.byteAt slot a := rfl

variable {i : Instr} {s : State} {x : Issue}

/-- R166: the units of a store of n bytes. -/
theorem Issue.storeOps_units (x : Issue) (once : Bool) (l : Nat) (c : Loc) (bs : List Byte) (rel : Bool) (due : Nat) :
    x.storeOps once l c bs rel none due = ((List.range ((bs.length + 7) / 8)).map (fun j => 8 * j)).map (fun o =>
      x.homeOp once l { c with va := c.va + o, pa := c.pa + o } ((bs.drop o).take 8).length (.store ((bs.drop o).take 8)) rel false none due) := by
  rw [List.map_map]
  rfl

@[simp] theorem length_leBytes (n : Nat) : ∀ v, (leBytes n v).length = n := by
  induction n with
  | zero => exact fun _ => rfl
  | succ n ih => exact fun v => congrArg (· + 1) (ih _)

/-- A word whose effect is to send operations home, once its participants pass the checks. -/
theorem Issues.setsOut (hi : Issues i s x) {a : Access} {rd q : Bool} {n kind : Nat} {ps : List (Nat × Word)} {s1 : State} {ok : List (Nat × Loc × Tr)}
    (hr : x.Reaches a rd q n kind ps s1 ok) {ops : State → List (Nat × Loc × Tr) → List HomeOp} {body : Issue → Act}
    (hb : body x = x.access a rd q n kind ps fun t ok => .done (t.sendHome (ops t ok))) (he : exec i s = word i s body)
    {vas : List Nat} (hva : (ops s1 ok).map (fun q => q.loc.va) = vas) :
    exec i s = .next (s1.sendHome (ops s1 ok)) ∧ (ops s1 ok).map (fun q => q.loc.va) = vas ∧
      (s1.sendHome (ops s1 ok)).homeOps.map HomeOp.fn = s1.homeOps.map HomeOp.fn ++ (ops s1 ok).map HomeOp.fn ∧ Walked x.s s1 ∧
      ∀ slot a, (s1.sendHome (ops s1 ok)).byteAt slot a = s1.byteAt slot a :=
  ⟨he.trans (word_done hi (hb.trans (Issue.access_of_reaches hr _))), hva, s1.sendHome_fns _, hr.walked, s1.sendHome_bytes _⟩

/-- A word that sends one operation home for each participant. -/
theorem Issues.setsOutEach (hi : Issues i s x) {a : Access} {rd q : Bool} {n kind : Nat} {ps : List (Nat × Word)} {s1 : State} {ok : List (Nat × Loc × Tr)}
    (hr : x.Reaches a rd q n kind ps s1 ok) {op : State → Nat × Loc × Tr → HomeOp} (hop : ∀ t p, (op t p).loc = p.2.1) {body : Issue → Act}
    (hb : body x = x.access a rd q n kind ps fun t ok => .done (t.sendHome (ok.map (op t)))) (he : exec i s = word i s body) :
    exec i s = .next (s1.sendHome (ok.map (op s1))) ∧ (ok.map (op s1)).map (fun q => q.loc.va) = ps.map (fun p => p.2.toNat) ∧
      (s1.sendHome (ok.map (op s1))).homeOps.map HomeOp.fn = s1.homeOps.map HomeOp.fn ++ (ok.map (op s1)).map HomeOp.fn ∧ Walked x.s s1 ∧
      ∀ slot a, (s1.sendHome (ok.map (op s1))).byteAt slot a = s1.byteAt slot a := by
  refine hi.setsOut hr (ops := fun t ok => ok.map (op t)) hb he ?_
  rw [List.map_map, ← hr.addresses]
  exact List.map_congr_left (fun p _ => congrArg Loc.va (hop s1 p))

/-- R166: a store of n bytes sends one access for each unit of 8 bytes. -/
def Issue.storeUnits (x : Issue) (once rel : Bool) (d : Opr) (n : Nat) (s : State) (ok : List (Nat × Loc × Tr)) : List HomeOp :=
  ok.flatMap (fun p => x.storeOps once p.1 p.2.1 (leBytes n (x.datum d n p.1)) rel none (s.clock + s.homeTime x.space.die p.2.1))

theorem Issue.storeUnits_va (x : Issue) (once rel : Bool) (d : Opr) (n : Nat) (s : State) (ok : List (Nat × Loc × Tr)) :
    (x.storeUnits once rel d n s ok).map (fun q => q.loc.va) =
      (ok.map (fun p => p.2.1.va)).flatMap (fun va => ((List.range ((n + 7) / 8)).map (fun j => 8 * j)).map (fun o => va + o)) := by
  rw [Issue.storeUnits, List.map_flatMap, List.flatMap_map]
  refine congrArg (fun f => ok.flatMap f) (funext fun p => ?_)
  rw [x.storeOps_units, List.map_map, length_leBytes]
  rfl

theorem Issue.store_of (x : Issue) (d : Opr) (m : Mem) (sz : Sz) (ofs : BitVec 9) (rel : Bool) (ha : x.acquiring = false)
    (hrel : rel = true → x.engineOps = false) : x.store d m sz ofs rel =
      x.access .write false false sz.bytes 1 (x.parts (actsOnce m d) (x.addr m ofs.toInt sz.bytes)) fun s ok =>
        .done (s.sendHome (x.storeUnits (actsOnce m d) rel d sz.bytes s ok)) := by
  have hgo : (x.acquiring || (rel && x.engineOps)) = false := by cases rel <;> simp [ha, hrel]
  unfold Issue.store
  simp only [hgo]
  rfl

theorem Issue.storeUnits_eq (x : Issue) (once rel : Bool) (d : Opr) (n : Nat) (s : State) (ok : List (Nat × Loc × Tr)) :
    x.storeUnits once rel d n s ok = ok.flatMap (fun p => ((List.range ((n + 7) / 8)).map (fun j => 8 * j)).map (fun o =>
      x.homeOp once p.1 { p.2.1 with va := p.2.1.va + o, pa := p.2.1.pa + o } (((leBytes n (x.datum d n p.1)).drop o).take 8).length
        (.store (((leBytes n (x.datum d n p.1)).drop o).take 8)) rel false none (s.clock + s.homeTime x.space.die p.2.1))) := by
  unfold Issue.storeUnits
  refine congrArg (fun f => ok.flatMap f) (funext fun p => ?_)
  rw [x.storeOps_units, length_leBytes]

end Sys2Proof.Machine

namespace Sys2Proof.Machine

/-- Settles O25: once the checks let the participants through, the word is the sending of their operations, whose addresses are the
participants'. -/
theorem storesSetOutForTheirHome : Obligations.StoresSetOutForTheirHome := by
  intro s x m sz
  refine ⟨fun d ofs ha s1 ok hr h => ?_, fun d ofs op ha s1 ok hr h hi => ?_, fun d ofs op ha s1 ok hr h hi => ?_⟩
  · have hva (rel : Bool) : (x.storeUnits (actsOnce m d) rel d sz.bytes s1 ok).map (fun q => q.loc.va) =
        (x.parts (actsOnce m d) (x.addr m ofs.toInt sz.bytes)).flatMap (fun p =>
          ((List.range ((sz.bytes + 7) / 8)).map (fun j => 8 * j)).map (fun o => p.2.toNat + o)) := by
      rw [x.storeUnits_va, hr.addresses, List.flatMap_map]
      rfl
    constructor
    · intro hi
      have key := hi.setsOut hr (body := fun x => x.store d m sz ofs false) (x.store_of d m sz ofs false ha (fun h => by cases h)) rfl (hva false)
      rw [x.storeUnits_eq] at key
      exact key
    · intro he hi
      have key := hi.setsOut hr (body := fun x => x.store d m sz ofs true) (x.store_of d m sz ofs true ha (fun _ => he)) rfl (hva true)
      rw [x.storeUnits_eq] at key
      exact key
  · exact hi.setsOutEach hr (op := fun t p => x.homeOp (actsOnce m d) p.1 p.2.1 sz.bytes (.red op (x.datum d sz.bytes p.1)) false false none
      (t.clock + t.homeTime x.space.die p.2.1 + 10)) (fun _ _ => rfl) (if_neg (by simp [ha])) rfl
  · exact hi.setsOutEach hr (op := fun t p => x.homeOp false p.1 p.2.1 4 (.bfma op (x.vreg d.val p.1) (x.vreg (d.val + 1) p.1)) false false none
      (t.clock + t.homeTime x.space.die p.2.1 + 10)) (fun _ _ => rfl) (if_neg (by simp [ha])) rfl

end Sys2Proof.Machine

/-! SUPPORT. Words that send one operation for each participant and may leave their results pending (R177-R183). -/

namespace Sys2Proof.Machine

/-! ### The issuing fragment -/

section
variable {i : Instr} {s : State} {x : Issue}

/-- The issuer is a fragment of a group, or the body of its inv. -/
def Issue.ByFrag (x : Issue) (tid gi ent : Nat) : Prop := x.who = .frag tid gi ent ∨ x.who = .body tid gi ent

theorem Issue.modG_byFrag {tid gi ent : Nat} (hw : x.ByFrag tid gi ent) (u : State) (f : Group → Group) : x.modG u f = u.modGroup tid gi f := by
  unfold Issue.modG
  rcases hw with hw | hw <;> rw [hw]

theorem Issue.modF_byFrag {tid gi ent : Nat} (hw : x.ByFrag tid gi ent) (u : State) (f : Frag → Frag) : x.modF u f = u.modFrag tid gi ent f := by
  unfold Issue.modF
  rcases hw with hw | hw <;> rw [hw]

theorem Issue.groupAfter_byFrag {tid gi ent : Nat} (hw : x.ByFrag tid gi ent) (u : State) :
    x.groupAfter u = (u.team? tid).bind (fun y => y.groups[gi]?) := by
  unfold Issue.groupAfter
  rcases hw with hw | hw <;> rw [hw]

/-- The group of a fragment after a change of it. -/
theorem State.group_modGroup (u : State) (tid gi : Nat) (f : Group → Group) :
    ((u.modGroup tid gi f).team? tid).bind (fun y => y.groups[gi]?) = ((u.team? tid).bind (fun y => y.groups[gi]?)).map f := by
  rw [State.team?_modGroup]
  cases hy : u.team? tid with
  | none => rfl
  | some y => simp [State.team?_id hy, modNth_get]

theorem Issue.groupAfter_modG_byFrag {tid gi ent : Nat} (hw : x.ByFrag tid gi ent) (u : State) (f : Group → Group) :
    x.groupAfter (x.modG u f) = (x.groupAfter u).map f := by
  rw [x.modG_byFrag hw, x.groupAfter_byFrag hw, x.groupAfter_byFrag hw, State.group_modGroup]

theorem Issue.groupAfter_modF_byFrag {tid gi ent : Nat} (hw : x.ByFrag tid gi ent) (u : State) (f : Frag → Frag) :
    x.groupAfter (x.modF u f) = (x.groupAfter u).map (fun g => g.modFrag ent f) := by
  rw [x.modF_byFrag hw, x.groupAfter_byFrag hw, x.groupAfter_byFrag hw]
  exact State.group_modGroup u tid gi _

theorem Issue.modF_stream {n : Nat} (hw : x.who = .stream n) (u : State) (f : Frag → Frag) : x.modF u f = u := by
  unfold Issue.modF
  rw [hw]

/-- A word is issued by a fragment, whose place is still in its group after issuing, or by a stream. -/
theorem Issues.byFrag (h : Issues i s x) : (∃ n, x.who = .stream n) ∨
    ∃ tid gi, x.ByFrag tid gi x.frag.ent ∧ ∃ g f, x.groupAfter x.s = some g ∧ f ∈ g.frags ∧ f.ent = x.frag.ent := by
  rcases h.cases with ⟨tid, gi, ent, hc, hx⟩ | ⟨n, y, hc, hx⟩
  · have hent : x.frag.ent = ent := by simpa using List.find?_some hx.frag
    have hw : x.ByFrag tid gi x.frag.ent := by
      unfold Issue.ByFrag
      rw [hx.who, hent]
      exact hc
    have hs : x.s.teams = (s.modGroup tid gi (fun g => g.issued ent s.clock (stallOf i) (holdOf i x.la.r.width x.frag.mask))).teams := by
      rw [hx.state, State.charge_eq]
    have hg : x.groupAfter x.s = some (x.grp.issued ent s.clock (stallOf i) (holdOf i x.la.r.width x.frag.mask)) := by
      have hgrp : (s.team? tid).bind (fun y => y.groups[gi]?) = some x.grp := by rw [hx.team]; exact hx.grp
      have hmod := s.group_modGroup tid gi (fun g => g.issued ent s.clock (stallOf i) (holdOf i x.la.r.width x.frag.mask))
      rw [hgrp] at hmod
      rw [x.groupAfter_byFrag hw]
      unfold State.team? at hmod ⊢
      rw [hs]
      exact hmod
    refine .inr ⟨tid, gi, hw, _, x.frag.advance s.clock (stallOf i), hg, ?_, rfl⟩
    exact List.mem_map.mpr ⟨x.frag, List.mem_of_find?_eq_some hx.frag, if_pos hent⟩
  · exact .inl ⟨n, hx.who⟩

end

/-! ### One operation for each participant -/

/-- What each operation has of its participant, but for its number, it keeps as it sets out. -/
theorem forall_setOut {α : Type} (op : α → HomeOp) (k : Nat) (ok : List α) :
    ∀ y ∈ ((ok.map op).zipIdx.map (fun y => { y.1 with id := k + y.2 })).zip ok, ∃ n, y.1 = { op y.2 with id := n } := by
  have hj (j : Nat) : ∀ y ∈ (((ok.map op).zipIdx j).map (fun y => { y.1 with id := k + y.2 })).zip ok, ∃ n, y.1 = { op y.2 with id := n } := by
    induction ok generalizing j with
    | nil => exact fun y hy => by cases hy
    | cons p ok ih =>
      intro y hy
      obtain rfl | hy := List.mem_cons.mp hy
      · exact ⟨_, rfl⟩
      · exact ih (j + 1) y hy
  exact hj 0

/-- The operations of a word's participants set out, with its results pending until all are served, if it has any. -/
def Issue.sendEach (x : Issue) (s : State) (ok : List (Nat × Loc × Tr)) (pends : Bool) (regs : List PendReg) (due : Nat) (acq : Bool)
    (op : Nat × Loc × Tr → Option Nat → HomeOp) : State :=
  if pends then (x.variable s regs [] 0 ok.length due acq).sendHome (ok.map (fun p => op p (some s.nextId)))
  else s.sendHome (ok.map (fun p => op p none))

theorem Issue.sendEach_empty (x : Issue) (s : State) (ok : List (Nat × Loc × Tr)) (e : Bool) (regs : List PendReg) (due : Nat) (acq : Bool)
    (op : Nat × Loc × Tr → Option Nat → HomeOp) :
    (if e = true then s else x.variable s regs [] 0 ok.length due acq).sendHome (ok.map (fun p => op p (if e = true then none else some s.nextId))) =
      x.sendEach s ok (!e) regs due acq op := by
  cases e <;> rfl

/-- What the sending of a word's operations gives: an operation for each participant, and a pending result. -/
structure Issue.SentEach (x : Issue) (s1 t : State) (ok : List (Nat × Loc × Tr)) (pends : Bool) (regs : List PendReg) (due : Nat) (acq : Bool)
    (op : Nat × Loc × Tr → Option Nat → HomeOp) (g : Group) (ops : List HomeOp) : Prop where
  group  : x.groupAfter t = some g
  sent   : t.homeOps = s1.homeOps ++ ops
  length : ops.length = ok.length
  each   : ∀ y ∈ ops.zip ok, ∃ n, y.1 = { op y.2 (if pends then some s1.nextId else none) with id := n }
  pend   : g.pend = if pends then x.grp.pend ++ [⟨s1.nextId, x.frag.mask, regs, [], 0, ok.length, due, acq⟩] else x.grp.pend
  same   : g.SameBut x.grp
  bytes  : ∀ slot a, t.byteAt slot a = s1.byteAt slot a

theorem Issues.sentEach {i : Instr} {s : State} {x : Issue} (hi : Issues i s x) {s1 : State} (hw : Walked x.s s1) (ok : List (Nat × Loc × Tr))
    (pends : Bool) (regs : List PendReg) (due : Nat) (acq : Bool) (op : Nat × Loc × Tr → Option Nat → HomeOp) :
    ∃ g ops, x.SentEach s1 (x.sendEach s1 ok pends regs due acq op) ok pends regs due acq op g ops := by
  cases pends with
  | false =>
    obtain ⟨g, hg, hp, hsame⟩ := hi.group_same hw.teams hw.streams
    exact ⟨g, _, hg, rfl, by simp, forall_setOut (fun p => op p none) _ ok, hp, hsame, fun _ _ => rfl⟩
  | true =>
    obtain ⟨g, hg, hp, hsame⟩ := hi.group_variable hw.teams hw.streams regs [] 0 ok.length due acq
    refine ⟨g, _, hg, congrArg (· ++ _) (x.modG_homeOps s1 _), by simp, forall_setOut (fun p => op p (some s1.nextId)) _ ok, hp, hsame, ?_⟩
    exact fun slot a => x.variable_bytes s1 regs [] 0 ok.length due acq slot a

/-! ### Atomics and queue words -/

section
variable {i : Instr} {s : State} {x : Issue}

/-- R182: the operation of an atomic's participant. -/
def Issue.atomOp (x : Issue) (d : Fin 192) (sz : Sz) (op : AtomOp) (ord : AtomOrd) (due : Nat) (p : Nat × Loc × Tr) (pend : Option Nat) : HomeOp :=
  x.homeOp false p.1 p.2.1 sz.bytes (.atom op (x.datum (.v d) sz.bytes p.1)
    (if op = .cas then x.datum (.v d) (2 * sz.bytes) p.1 / 2 ^ (8 * sz.bytes) else 0) (ord != .com) d.val) (ordRel ord) (ordAcq ord) pend due

theorem exec_atom (hi : Issues i s x) {h : Hdr} {d : Fin 192} {m : Mem} {sz : Sz} {op : AtomOp} {ord : AtomOrd} (he : i = .atom h d m sz op ord)
    (ha : x.acquiring = false) (hb : ordAcq ord = true → x.busy HomeOp.syncs = false) (hr : ordRel ord = true → x.engineOps = false)
    {s1 : State} {ok : List (Nat × Loc × Tr)} (hok : x.Reaches .write true false sz.bytes 2 (x.parts false (x.addr m 0 sz.bytes)) s1 ok) :
    exec i s = .next (x.sendEach s1 ok (ord != .com) (pendRegs (laneSet 64 (fun l => ok.any (fun p => p.1 == l))) (.v d.val sz.regs))
      (x.bankDue s1 ok) (ordAcq ord) (x.atomOp d sz op ord (x.bankDue s1 ok))) := by
  subst he
  have hgo : (x.acquiring || (ordAcq ord && x.busy HomeOp.syncs) || (ordRel ord && x.engineOps)) = false := by
    simp only [ha, Bool.false_or, Bool.or_eq_false_iff, Bool.and_eq_false_imp]
    exact ⟨hb, hr⟩
  refine word_done hi ((if_neg (by simp [hgo])).trans ((Issue.access_of_reaches hok _).trans ?_))
  unfold Issue.sendEach
  cases ord <;> rfl

/-- R179: the results of a queue word: the dequeued values, and the status predicate. -/
def queueRegs (d : Opr) (sz : Sz) (p : BitVec 3) (deq : Bool) (ok : List (Nat × Loc × Tr)) : List PendReg :=
  let lanes := laneSet 64 (fun l => ok.any (fun q => q.1 == l))
  (if deq then pendRegs lanes (d.ref sz.regs) else []) ++ (if p = 0 then [] else pendRegs lanes (.p p.toNat))

/-- R179: the operation of a queue word's participant. -/
def Issue.queueOpOf (x : Issue) (once : Bool) (d : Opr) (sz : Sz) (wait : Bool) (p : BitVec 3) (deq : Bool) (due : Nat) (q : Nat × Loc × Tr)
    (pend : Option Nat) : HomeOp :=
  x.homeOp once q.1 q.2.1 sz.bytes (if deq then .deq d wait p.toNat else .enq (x.datum d sz.bytes q.1) wait p.toNat) (!deq) deq pend due

/-- R180: a fragment held at a .wait queue word. -/
def Issue.atQueue (x : Issue) (deq : Bool) (ps : List (Nat × Word)) (f : Frag) : Frag :=
  { f with pc := x.pc, st := .blocked (.queue deq (ps.map (fun p => (p.1, x.space.asid, p.2.toNat)))), todo := some x.lanes }

/-- R179, R180: where a queue word leaves the issuer: a .wait word holds its fragment at the word until all its participants are served. -/
def Issue.queueAfter (x : Issue) (wait deq : Bool) (ps : List (Nat × Word)) (t : State) : State :=
  if wait then x.modF t (x.atQueue deq ps) else t

theorem Issue.queueOp_after (x : Issue) {d : Opr} {m : Mem} {sz : Sz} {wait deq : Bool} {p : BitVec 3} {ofs : BitVec 5} (ha : x.acquiring = false)
    (hb : deq = true → x.busy HomeOp.syncs = false) (hr : deq = false → x.engineOps = false) {s1 : State} {ok : List (Nat × Loc × Tr)}
    (hok : x.Reaches .write deq true 64 4 (x.parts (actsOnce m d) (x.addr m ofs.toInt 64)) s1 ok) (s : State) :
    (x.queueOp d m sz wait p ofs deq).after s = x.queueAfter wait deq (x.parts (actsOnce m d) (x.addr m ofs.toInt 64))
      (x.sendEach s1 ok (!(queueRegs d sz p deq ok).isEmpty) (queueRegs d sz p deq ok) (x.bankDue s1 ok) deq
        (x.queueOpOf (actsOnce m d) d sz wait p deq (x.bankDue s1 ok))) := by
  have hgo : (x.acquiring || (deq && x.busy HomeOp.syncs) || (!deq && x.engineOps)) = false := by
    simp only [ha, Bool.false_or, Bool.or_eq_false_iff, Bool.and_eq_false_imp, Bool.not_eq_true']
    exact ⟨hb, hr⟩
  unfold Issue.queueOp
  simp only [hgo, Bool.false_eq_true, if_false, Issue.access_of_reaches hok]
  have hsend := x.sendEach_empty s1 ok (queueRegs d sz p deq ok).isEmpty (queueRegs d sz p deq ok) (x.bankDue s1 ok) deq
    (x.queueOpOf (actsOnce m d) d sz wait p deq (x.bankDue s1 ok))
  cases wait
  · exact hsend
  · exact congrArg (fun t => x.queueAfter true deq (x.parts (actsOnce m d) (x.addr m ofs.toInt 64)) t) hsend

/-- The sending of operations leaves the issuing fragment in its group. -/
theorem Issue.sendEach_frags (hw : Walked x.s s) {g0 : Group} (hg : x.groupAfter x.s = some g0) {tid gi ent : Nat}
    (hf : x.ByFrag tid gi ent) (ok : List (Nat × Loc × Tr)) (pends : Bool) (regs : List PendReg) (due : Nat) (acq : Bool)
    (op : Nat × Loc × Tr → Option Nat → HomeOp) : ∃ g, x.groupAfter (x.sendEach s ok pends regs due acq op) = some g ∧ g.frags = g0.frags := by
  have h0 : x.groupAfter s = some g0 := (x.groupAfter_congr hw.teams hw.streams).trans hg
  cases pends with
  | false => exact ⟨g0, h0, rfl⟩
  | true =>
    have hmod := Issue.groupAfter_modG_byFrag hf s (fun g => { g with pend := g.pend ++ [⟨s.nextId, x.frag.mask, regs, [], 0, ok.length, due, acq⟩] })
    rw [h0] at hmod
    exact ⟨_, hmod, rfl⟩

theorem Group.SameBut.modFrag {g h : Group} (hs : g.SameBut h) (ent : Nat) (f : Frag → Frag) : (g.modFrag ent f).SameBut h := hs

/-- R180: what a queue word leaves once its operations are sent: a .wait word's fragment stands blocked at the word. -/
theorem Issues.queueAfter (hi : Issues i s x) {s1 : State} (hw : Walked x.s s1) (wait deq : Bool) (ps : List (Nat × Word))
    (ok : List (Nat × Loc × Tr)) (pends : Bool) (regs : List PendReg) (due : Nat) (op : Nat × Loc × Tr → Option Nat → HomeOp) :
    ∃ g ops, x.SentEach s1 (x.queueAfter wait deq ps (x.sendEach s1 ok pends regs due deq op)) ok pends regs due deq op g ops ∧
      (wait = true → (∀ n, x.who ≠ .stream n) → ∃ f ∈ g.frags, f.ent = x.frag.ent ∧ f.pc = x.pc ∧ f.todo = some x.lanes ∧
        f.st = .blocked (.queue deq (ps.map (fun p => (p.1, x.space.asid, p.2.toNat))))) := by
  obtain ⟨g, ops, hsent⟩ := hi.sentEach hw ok pends regs due deq op
  cases wait with
  | false => exact ⟨g, ops, hsent, fun h => by cases h⟩
  | true =>
    rcases hi.byFrag with ⟨n, hn⟩ | ⟨tid, gi, hf, g0, f0, hg0, hf0, hent⟩
    · have hid : x.queueAfter true deq ps (x.sendEach s1 ok pends regs due deq op) = x.sendEach s1 ok pends regs due deq op := Issue.modF_stream hn _ _
      rw [hid]
      exact ⟨g, ops, hsent, fun _ hx => absurd hn (hx n)⟩
    · have hgroup := hsent.group
      obtain ⟨g', hg', hfrags⟩ := Issue.sendEach_frags hw hg0 hf ok pends regs due deq op
      rw [hg'] at hgroup
      obtain rfl := Option.some.inj hgroup
      have hmod := (Issue.groupAfter_modF_byFrag hf (x.sendEach s1 ok pends regs due deq op) (x.atQueue deq ps)).trans (congrArg (Option.map _) hg')
      refine ⟨_, ops, ⟨hmod, (x.modF_homeOps _ _).trans hsent.sent, hsent.length, hsent.each, hsent.pend, hsent.same.modFrag _ _, ?_⟩, fun _ _ => ?_⟩
      · intro slot a
        exact (((Issue.Within.refl x _).modF _).bytes slot a).trans (hsent.bytes slot a)
      · refine ⟨_, List.mem_map.mpr ⟨f0, hfrags ▸ hf0, rfl⟩, ?_⟩
        rw [if_pos hent]
        exact ⟨hent, rfl, rfl, rfl⟩

/-- R178: the two ways of a qinit whose header is aligned: for no entries, and for some. -/
theorem qinit_body {a : Fin 64} (hbusy : (x.acquiring || x.releaseBusy) = false) (hal : (x.sreg a).toNat % 64 = 0) {act : Act} :
    (if (x.acquiring || x.releaseBusy) = true then Act.wait
      else if (!aligned (x.sreg a).toNat 64) = true then .trap { code := cALIGN, tval := x.sreg a } else act) = act := by
  simp [hbusy, aligned, hal]

/-- R178: the pages of a queue are not all ordinary memory of one die. -/
theorem qinit_bad_iff (ok : List (Nat × Loc × Tr)) :
    ok.any (fun p => p.2.1.mt == 2 || p.2.1.peer != 0 || homeDie p.2.1.pa != (ok.map (fun p => homeDie p.2.1.pa)).headD 0) = true ↔
      ∃ p ∈ ok, p.2.1.mt = 2 ∨ p.2.1.peer ≠ 0 ∨ homeDie p.2.1.pa ≠ (ok.map (fun p => homeDie p.2.1.pa)).headD 0 := by
  simp [List.any_eq_true, or_assoc]

end

end Sys2Proof.Machine

namespace Sys2Proof.Machine

/-- Settles O28: the operations and the pending result are those of `Issue.sendEach`; a .wait word then holds its fragment. -/
theorem atomicsAndQueueWords : Obligations.AtomicsAndQueueWords := by
  intro s x
  refine ⟨fun h d m sz op ord => ?atom, fun h d m sz wait p ofs deq => ?queue, fun h a b hi ha hb => ?qinit⟩
  case atom =>
    intro n ps ha hb hr s1 ok hi hok
    have hacq : (ord == .acq || ord == .acqrel) = ordAcq ord := by cases ord <;> rfl
    have hrel : (ord = .rel ∨ ord = .acqrel) ↔ ordRel ord = true := by cases ord <;> simp [ordRel]
    have hret : (ord = .com) ↔ ¬ (ord != .com) = true := by cases ord <;> simp
    obtain ⟨g, ops, hs⟩ := hi.sentEach hok.walked ok (ord != .com) (pendRegs (laneSet 64 (fun l => ok.any (fun p => p.1 == l))) (.v d.val sz.regs))
      (x.bankDue s1 ok) (ordAcq ord) (x.atomOp d sz op ord (x.bankDue s1 ok))
    refine ⟨_, g, x.bankDue s1 ok, ops, exec_atom hi rfl ha (fun h => hb (by cases ord <;> simp_all [ordAcq])) (fun h => hr (hrel.mpr h)) hok,
      hs.group, hs.sent, hs.length, fun y hy => ?_, ?_, hs.same, hs.bytes⟩
    · obtain ⟨k, hy⟩ := hs.each y hy
      rw [hy, hacq]
      refine ⟨rfl, rfl, rfl, rfl, ?_, ?_, rfl⟩
      · simp only [hrel]; rfl
      · simp only [hret, ite_not]; rfl
    · simp only [hret, ite_not, hacq]
      exact hs.pend
  case queue =>
    intro i once ps ha hb hr s1 ok hi hok lanes regs
    have he : exec i s = word i s (fun x => x.queueOp d m sz wait p ofs deq) := by cases deq <;> rfl
    have hregs : (!regs.isEmpty) = true ↔ ¬ regs = [] := by simp
    obtain ⟨g, ops, hs, hheld⟩ := hi.queueAfter hok.walked wait deq ps ok (!regs.isEmpty) regs (x.bankDue s1 ok)
      (x.queueOpOf once d sz wait p deq (x.bankDue s1 ok))
    refine ⟨_, g, x.bankDue s1 ok, ops, he.trans ((word_of_issues hi _).trans (congrArg Host.Outcome.next (x.queueOp_after ha hb hr hok s))),
      hs.group, hs.sent, hs.length, fun y hy => ?_, ?_, hs.same, hheld, hs.bytes⟩
    · obtain ⟨k, hy⟩ := hs.each y hy
      simp only [hregs, ite_not] at hy
      rw [hy]
      refine ⟨rfl, rfl, rfl, rfl, ?_, rfl, rfl⟩
      cases deq <;> rfl
    · have hp := hs.pend
      simp only [hregs, ite_not] at hp
      exact hp
  case qinit =>
    have hk32 : field (x.sreg b) 4 0 = (x.sreg b).toNat % 32 := by simp [field, bits]
    rw [← hk32]
    refine ⟨fun hal => ?misaligned, fun hal hk => ⟨?dissolve, ?absent⟩, fun hal hk s1 ok hr => ⟨?unfit, ?made⟩⟩
    case misaligned =>
      refine word_trap hi ((if_neg (by simp [ha, hb])).trans (if_pos ?_))
      simp [aligned, hal]
    case dissolve =>
      intro q hq s1 ok hr
      refine word_done hi ((qinit_body (by simp [ha, hb]) hal).trans ((if_pos hk).trans ?_))
      rw [hq]
      exact Issue.access_of_reaches hr _
    case absent =>
      intro hno
      refine word_done hi ((qinit_body (by simp [ha, hb]) hal).trans ((if_pos hk).trans ?_))
      rw [List.find?_eq_none.mpr (fun q hq => by simpa using hno q hq)]
    case unfit =>
      intro hbad
      refine word_trap hi ((qinit_body (by simp [ha, hb]) hal).trans ((if_neg hk).trans ((Issue.access_of_reaches hr _).trans ?_)))
      dsimp only
      split
      · rfl
      · rename_i hok
        refine if_pos ?_
        rcases hbad with hp | hover | hmany
        · exact absurd ((qinit_bad_iff ok).mpr hp) hok
        · exact Bool.or_eq_true_iff.mpr (.inl (List.any_eq_true.mpr hover))
        · exact Bool.or_eq_true_iff.mpr (.inr (decide_eq_true hmany))
    case made =>
      intro hok hover hfew
      refine word_done hi ((qinit_body (by simp [ha, hb]) hal).trans ((if_neg hk).trans ((Issue.access_of_reaches hr _).trans ?_)))
      refine (if_neg ?_).trans (if_neg ?_)
      · intro hb
        obtain ⟨p, hp, hbad⟩ := (qinit_bad_iff ok).mp hb
        obtain ⟨h1, h2, h3⟩ := hok p hp
        exact hbad.elim h1 (fun hb => hb.elim (· h2) (· h3))
      · rw [Bool.not_eq_true, Bool.or_eq_false_iff]
        refine ⟨?_, decide_eq_false (Nat.not_le.mpr hfew)⟩
        exact List.any_eq_false.mpr (fun y hy => by simp only [hover y hy]; simp)

end Sys2Proof.Machine

/-! SUPPORT. What an access does when it reaches its home bank (R174-R182, R286, R290, R436). -/

namespace Sys2Proof.Machine

/-! ### Reaching the home -/

section
variable {s : State} {p : HomeOp}

theorem exec_homeBankOperation {k : Nat} (hk : s.homeOp? k = some p) (hdue : p.due ≤ s.clock) (hr : p.fn.registers = false) :
    exec (.homeBankOperation k) s = .next (s.land p) := by
  show execHomeBankOperation k s = _
  unfold execHomeBankOperation
  simp [hk, hdue, hr]

theorem State.land_performs (hm : s.mayLand p = true) (hrep : s.replicaOf p = none) (hlink : p.loc.peer ≠ 0 → s.peerOk p.loc.peer = true)
    (hbad : s.badHome p = false) (hwait : s.mustWait p = false) : s.land p = (s.landed p).performHome p := by
  have hpeer : (p.loc.peer != 0 && !p.fn.isMark && !s.peerOk p.loc.peer) = false := by
    by_cases hp : p.loc.peer = 0
    · simp [hp]
    · simp [hlink hp]
  unfold State.land State.landReady
  simp [hm, hrep, hbad, hwait, hpeer]

/-- R436: an access whose bank has to read a poisoned line ends with MEMF, whether or not its queue would keep it waiting. -/
theorem State.land_poisoned (hm : s.mayLand p = true) (hrep : s.replicaOf p = none) (hpeer : p.loc.peer = 0) (hbad : s.badHome p = true) :
    s.land p = (s.landed p).lost p 0x50 := by
  unfold State.land State.landReady
  simp only [hm, hrep, hbad, hpeer]
  rfl

/-- R180: an operation of a .wait word that its queue cannot serve stays. -/
theorem State.land_waits (hbad : s.badHome p = false) (hwait : s.mustWait p = true) : s.land p = s := by
  unfold State.land State.landReady
  simp [hbad, hwait]

end

end Sys2Proof.Machine

/-! SUPPORT. The values of bank arithmetic (R174-R176, R181): an exact sum of two values rounded once is R119's sum. -/

namespace Sys2Proof.Machine

/-! ### Integers -/

/-- R181: the smaller or the greater by signed order. -/
theorem pickInt_signed {w : Nat} (hw : 0 < w) (isMin : Bool) (m y : Nat) : (BitVec.ofNat w (pickInt w true isMin m y)).toInt =
    if isMin then min (BitVec.ofNat w m).toInt (BitVec.ofNat w y).toInt else max (BitVec.ofNat w m).toInt (BitVec.ofNat w y).toInt := by
  unfold pickInt
  simp only [sInt_eq w _ hw]
  cases isMin <;> simp only [if_true, Bool.false_eq_true, if_false, decide_eq_true_eq] <;> split <;> omega

theorem pickInt_unsigned (w : Nat) (isMin : Bool) (m y : Nat) : pickInt w false isMin m y = if isMin then min m y else max m y := by
  unfold pickInt
  cases isMin <;> simp only [if_true, Bool.false_eq_true, if_false, decide_eq_true_eq] <;> split <;> omega

/-! ### Floating values -/

/-- A finite value is not zero unless it says so. -/
def FVal.Proper : FVal → Prop
  | .num _ n _ => 0 < n
  | _ => True

theorem FVal.scaled_proper (neg : Bool) (m : Nat) (e : Int) : (FVal.scaled neg m e).Proper := by
  unfold FVal.scaled
  split
  · trivial
  · rename_i hm
    split
    · exact Nat.mul_pos (Nat.pos_of_ne_zero hm) (Nat.pow_pos (by decide))
    · exact Nat.pos_of_ne_zero hm

theorem unpack_proper (f : FFmt) (ftz : Bool) (x : Nat) : (unpack f ftz x).Proper := by
  unfold unpack
  dsimp only
  split
  · split <;> trivial
  · split
    · split
      · trivial
      · exact FVal.scaled_proper ..
    · exact FVal.scaled_proper ..

theorem FVal.mul_proper {a b p : FVal} (ha : a.Proper) (hb : b.Proper) (h : a.mul b = some p) : p.Proper := by
  cases p with
  | num neg n d =>
    cases a <;> cases b <;> cases h
    exact Nat.mul_pos ha hb
  | nan _ | inf _ | zero _ => trivial

theorem sumVal_zero_num (rm : Rnd) (u v : Bool) {n : Nat} (d : Nat) (hn : 0 < n) : sumVal rm [.zero u, .num v n d] = some (.num v n d) := by
  cases v <;> simp [sumVal, sumFrac, FVal.frac, FVal.isNan, FVal.isInf, Nat.ne_of_gt hn, hn]

theorem sumVal_num_zero (rm : Rnd) (u v : Bool) {n : Nat} (d : Nat) (hn : 0 < n) : sumVal rm [.num u n d, .zero v] = some (.num u n d) := by
  cases u <;> simp [sumVal, sumFrac, FVal.frac, FVal.isNan, FVal.isInf, Nat.ne_of_gt hn, hn]

/-- R61, R63: the exact sum of two fractions; an exact zero is +0, and -0 under RDN. -/
theorem sumVal_num_num (rm : Rnd) (u v : Bool) (n d n' d' : Nat) : sumVal rm [.num u n d, .num v n' d'] =
    some (if (if u then -(n : Int) else n) * d' + (if v then -(n' : Int) else n') * d = 0 then .zero (rm = .rdn)
      else .num (decide ((if u then -(n : Int) else n) * d' + (if v then -(n' : Int) else n') * d < 0))
        ((if u then -(n : Int) else n) * d' + (if v then -(n' : Int) else n') * d).natAbs (d * d')) := by
  cases u <;> cases v <;> simp [sumVal, sumFrac, FVal.frac, FVal.isNan, FVal.isInf, FVal.isZero] <;> split <;> rfl

/-- The value that R119's sum rounds, with its code: none is ∞ - ∞. -/
theorem addRule_eq (f : FFmt) (r : Rounding) {a b : FVal} (ha : a.Proper) (hb : b.Proper) (fl : BitVec 6) :
    (roundOpt f r fl (sumVal r.rm [a, b])).1 = (addRule f r a b).1 := by
  cases a with
  | nan u => rfl
  | inf u =>
    cases b with
    | nan v => rfl
    | inf v => cases u <;> cases v <;> rfl
    | zero v => cases u <;> rfl
    | num v n d => cases u <;> rfl
  | zero u =>
    cases b with
    | nan v => rfl
    | inf v => cases v <;> rfl
    | zero v => cases u <;> cases v <;> rfl
    | num v n d => rw [sumVal_zero_num _ _ _ _ hb]; rfl
  | num u n d =>
    cases b with
    | nan v => rfl
    | inf v => cases v <;> rfl
    | zero v => rw [sumVal_num_zero _ _ _ _ ha]; rfl
    | num v n' d' =>
      rw [sumVal_num_num]
      unfold addRule roundOpt
      dsimp only
      generalize (if u then -(n : Int) else n) * d' + (if v then -(n' : Int) else n') * d = N
      by_cases hN : N = 0
      · simp only [hN, if_true]; rfl
      · simp only [hN, if_false]; rfl

theorem fpAdd_eq (f : FFmt) (r : Rounding) {a b : FVal} (ha : a.Proper) (hb : b.Proper) : (fpAdd f r a b).1 = (addRule f r a b).1 :=
  addRule_eq f r ha hb _

theorem fpFma_eq (f : FFmt) (r : Rounding) {a b c : FVal} (ha : a.Proper) (hb : b.Proper) (hc : c.Proper) :
    (fpFma f r a b c).1 = (fmaRule f r a b c).1 := by
  unfold fpFma fpDot fmaRule
  cases hp : a.mul b with
  | none => simp [hp]
  | some p =>
    simp only [List.map_cons, List.map_nil, hp, List.any_cons, List.any_nil, Option.isNone_some, Bool.or_self, Bool.false_eq_true, if_false]
    exact addRule_eq f r (FVal.mul_proper ha hb hp) hc _

/-- R174, R181: a bank's sum of two patterns. -/
theorem bankFp_add (f : FFmt) (m y : Nat) : bankFp f addOp [m, y] = (addRule f bankRounding (unpack f false m) (unpack f false y)).1 :=
  fpAdd_eq f bankRounding (unpack_proper ..) (unpack_proper ..)

/-- R175: a bank's scale and add of patterns. -/
theorem bankFp_fma (f : FFmt) (m a y : Nat) :
    bankFp f fmaOp [m, a, y] = (fmaRule f bankRounding (unpack f false m) (unpack f false a) (unpack f false y)).1 :=
  fpFma_eq f bankRounding (unpack_proper ..) (unpack_proper ..) (unpack_proper ..)

theorem bankHalves_add (m y : Nat) : bankHalves addOp [m, y] =
    (addRule .bf16 bankRounding (unpack .bf16 false (m % 2 ^ 16)) (unpack .bf16 false (y % 2 ^ 16))).1 +
      2 ^ 16 * (addRule .bf16 bankRounding (unpack .bf16 false (m / 2 ^ 16 % 2 ^ 16)) (unpack .bf16 false (y / 2 ^ 16 % 2 ^ 16))).1 :=
  congr (congrArg _ (bankFp_add ..)) (congrArg _ (bankFp_add ..))

theorem bankHalves_fma (m a y : Nat) : bankHalves fmaOp [m, a, y] =
    (fmaRule .bf16 bankRounding (unpack .bf16 false (m % 2 ^ 16)) (unpack .bf16 false (a % 2 ^ 16)) (unpack .bf16 false (y % 2 ^ 16))).1 +
      2 ^ 16 * (fmaRule .bf16 bankRounding (unpack .bf16 false (m / 2 ^ 16 % 2 ^ 16)) (unpack .bf16 false (a / 2 ^ 16 % 2 ^ 16))
        (unpack .bf16 false (y / 2 ^ 16 % 2 ^ 16))).1 :=
  congr (congrArg _ (bankFp_fma ..)) (congrArg _ (bankFp_fma ..))

end Sys2Proof.Machine

/-! SUPPORT. A read, modify and write at the home bank (R286, R290, R405), what it changes, and the result it gives. -/

namespace Sys2Proof.Machine

/-! ### Writing at home -/

/-- A change of what an access at its home may change: memory, a peer's memory as last seen, what goes out, and register writes to come. -/
def AtHome (s t : State) : Prop :=
  { t with mem := s.mem, slotOf := s.slotOf, poisoned := s.poisoned, l1 := s.l1, out := s.out, peerMem := s.peerMem, inbox := s.inbox } = s

theorem State.windowWrite_frame (s : State) (pa : Nat) (bs : List Byte) : { s.windowWrite pa bs with inbox := s.inbox } = s := by
  unfold State.windowWrite
  dsimp only
  split <;> rfl

theorem State.writeHome_atHome (s : State) (c : Loc) (bs : List Byte) : AtHome s (s.writeHome c bs) := by
  unfold State.writeHome
  split
  · rfl
  · split
    · have h := s.windowWrite_frame c.pa bs
      unfold AtHome
      generalize s.windowWrite c.pa bs = t at h ⊢
      rw [← h]
    · have h := (s.writePhys_frame c.key c.pa bs).1
      unfold AtHome
      generalize s.writePhys c.key c.pa bs = t at h ⊢
      rw [← h]

/-- A change of copies and of groups alone. -/
def Locally (s t : State) : Prop := { t with l1 := s.l1, teams := s.teams } = s

theorem State.install1_locally (s : State) (core : Nat) (c : Loc) : Locally s (s.install1 core c) := by
  unfold State.install1
  split <;> rfl

theorem Locally.writesHome {s t u : State} (h : Locally t u) {c : Loc} {bs : List Byte} (k : WritesHome s t c bs) : WritesHome s u c bs := by
  unfold Locally at h
  rw [← h] at k
  exact k

/-- R284, R376: bytes written at their home in this package. -/
theorem State.writesHome_writeHome (s : State) {c : Loc} (hc : c.peer = 0) (bs : List Byte) : WritesHome s (s.writeHome c bs) c bs := by
  have hw : s.writeHome c bs = if inWindow c.pa then s.windowWrite c.pa bs else s.writePhys c.key c.pa bs := by
    unfold State.writeHome
    simp [hc]
  have hmem := (s.writePhys_frame c.key c.pa bs).1
  have hwin := s.windowWrite_frame c.pa bs
  rw [hw]
  refine ⟨fun hn => absurd hc hn, fun _ => ?_, fun hw => ?_, fun _ hin hs => ?_⟩
  · split
    · have e := congrArg State.out hwin; exact e
    · have e := congrArg State.out hmem; exact e
  · rw [if_pos (hw.resolve_left (fun hn => hn hc))]
    have e1 := congrArg State.mem hwin
    have e2 := congrArg State.slotOf hwin
    have e3 := congrArg State.poisoned hwin
    exact ⟨e1, e2, e3⟩
  · rw [if_neg (by simp [hin])]
    refine ⟨fun j hj => ?_, fun slot a hout hline => ?_⟩
    · rw [State.byteAt_writePhys_same hs _ _ _ (by omega) (by omega), Nat.add_sub_cancel_left]
    · refine State.byteAt_writePhys_ne hs _ _ _ hout _ (hline.imp (fun h => ?_) id)
      unfold inLines
      omega


/-! ### A read, modify and write -/

theorem AtHome.trans {s t u : State} (h : AtHome s t) (k : AtHome t u) : AtHome s u := by
  unfold AtHome at *
  rw [← k] at h
  exact h

theorem State.install1_atHome (s : State) (core : Nat) (c : Loc) : AtHome s (s.install1 core c) := by
  unfold State.install1
  split <;> rfl

theorem State.bankRmw_own (s : State) {p : HomeOp} (hp : p.loc.peer = 0) (f : Nat → Nat) : s.bankRmw p f =
    ((s.writeHome p.loc (leBytes p.n (f (leNat (s.homeBytes p.loc p.n))))).install1 p.core p.loc, leNat (s.homeBytes p.loc p.n)) := by
  unfold State.bankRmw
  simp [hp]

/-- R290, R405: a peer's bank is asked to give a location a new value. -/
def State.askBank (s : State) (p : HomeOp) (new : Nat) : State :=
  ((s.peerTouch p.loc.peer p.loc.pa p.n).setPeer p.loc.peer p.loc.pa (leBytes p.n new)).sendPeer p.loc.peer p.loc.pa p.n p.fn.peer

theorem State.askBank_atHome (s : State) (p : HomeOp) (new : Nat) : AtHome s (s.askBank p new) := rfl

theorem State.bankRmw_peer (s : State) {p : HomeOp} (hp : p.loc.peer ≠ 0) (f : Nat → Nat) : s.bankRmw p f =
    ((s.askBank p (f (leNat ((s.peerTouch p.loc.peer p.loc.pa p.n).homeBytes p.loc p.n)))).install1 p.core p.loc,
      leNat ((s.peerTouch p.loc.peer p.loc.pa p.n).homeBytes p.loc p.n)) := by
  unfold State.bankRmw
  rw [if_pos (by simp [hp])]
  rfl

theorem State.bankRmw_atHome (s : State) (p : HomeOp) (f : Nat → Nat) : AtHome s (s.bankRmw p f).1 := by
  by_cases hp : p.loc.peer = 0
  · rw [s.bankRmw_own hp]
    exact (s.writeHome_atHome ..).trans (State.install1_atHome ..)
  · rw [s.bankRmw_peer hp]
    exact (s.askBank_atHome ..).trans (State.install1_atHome ..)

/-- R286, R290: what a bank's read, modify and write of an operation on its way leaves: its new value at home, or asked of the peer's bank. -/
structure BankWrote (s t : State) (p : HomeOp) (new : Nat) : Prop where
  lands : LandsAt s t p
  own   : p.loc.peer = 0 → WritesHome s t p.loc (leBytes p.n new)
  peer  : p.loc.peer ≠ 0 → t.mem = s.mem ∧ t.out = s.out ++ [.peerSend (s.peerRoute p.loc.peer p.loc.pa)
    ⟨field (s.hreg .peer 0) 4 0, field (s.hreg .peer (8 * p.loc.peer)) 20 16, 0, p.loc.pa, p.n, p.fn.peer⟩]

/-- The bytes that an operation finds at its home. -/
def State.found (s : State) (p : HomeOp) : Nat :=
  leNat ((if p.loc.peer = 0 then s else s.peerTouch p.loc.peer p.loc.pa p.n).homeBytes p.loc p.n)

theorem State.bankRmw_found (s : State) (p : HomeOp) (f : Nat → Nat) : ((s.landed p).bankRmw p f).2 = s.found p := by
  unfold State.found
  by_cases hp : p.loc.peer = 0
  · rw [State.bankRmw_own _ hp, if_pos hp]; rfl
  · rw [State.bankRmw_peer _ hp, if_neg hp]; rfl

theorem Locally.bankWrote {s t u : State} (h : Locally t u) {p : HomeOp} {new : Nat} (k : BankWrote s t p new) : BankWrote s u p new := by
  unfold Locally at h
  rw [← h] at k
  exact ⟨k.lands, k.own, k.peer⟩

theorem WritesHome.of_landed {s t : State} {p : HomeOp} {c : Loc} {bs : List Byte} (h : WritesHome (s.landed p) t c bs) : WritesHome s t c bs :=
  let ⟨hpeer, hout, hmem, hbytes⟩ := h
  ⟨hpeer, hout, hmem, fun hp hw hs => hbytes hp hw ⟨hs.mem, hs.hostMem, hs.slotOf, hs.poisoned⟩⟩

theorem AtHome.landsAt {s t : State} {p : HomeOp} (h : AtHome (s.landed p) t) : LandsAt s t p := by
  unfold AtHome at h
  have hops := congrArg State.homeOps h
  refine ⟨?_, hops⟩
  have e := congrArg (fun u : State => { u with homeOps := s.homeOps }) h
  have e' : { t with homeOps := s.homeOps, mem := s.mem, slotOf := s.slotOf, poisoned := s.poisoned, l1 := s.l1, out := s.out,
                     peerMem := s.peerMem, inbox := s.inbox } = s := e
  rw [← e']

theorem State.bankRmw_wrote (s : State) (p : HomeOp) (f : Nat → Nat) : BankWrote s ((s.landed p).bankRmw p f).1 p (f (s.found p)) := by
  refine ⟨((s.landed p).bankRmw_atHome p f).landsAt, fun hp => ?_, fun hp => ?_⟩
  · rw [State.bankRmw_own _ hp]
    unfold State.found
    rw [if_pos hp]
    exact ((State.install1_locally ..).writesHome ((s.landed p).writesHome_writeHome hp _)).of_landed
  · rw [State.bankRmw_peer _ hp]
    have hl := ((s.landed p).askBank p (f (leNat (((s.landed p).peerTouch p.loc.peer p.loc.pa p.n).homeBytes p.loc p.n)))).install1_locally p.core p.loc
    have hmem := congrArg State.mem hl
    have hout := congrArg State.out hl
    exact ⟨hmem, hout⟩

end Sys2Proof.Machine

/-! SUPPORT. What operations do at their home bank: atomics with their results, and queue operations (R179-R182). -/

namespace Sys2Proof.Machine

/-! ### Results -/

theorem Locally.trans {s t u : State} (h : Locally s t) (k : Locally t u) : Locally s u := by
  unfold Locally at *
  rw [← k] at h
  exact h

theorem State.acquire_locally (s : State) (core : Nat) : Locally s (s.acquire core) := rfl

theorem State.giveResult_locally (s : State) (p : HomeOp) (ws : List RegWrite) : Locally s (s.giveResult p ws) := by
  unfold State.giveResult
  split <;> rfl

/-- R169: an operation's result reaches its group, in a state with the teams it set out from. -/
theorem State.giveResult_gives {s u : State} (hu : u.teams = s.teams) (p : HomeOp) (ws : List RegWrite) :
    GivesResult s (u.giveResult p ws) p ws := by
  intro k y g hk hy hg
  have hy' : u.team? p.team = some y := by
    unfold State.team? at hy ⊢
    rw [hu]
    exact hy
  unfold State.giveResult
  rw [hk]
  refine ⟨_, _, (State.team?_modGroup ..).trans (by rw [hy', Option.map_some, if_pos (State.team?_id hy')]), ?_, rfl⟩
  rw [modNth_get, hg]
  rfl

/-! ### Performing -/

section
variable {s : State} {p : HomeOp}

/-- R286: neither a queue's state nor its entries hold back an operation that is not a queue's. -/
theorem State.mustWait_of_not_queue (hq : p.fn.isQueue = false) : s.mustWait p = false := by
  unfold State.mustWait
  split
  · rename_i hfn; rw [hfn] at hq; cases hq
  · rename_i hfn; rw [hfn] at hq; cases hq
  · rfl

/-- R436: an operation of a bank on its own bytes has to read them. -/
theorem State.badHome_of_bank (hreg : p.fn.registers = false) (hq : p.fn.isQueue = false) :
    s.badHome p = (p.loc.peer == 0 && s.poisonedAt p.loc.pa p.n) := by
  unfold State.badHome
  split <;> rename_i hfn
  · rw [hfn] at hreg; cases hreg
  · rw [hfn] at hreg; cases hreg
  · rw [hfn] at hq; cases hq
  · rw [hfn] at hq; cases hq
  · rfl

/-- R286: a bank operation whose bytes are good is performed. -/
theorem exec_bank {k : Nat} (hk : s.homeOp? k = some p) (hdue : p.due ≤ s.clock) (hm : s.mayLand p = true) (hrep : s.replicaOf p = none)
    (hlink : p.loc.peer ≠ 0 → s.peerOk p.loc.peer = true) (hgood : p.loc.peer = 0 → s.poisonedAt p.loc.pa p.n = false)
    (hreg : p.fn.registers = false) (hq : p.fn.isQueue = false) : exec (.homeBankOperation k) s = .next ((s.landed p).performHome p) := by
  rw [exec_homeBankOperation hk hdue hreg, State.land_performs hm hrep hlink _ (State.mustWait_of_not_queue hq)]
  rw [State.badHome_of_bank hreg hq]
  by_cases hp : p.loc.peer = 0
  · simp [hgood hp]
  · simp [hp]

/-- R182: what an atomic does at home. -/
theorem State.performHome_atom {op : AtomOp} {y y2 : Nat} {ret : Bool} {d : Nat} (hfn : p.fn = .atom op y y2 ret d) :
    let t := (s.landed p).performHome p
    BankWrote s t p (atomNew op p.n (s.found p) y y2) ∧
      (ret = true → GivesResult s t p ((match p.lane with | some l => [l] | none => laneList 64 p.lanes).flatMap (fun l =>
        if p.n = 8 then vPair d l (s.found p) else [⟨.v d l, zext (s.found p) 32⟩]))) := by
  have hw := s.bankRmw_wrote p (fun m => atomNew op p.n m y y2)
  have hf := s.bankRmw_found p (fun m => atomNew op p.n m y y2)
  have hteams := congrArg State.teams ((s.landed p).bankRmw_atHome p (fun m => atomNew op p.n m y y2))
  have hacq (r : State) : Locally r (if p.acq then r.acquire p.core else r) ∧ (if p.acq then r.acquire p.core else r).teams = r.teams := by
    split
    · exact ⟨r.acquire_locally _, rfl⟩
    · exact ⟨rfl, rfl⟩
  obtain ⟨hl, ht⟩ := hacq ((s.landed p).bankRmw p (fun m => atomNew op p.n m y y2)).1
  unfold State.performHome
  rw [hfn]
  dsimp only
  rw [hf]
  cases ret with
  | false => exact ⟨hl.bankWrote hw, fun h => by cases h⟩
  | true => exact ⟨(hl.trans (State.giveResult_locally ..)).bankWrote hw, fun _ => State.giveResult_gives (ht.trans hteams) p _⟩

/-! ### Queues -/

/-- R180: where a served operation of a .wait word leaves its fragment. -/
def State.servedIf (s : State) (wait : Bool) (p : HomeOp) : State := if wait then s.served p else s

section
variable {q : Queue} (hq : s.queueAt p.loc = some q)
include hq

theorem State.badHome_enq {y pred : Nat} {wait : Bool} (hfn : p.fn = .enq y wait pred) : s.badHome p = s.poisonedAt (q.place 0).1 64 := by
  unfold State.badHome
  simp [hfn, hq]

theorem State.badHome_deq {d : Opr} {pred : Nat} {wait : Bool} (hfn : p.fn = .deq d wait pred) : s.badHome p =
    (s.poisonedAt (q.place 0).1 64 || (s.queueCount q != 0 && s.poisonedAt (q.place (64 + 8 * (s.queueWord q 8 % q.cap))).1 8)) := by
  unfold State.badHome
  simp [hfn, hq]

theorem State.mustWait_enq {y pred : Nat} {wait : Bool} (hfn : p.fn = .enq y wait pred) : s.mustWait p = (wait && decide (q.cap ≤ s.queueCount q)) := by
  unfold State.mustWait
  simp [hfn, hq]

theorem State.mustWait_deq {d : Opr} {pred : Nat} {wait : Bool} (hfn : p.fn = .deq d wait pred) : s.mustWait p = (wait && s.queueCount q == 0) := by
  unfold State.mustWait
  simp [hfn, hq]

/-- R179: what an enqueue that reaches its queue does. -/
theorem State.performHome_enq {y pred : Nat} {wait : Bool} (hfn : p.fn = .enq y wait pred) :
    (s.landed p).performHome p = if s.queueCount q < q.cap then
      ((((s.landed p).setQueueWord q (64 + 8 * (s.queueWord q 0x10 % q.cap)) y).setQueueWord q 0x10 (s.queueWord q 0x10 + 1)).giveResult p
        (p.statusWrites pred true)).servedIf wait p
      else (s.landed p).giveResult p (p.statusWrites pred false) := by
  have hq' : (s.landed p).queueAt p.loc = some q := hq
  unfold State.performHome
  rw [hfn]
  simp only [hq']
  rfl

/-- R179: what a dequeue that reaches its queue does. -/
theorem State.performHome_deq {d : Opr} {pred : Nat} {wait : Bool} (hfn : p.fn = .deq d wait pred) :
    (s.landed p).performHome p =
      let v := s.queueWord q (64 + 8 * (s.queueWord q 8 % q.cap))
      if s.queueCount q = 0 then (s.landed p).giveResult p (loadWrites (if p.n = 4 then .b32 else .b64) d (p.lane.getD 0) 0 ++ p.statusWrites pred false)
      else ((((s.landed p).setQueueWord q 8 (s.queueWord q 8 + 1)).acquire p.core).giveResult p
        (loadWrites (if p.n = 4 then .b32 else .b64) d (p.lane.getD 0) (if p.n = 4 then v % 2 ^ 32 else v) ++ p.statusWrites pred true)).servedIf wait p := by
  have hq' : (s.landed p).queueAt p.loc = some q := hq
  unfold State.performHome
  rw [hfn]
  simp only [hq']
  rfl

end

theorem HomeFn.cases_of_isQueue {f : HomeFn} (h : f.isQueue = true) :
    (∃ y wait pred, f = .enq y wait pred) ∨ ∃ d wait pred, f = .deq d wait pred := by
  unfold HomeFn.isQueue at h
  split at h
  · exact .inl ⟨_, _, _, rfl⟩
  · exact .inr ⟨_, _, _, rfl⟩
  · cases h

theorem HomeFn.registers_of_isQueue {f : HomeFn} (h : f.isQueue = true) : f.registers = false := by
  obtain ⟨_, _, _, rfl⟩ | ⟨_, _, _, rfl⟩ := HomeFn.cases_of_isQueue h <;> rfl

/-- R177: a queue operation outside a live queue faults when it reaches its home. -/
theorem State.performHome_noQueue (hq : s.queueAt p.loc = none) (hfn : p.fn.isQueue = true) : (s.landed p).performHome p = (s.landed p).lost p 1 := by
  have hq' : (s.landed p).queueAt p.loc = none := hq
  unfold State.performHome
  obtain ⟨_, _, _, h⟩ | ⟨_, _, _, h⟩ := HomeFn.cases_of_isQueue hfn <;> simp only [h, hq'] <;> rfl

theorem State.badHome_noQueue (hq : s.queueAt p.loc = none) (hfn : p.fn.isQueue = true) : s.badHome p = false := by
  unfold State.badHome
  obtain ⟨_, _, _, h⟩ | ⟨_, _, _, h⟩ := HomeFn.cases_of_isQueue hfn <;> simp [h, hq]

theorem State.mustWait_noQueue (hq : s.queueAt p.loc = none) : s.mustWait p = false := by
  unfold State.mustWait
  rw [hq]

/-- R436: a queue operation reads the header of its queue. -/
theorem State.badHome_header {q : Queue} (hq : s.queueAt p.loc = some q) (hfn : p.fn.isQueue = true) (hbad : s.poisonedAt (q.place 0).1 64 = true) :
    s.badHome p = true := by
  obtain ⟨_, _, _, h⟩ | ⟨_, _, _, h⟩ := HomeFn.cases_of_isQueue hfn
  · rw [State.badHome_enq hq h, hbad]
  · rw [State.badHome_deq hq h, hbad, Bool.true_or]

theorem HomeFn.registers_eq_false {f : HomeFn} (hm : f ≠ .mark) (hs : ∀ bs, f ≠ .store bs) : f.registers = false := by
  unfold HomeFn.registers
  split
  · exact absurd rfl (hs _)
  · exact absurd rfl hm
  · rfl

end

end Sys2Proof.Machine

namespace Sys2Proof.Machine

/-- Settles O27: what stands in memory after a bank operation is `State.bankRmw_wrote`, a floating
bank value is R119's sum (`addRule_eq`); a queue operation is performed, stays or faults as its queue's room and poisoned lines say. -/
theorem homeUpdatesInPlace : Obligations.HomeUpdatesInPlace := by
  refine ⟨⟨?bank, ?integers, ?values⟩, ?queues⟩
  case bank =>
    intro s k p hk hdue hm hrep hlink hgood m at_
    have hrun (hreg : p.fn.registers = false) (hq : p.fn.isQueue = false) := exec_bank hk hdue hm hrep hlink hgood hreg hq
    refine ⟨fun op y hfn => ?_, fun op y a hfn => ?_, fun op y y2 ret d hfn => ?_⟩
    · have hw := s.bankRmw_wrote p (fun m => bredNew op p.n m y)
      have hperf : (s.landed p).performHome p = ((s.landed p).bankRmw p (fun m => bredNew op p.n m y)).1 := by unfold State.performHome; rw [hfn]
      exact ⟨_, (hrun (by rw [hfn]; rfl) (by rw [hfn]; rfl)).trans (congrArg _ hperf), hw.lands, hw.own, hw.peer⟩
    · have hw := s.bankRmw_wrote p (fun m => bupdNew op m y a)
      have hperf : (s.landed p).performHome p = ((s.landed p).bankRmw p (fun m => bupdNew op m y a)).1 := by unfold State.performHome; rw [hfn]
      exact ⟨_, (hrun (by rw [hfn]; rfl) (by rw [hfn]; rfl)).trans (congrArg _ hperf), hw.lands, hw.own, hw.peer⟩
    · obtain ⟨hw, hres⟩ := State.performHome_atom (s := s) hfn
      exact ⟨_, ⟨hrun (by rw [hfn]; rfl) (by rw [hfn]; rfl), hw.lands, hw.own, hw.peer⟩, hres⟩
  case integers =>
    intro n m y hn hm hy i
    have hw : 0 < 8 * n := by omega
    exact ⟨rfl, rfl, pickInt_signed hw true m y, pickInt_signed hw false m y, pickInt_unsigned _ true m y, pickInt_unsigned _ false m y,
      pickInt_signed hw true m y, pickInt_signed hw false m y, pickInt_unsigned _ true m y, pickInt_unsigned _ false m y⟩
  case values =>
    intro n m y y2 r v lo hi
    exact ⟨rfl, rfl, rfl, rfl, rfl, bankFp_add .f32 m y, bankFp_add .f32 m y, bankHalves_add m y, bankFp_fma .f32 m y2 y, bankHalves_fma m y2 y, rfl⟩
  case queues =>
    intro s k p hk hdue hm hrep hpeer s0 after
    have hlink : p.loc.peer ≠ 0 → s.peerOk p.loc.peer = true := fun hn => absurd hpeer hn
    have hrun (hreg : p.fn.registers = false) := exec_homeBankOperation hk hdue hreg
    refine ⟨fun q hq hgood y wait pred hfn => ?enq, fun q hq hgood hentry d wait pred hfn => ?deq, fun hq hfn => ?outside, fun hmark hstore hq hbad => ?poisoned,
      fun q hq hfn hbad => ?header⟩
    case enq =>
      have hreg : p.fn.registers = false := by rw [hfn]; rfl
      have hbad : s.badHome p = false := (State.badHome_enq hq hfn).trans hgood
      rw [hrun hreg]
      refine ⟨fun hroom => ?_, fun hfull => ?_⟩
      · have hwait : s.mustWait p = false := by rw [State.mustWait_enq hq hfn]; simp [hroom]
        rw [State.land_performs hm hrep hlink hbad hwait, State.performHome_enq hq hfn, if_pos hroom]
        rfl
      · cases wait with
        | true => rw [State.land_waits hbad (by rw [State.mustWait_enq hq hfn]; simp [hfull])]; rfl
        | false =>
          rw [State.land_performs hm hrep hlink hbad (by rw [State.mustWait_enq hq hfn]; rfl), State.performHome_enq hq hfn, if_neg (by omega)]
          rfl
    case deq =>
      have hreg : p.fn.registers = false := by rw [hfn]; rfl
      have hbad : s.badHome p = false := by rw [State.badHome_deq hq hfn, hgood, hentry]; simp
      rw [hrun hreg]
      refine ⟨fun hsome => ?_, fun hnone => ?_⟩
      · have hwait : s.mustWait p = false := by rw [State.mustWait_deq hq hfn]; simp [hsome]
        rw [State.land_performs hm hrep hlink hbad hwait, State.performHome_deq hq hfn]
        exact congrArg _ (if_neg hsome)
      · cases wait with
        | true => rw [State.land_waits hbad (by rw [State.mustWait_deq hq hfn]; simp [hnone])]; rfl
        | false =>
          rw [State.land_performs hm hrep hlink hbad (by rw [State.mustWait_deq hq hfn]; rfl), State.performHome_deq hq hfn]
          exact congrArg _ (if_pos hnone)
    case outside =>
      rw [hrun (HomeFn.registers_of_isQueue hfn), State.land_performs hm hrep hlink (State.badHome_noQueue hq hfn) (State.mustWait_noQueue hq),
        State.performHome_noQueue hq hfn]
    case poisoned =>
      have hreg := HomeFn.registers_eq_false hmark hstore
      have hbad' : s.badHome p = true := by rw [State.badHome_of_bank hreg hq, hbad]; simp [hpeer]
      rw [hrun hreg, State.land_poisoned hm hrep hpeer hbad']
    case header =>
      rw [hrun (HomeFn.registers_of_isQueue hfn), State.land_poisoned hm hrep hpeer (State.badHome_header hq hfn hbad)]

end Sys2Proof.Machine

/-! SUPPORT. Lane memory, scratchpad, prefetch and fences (R168, R171-R173, R184). -/

namespace Sys2Proof.Machine

/-! ### Alignment before range (R168) -/

/-- The checks of a word whose space has a range: the first misaligned participant traps ALIGN, and if there is none the first outside. -/
def checkedAct (ps : List (Nat × Word)) (n : Nat) (out : Nat × Word → Bool) (act : Act) : Act :=
  match ps.find? (fun p => !aligned p.2.toNat n), ps.find? out with
  | some p, _ => .trap { code := cALIGN, tval := p.2 }
  | none, some p => rangeTrap p.2
  | none, none => act

section
variable {ps : List (Nat × Word)} {n : Nat} {out : Nat × Word → Bool} {act : Act}

theorem find?_misaligned (h : ∀ p ∈ ps, p.2.toNat % n = 0) : ps.find? (fun p => !aligned p.2.toNat n) = none :=
  List.find?_eq_none.mpr (fun p hp => by simp [aligned, h p hp])

theorem checkedAct_go (hal : ∀ p ∈ ps, p.2.toNat % n = 0) (hin : ∀ p ∈ ps, out p = false) : checkedAct ps n out act = act := by
  unfold checkedAct
  rw [find?_misaligned hal, List.find?_eq_none.mpr (fun p hp => by simp [hin p hp])]

theorem checkedAct_misaligned {p : Nat × Word} (hp : p ∈ ps) (hn : p.2.toNat % n ≠ 0) :
    ∃ q ∈ ps, q.2.toNat % n ≠ 0 ∧ checkedAct ps n out act = .trap { code := cALIGN, tval := q.2 } := by
  have hs : (ps.find? (fun p => !aligned p.2.toNat n)).isSome := List.find?_isSome.mpr ⟨p, hp, by simpa [aligned] using hn⟩
  obtain ⟨q, hq⟩ := Option.isSome_iff_exists.mp hs
  refine ⟨q, List.mem_of_find?_eq_some hq, by simpa [aligned] using List.find?_some hq, ?_⟩
  unfold checkedAct
  rw [hq]

theorem checkedAct_outside (hal : ∀ p ∈ ps, p.2.toNat % n = 0) {p : Nat × Word} (hp : p ∈ ps) (hout : out p = true) :
    ∃ q ∈ ps, out q = true ∧ checkedAct ps n out act = .trap { code := cMEMF, sub := 1, tval := q.2 } := by
  obtain ⟨q, hq⟩ := Option.isSome_iff_exists.mp (List.find?_isSome.mpr ⟨p, hp, hout⟩)
  refine ⟨q, List.mem_of_find?_eq_some hq, List.find?_some hq, ?_⟩
  unfold checkedAct
  rw [find?_misaligned hal, hq]
  rfl

end

/-! ### Lane memory (R172) -/

section
variable {i : Instr} {s : State} {x : Issue} {d : Opr} {m : Mem} {sz : Sz} {ofs : BitVec 9} {h : Hdr}

/-- The participants of a word of lane memory. -/
def Issue.lanePs (x : Issue) (d : Opr) (m : Mem) (sz : Sz) (ofs : BitVec 9) : List (Nat × Word) :=
  x.parts (actsOnce m d) (x.addr m ofs.toInt sz.bytes)

theorem exec_ldl (hi : Issues (.ldl h d m sz ofs) s x) : exec (.ldl h d m sz ofs) s =
    .next ((checkedAct (x.lanePs d m sz ofs) sz.bytes (fun p => decide (x.la.r.lmemBytes ≤ p.2.toNat)) (.done (x.variable x.s (pendRegs x.lanes (d.ref sz.regs))
      ((x.lanePs d m sz ofs).flatMap (fun p => loadWrites sz d p.1 (leNat (x.grp.lmemBytes p.1 p.2.toNat sz.bytes)))) 0 0 (x.s.clock + 5) false))).after s) :=
  word_of_issues hi _

theorem exec_stl (hi : Issues (.stl h d m sz ofs) s x) : exec (.stl h d m sz ofs) s =
    .next ((checkedAct (x.lanePs d m sz ofs) sz.bytes (fun p => decide (x.la.r.lmemBytes ≤ p.2.toNat)) (.done (x.modG x.s (fun g =>
      (x.lanePs d m sz ofs).foldl (fun g p => g.setLmem p.1 p.2.toNat (leBytes sz.bytes (x.datum d sz.bytes p.1))) g)))).after s) :=
  word_of_issues hi _

/-- R168: what a word whose checks are `checkedAct` traps with. -/
theorem traps_of_checked {ps : List (Nat × Word)} {n : Nat} {out : Nat × Word → Bool} {act : Act} (he : exec i s = .next ((checkedAct ps n out act).after s)) :
    (∀ p ∈ ps, p.2.toNat % n ≠ 0 → ∃ q ∈ ps, q.2.toNat % n ≠ 0 ∧ Traps i s { code := cALIGN, tval := q.2 }) ∧
    ((∀ p ∈ ps, p.2.toNat % n = 0) → ∀ p ∈ ps, out p = true → ∃ q ∈ ps, out q = true ∧ Traps i s { code := cMEMF, sub := 1, tval := q.2 }) := by
  refine ⟨fun p hp hn => ?_, fun hal p hp hout => ?_⟩
  · obtain ⟨q, hq, hqn, hc⟩ := checkedAct_misaligned (out := out) (act := act) hp hn
    exact ⟨q, hq, hqn, by rw [hc] at he; exact he⟩
  · obtain ⟨q, hq, hqo, hc⟩ := checkedAct_outside (act := act) hal hp hout
    exact ⟨q, hq, hqo, by rw [hc] at he; exact he⟩

end

/-! ### Scratchpad (R173, R413) -/

section
variable {i : Instr} {s : State} {x : Issue} {d : Opr} {m : Mem} {sz : Sz} {win : Window} {ofs : BitVec 7} {h : Hdr}

/-- The participants of a scratchpad word. -/
def Issue.scratchPs (x : Issue) (d : Opr) (m : Mem) (sz : Sz) (ofs : BitVec 7) : List (Nat × Word) :=
  x.parts (actsOnce m d) (x.addr m ofs.toInt sz.bytes)

/-- The participant of a lane is the one at the address the lane computes. -/
theorem Issue.parts_find? {once : Bool} {f : Nat → Word} {p : Nat × Word} (hp : p ∈ x.parts once f) :
    (x.parts once f).find? (fun q => q.1 == p.1) = some p := by
  have hs : ((x.parts once f).find? (fun q => q.1 == p.1)).isSome := List.find?_isSome.mpr ⟨p, hp, beq_self_eq_true _⟩
  obtain ⟨q, hq⟩ := Option.isSome_iff_exists.mp hs
  have hl : q.1 = p.1 := by simpa using List.find?_some hq
  obtain ⟨k, -, rfl⟩ := List.mem_map.mp (List.mem_of_find?_eq_some hq)
  obtain ⟨l, -, rfl⟩ := List.mem_map.mp hp
  rw [hq, show k = l from hl]

/-- R413: no watchpoint fires where none fires at the place each participant names. -/
theorem Issue.scratchAccess_go {once : Bool} {f : Nat → Word} {w : Window} {rd : Bool} {n : Nat} {act : Act}
    (hps : ∀ p ∈ x.parts once f, p.2.toNat % n = 0 ∧ x.inWindow w n p.2 = true ∧ ∀ y off c, x.window w p.2 = some (y, off, c) →
      x.s.watched x.la x.sel 1 y.span y.idx off n rd (!rd) = none) : x.scratchAccess w rd n (x.parts once f) act = act := by
  refine (checkedAct_go (out := fun p => !x.inWindow w n p.2) (fun p hp => (hps p hp).1) (fun p hp => by simp [(hps p hp).2.1])).trans ?_
  have hwatch (place : Nat → Nat × Nat × Nat) (hplace : ∀ p ∈ x.parts once f, ∀ y off c, x.window w p.2 = some (y, off, c) → place p.1 = (y.span, y.idx, off)) :
      x.watchHit 1 place n (x.parts once f) rd (!rd) = none := by
    refine List.findSome?_eq_none_iff.mpr (fun p hp => ?_)
    obtain ⟨-, hin, hw⟩ := hps p hp
    obtain ⟨⟨y, off, c⟩, hyw⟩ : ∃ r, x.window w p.2 = some r := by
      unfold Issue.inWindow at hin
      split at hin
      · exact ⟨_, ‹_›⟩
      · cases hin
    dsimp only
    rw [hplace p hp y off c hyw, hw y off c hyw]
    rfl
  dsimp only
  rw [hwatch _ (fun p hp y off c hy => by rw [x.parts_find? hp]; simp [hy])]

/-- R173: the cycles that the slowest participant of an lds takes. -/
def Issue.scratchDue (x : Issue) (win : Window) (ps : List (Nat × Word)) : Nat :=
  x.s.clock + (ps.filterMap (fun p => (x.window win p.2).map (fun r => (p.1, r)))).foldl (fun m r => max m r.2.2.2) 0

/-- R173: an lds whose participants pass. -/
def Issue.scratchLoad (x : Issue) (d : Opr) (sz : Sz) (win : Window) (ps : List (Nat × Word)) : Act :=
  .done (x.variable x.s (pendRegs x.lanes (d.ref sz.regs)) ((ps.filterMap (fun p => (x.window win p.2).map (fun r => (p.1, r)))).flatMap
    (fun r => loadWrites sz d r.1 (leNat (r.2.1.scratchBytes r.2.2.1 sz.bytes)))) 0 0 (x.scratchDue win ps) false)

theorem flatMap_filterMap_map {α β γ δ : Type} (f : α → Option β) (k : α → γ) (g : γ × β → List δ) (xs : List α) :
    (xs.filterMap (fun p => (f p).map (fun r => (k p, r)))).flatMap g = xs.flatMap (fun p => match f p with | some r => g (k p, r) | none => []) := by
  induction xs with
  | nil => rfl
  | cons p xs ih =>
    rw [List.filterMap_cons, List.flatMap_cons, ← ih]
    cases hp : f p <;> rfl

theorem Issue.scratchLoads_eq (x : Issue) (d : Opr) (sz : Sz) (win : Window) (ps : List (Nat × Word)) :
    (ps.filterMap (fun p => (x.window win p.2).map (fun r => (p.1, r)))).flatMap
      (fun r => loadWrites sz d r.1 (leNat (r.2.1.scratchBytes r.2.2.1 sz.bytes))) =
    ps.flatMap (fun p => match x.window win p.2 with
      | some (t, off, _) => loadWrites sz d p.1 (leNat (t.scratchBytes off sz.bytes))
      | none => []) := by
  rw [flatMap_filterMap_map]
  refine congrArg (fun f => ps.flatMap f) (funext fun p => ?_)
  cases x.window win p.2 <;> rfl

theorem exec_lds (hi : Issues (.lds h d m sz win ofs) s x) (ha : x.acquiring = false) : exec (.lds h d m sz win ofs) s =
    .next ((x.scratchAccess win true sz.bytes (x.scratchPs d m sz ofs) (x.scratchLoad d sz win (x.scratchPs d m sz ofs))).after s) :=
  (word_of_issues hi _).trans (congrArg (fun r : Act => Host.Outcome.next (r.after s)) (if_neg (by simp [ha])))

/-- R173: what an sts leaves: the bytes of each participant in the scratchpad its address names. -/
def Issue.scratchStore (x : Issue) (d : Opr) (n : Nat) (win : Window) (ps : List (Nat × Word)) : State :=
  ps.foldl (fun s p => match x.window win p.2 with
    | some (t, off, _) => s.modTeam t.id (fun t => t.setScratch off (leBytes n (x.datum d n p.1)))
    | none => s) x.s

theorem exec_sts (hi : Issues (.sts h d m sz win ofs) s x) (ha : x.acquiring = false) (hb : x.busy (fun q => q.pend.isSome || q.fn.isMark) = false) :
    exec (.sts h d m sz win ofs) s =
      .next ((x.scratchAccess win false sz.bytes (x.scratchPs d m sz ofs) (.done (x.scratchStore d sz.bytes win (x.scratchPs d m sz ofs)))).after s) :=
  (word_of_issues hi _).trans (congrArg (fun r : Act => Host.Outcome.next (r.after s)) (if_neg (by simp [ha, hb])))

/-- A scratchpad word changes no state but its teams'. -/
theorem Issue.scratchStore_frame (x : Issue) (d : Opr) (n : Nat) (win : Window) (ps : List (Nat × Word)) :
    { x.scratchStore d n win ps with teams := x.s.teams } = x.s := by
  refine foldl_keeps (P := fun t : State => { t with teams := x.s.teams } = x.s) _ (fun t p ht => ?_) ps rfl
  split
  · exact ht
  · exact ht

/-- R168: what a scratchpad word whose participants do not pass traps with. -/
theorem traps_of_scratch {w : Window} {rd : Bool} {n : Nat} {ps : List (Nat × Word)} {act : Act}
    (he : exec i s = .next ((x.scratchAccess w rd n ps act).after s)) :
    (∀ p ∈ ps, p.2.toNat % n ≠ 0 → ∃ q ∈ ps, q.2.toNat % n ≠ 0 ∧ Traps i s { code := cALIGN, tval := q.2 }) ∧
    ((∀ p ∈ ps, p.2.toNat % n = 0) → ∀ p ∈ ps, (!x.inWindow w n p.2) = true →
      ∃ q ∈ ps, (!x.inWindow w n q.2) = true ∧ Traps i s { code := cMEMF, sub := 1, tval := q.2 }) :=
  traps_of_checked (out := fun p => !x.inWindow w n p.2) he

end

/-! ### Prefetch and fences (R171, R184) -/

/-- What translation may change, and what goes out to peers. -/
def WalkedOut (s t : State) : Prop := Walked s { t with out := s.out }

theorem WalkedOut.trans {s t u : State} (h : WalkedOut s t) (k : WalkedOut t u) : WalkedOut s u := by
  unfold WalkedOut Walked at *
  rw [← k] at h
  exact h

theorem Walked.out {s t : State} (h : Walked s t) : WalkedOut s t := by
  have e := congrArg (fun u : State => { u with out := s.out }) h
  exact e

theorem State.askHome_walkedOut (s : State) (c : Loc) (n : Nat) : WalkedOut s (s.askHome c n) := by
  unfold State.askHome
  split <;> rfl

theorem State.install1_walked (s : State) (core : Nat) (c : Loc) : Walked s (s.install1 core c) := by
  unfold State.install1
  split <;> rfl

/-- R171: what a prefetch does for one participant. -/
def Issue.prefetch (x : Issue) (n : Nat) (s : State) (p : Nat × Word) : State :=
  match s.reach1 x.space .read true false n p.2 with
  | (s', .ok (c, _)) => if c.mt = 2 then s else if (s'.l1Line? x.coreIx c.asid c.va).isSome then s' else (s'.askHome c n).install1 x.coreIx c
  | (_, .error _) => s

theorem Issue.prefetch_walkedOut (x : Issue) (n : Nat) (s : State) (p : Nat × Word) : WalkedOut s (x.prefetch n s p) := by
  have hr := (s.reach1_walked x.space_core .read true false n p.2).1
  unfold Issue.prefetch
  split
  next t c _ he =>
    rw [he] at hr
    split
    · rfl
    · split
      · exact hr.out
      · exact hr.out.trans ((t.askHome_walkedOut c n).trans (State.install1_walked ..).out)
  next => rfl

end Sys2Proof.Machine

namespace Sys2Proof.Machine

/-- Settles O29: lane memory and scratchpad words are `checkedAct`s, whose participants pass or trap by alignment before range; a prefetch keeps
`WalkedOut` at each participant. -/
theorem laneMemoryScratchpadAndFences : Obligations.LaneMemoryScratchpadAndFences := by
  intro s x
  refine ⟨?ldl, ?stl, ?lds, ?sts, ?pf, ?fence, ?laneTraps, ?scratchTraps⟩
  case ldl =>
    intro h d m sz ofs hi ps hps
    refine ⟨x.s.clock + 5, (exec_ldl hi).trans ?_⟩
    exact congrArg (fun r : Act => Host.Outcome.next (r.after s)) (checkedAct_go (ps := x.lanePs d m sz ofs) (fun p hp => (hps p hp).1)
      (fun p hp => decide_eq_false (Nat.not_le.mpr (hps p hp).2)))
  case stl =>
    intro h d m sz ofs hi ps hps
    refine ⟨(exec_stl hi).trans ?_, hi.within.modG _⟩
    exact congrArg (fun r : Act => Host.Outcome.next (r.after s)) (checkedAct_go (ps := x.lanePs d m sz ofs) (fun p hp => (hps p hp).1)
      (fun p hp => decide_eq_false (Nat.not_le.mpr (hps p hp).2)))
  case lds =>
    intro h d m sz win ofs hi ha ps hps
    refine ⟨x.scratchDue win (x.scratchPs d m sz ofs), ((exec_lds hi ha).trans (congrArg (fun r : Act => Host.Outcome.next (r.after s))
      (Issue.scratchAccess_go hps))).trans ?_⟩
    unfold Issue.scratchLoad
    rw [x.scratchLoads_eq]
    rfl
  case sts =>
    intro h d m sz win ofs hi ha hb ps hps
    refine ⟨(exec_sts hi ha hb).trans ?_, x.scratchStore_frame d sz.bytes win ps⟩
    exact congrArg (fun r : Act => Host.Outcome.next (r.after s)) (Issue.scratchAccess_go hps)
  case pf =>
    intro h m sz ofs hi
    refine ⟨_, word_done hi rfl, ?_⟩
    exact foldl_keeps (P := WalkedOut x.s) (x.prefetch sz.bytes) (fun t p ht => ht.trans (x.prefetch_walkedOut sz.bytes t p)) _ rfl
  case fence =>
    intro h kind hi ha hfull hacq hrel
    cases kind with
    | full =>
      have hb : x.releaseBusy = false := hfull rfl
      refine ⟨_, word_done hi ((if_neg (by simp [ha])).trans (if_neg (by simp [hb]))), fun _ => rfl, fun hk => ?_, fun hk => ?_⟩ <;> cases hk
    | acq =>
      have hb := hacq rfl
      refine ⟨_, word_done hi ((if_neg (by simp [ha])).trans (if_neg (by simp [hb]))), fun _ => rfl, fun hk => ?_, fun hk => ?_⟩ <;> cases hk
    | rel =>
      have he : x.engineOps = false := hrel rfl
      cases hb : x.busy (fun _ => true) with
      | false =>
        exact ⟨_, word_done hi ((if_neg (by simp [ha])).trans ((if_neg (by simp [he])).trans (if_neg (by simp [hb])))), fun hk => absurd rfl hk,
          fun _ _ => rfl, fun _ h => by cases h⟩
      | true =>
        exact ⟨_, word_done hi ((if_neg (by simp [ha])).trans ((if_neg (by simp [he])).trans (if_pos hb))), fun hk => absurd rfl hk,
          (fun _ h => by cases h),
          fun _ _ => ⟨x.homeOp true 0 ⟨x.space.asid, 0, 0, 0, 0, 0, 0⟩ 0 .mark true false none (x.s.clock + 1), rfl, rfl, rfl, rfl⟩⟩
  case laneTraps =>
    intro h d m sz ofs i hcase hi ps
    obtain ⟨act, he⟩ : ∃ act, exec i s = .next ((checkedAct ps sz.bytes (fun p => decide (x.la.r.lmemBytes ≤ p.2.toNat)) act).after s) := by
      rcases hcase with rfl | rfl
      · exact ⟨_, exec_ldl hi⟩
      · exact ⟨_, exec_stl hi⟩
    have key := traps_of_checked he
    simp only [decide_eq_true_eq] at key
    exact key
  case scratchTraps =>
    intro h d m sz win ofs i hcase hi ha ps
    obtain ⟨rd, act, he⟩ : ∃ rd act, exec i s = .next ((x.scratchAccess win rd sz.bytes ps act).after s) := by
      rcases hcase with rfl | ⟨rfl, hb⟩
      · exact ⟨true, _, exec_lds hi ha⟩
      · exact ⟨false, _, exec_sts hi ha hb⟩
    have key := traps_of_scratch he
    simp only [Bool.not_eq_true'] at key
    exact key

end Sys2Proof.Machine

/-! SUPPORT. The bytes of a location as part of its line (R283): reading a line and cutting it is reading the location. -/

namespace Sys2Proof.Machine

/-! ### Parts of a slice -/

section
variable {α : Type} (d : α)

theorem Cells.slice_cons (k : Nat) (v : α) (rest : Cells α) (lo n : Nat) : Cells.slice d ((k, v) :: rest) lo n =
    if k < lo then Cells.slice d rest lo n else if lo + n ≤ k then List.replicate n d
    else List.replicate (k - lo) d ++ v :: Cells.slice d rest (k + 1) (n - (k - lo) - 1) := rfl

theorem Cells.length_slice (m : Cells α) : ∀ lo n, (Cells.slice d m lo n).length = n := by
  induction m with
  | nil => exact fun _ _ => List.length_replicate
  | cons e rest ih =>
    intro lo n
    obtain ⟨k, v⟩ := e
    rw [Cells.slice_cons]
    split
    · exact ih lo n
    · split
      · exact List.length_replicate
      · simp only [List.length_append, List.length_replicate, List.length_cons, ih]
        omega

theorem Cells.take_slice (m : Cells α) : ∀ {lo n N : Nat}, n ≤ N → (Cells.slice d m lo N).take n = Cells.slice d m lo n := by
  induction m with
  | nil => exact fun h => by simp [Cells.slice, Nat.min_eq_left h]
  | cons e rest ih =>
    intro lo n N h
    obtain ⟨k, v⟩ := e
    rw [Cells.slice_cons, Cells.slice_cons]
    by_cases h1 : k < lo
    · rw [if_pos h1, if_pos h1, ih h]
    · rw [if_neg h1, if_neg h1]
      by_cases h2 : lo + N ≤ k
      · rw [if_pos h2, if_pos (by omega), List.take_replicate, Nat.min_eq_left h]
      · rw [if_neg h2]
        by_cases h3 : lo + n ≤ k
        · rw [if_pos h3, List.take_append_of_le_length (by rw [List.length_replicate]; omega), List.take_replicate, Nat.min_eq_left (by omega)]
        · obtain ⟨j, hj⟩ : ∃ j, n = (k - lo) + (j + 1) := ⟨n - (k - lo) - 1, by omega⟩
          rw [if_neg h3, hj, List.take_append, List.length_replicate, List.take_of_length_le (by rw [List.length_replicate]; omega),
            Nat.add_sub_cancel_left, List.take_succ_cons, ih (by omega)]
          congr 3

theorem Cells.drop_slice (m : Cells α) : ∀ {lo j N : Nat}, j ≤ N → (Cells.slice d m lo N).drop j = Cells.slice d m (lo + j) (N - j) := by
  induction m with
  | nil => exact fun _ => by simp [Cells.slice]
  | cons e rest ih =>
    intro lo j N h
    obtain ⟨k, v⟩ := e
    rw [Cells.slice_cons, Cells.slice_cons]
    by_cases h1 : k < lo
    · rw [if_pos h1, if_pos (by omega), ih h]
    · rw [if_neg h1]
      by_cases h2 : lo + N ≤ k
      · rw [if_pos h2, if_neg (by omega), if_pos (by omega), List.drop_replicate]
      · rw [if_neg h2]
        by_cases h3 : k < lo + j
        · obtain ⟨i, hi⟩ : ∃ i, j = (k - lo) + (i + 1) := ⟨j - (k - lo) - 1, by omega⟩
          rw [if_pos h3, hi, List.drop_append, List.length_replicate, List.drop_of_length_le (by rw [List.length_replicate]; omega),
            Nat.add_sub_cancel_left, List.drop_succ_cons, List.nil_append, ih (by omega)]
          congr 1 <;> omega
        · rw [if_neg h3, if_neg (by omega), List.drop_append_of_le_length (by rw [List.length_replicate]; omega), List.drop_replicate]
          congr 2
          · omega
          · congr 1; omega

/-- Values cut out of a slice are a slice. -/
theorem Cells.part_slice (m : Cells α) (lo : Nat) {j n N : Nat} (h : j + n ≤ N) : ((Cells.slice d m lo N).drop j).take n = Cells.slice d m (lo + j) n := by
  rw [Cells.drop_slice d m (by omega), Cells.take_slice d m (by omega)]

end

/-! ### Parts of a read -/

theorem State.length_readPhys (s : State) (slot pa n : Nat) : (s.readPhys slot pa n).length = n := by
  unfold State.readPhys
  rw [List.length_map, List.length_zipIdx, Cells.length_slice]

theorem State.getElem_readPhys (s : State) (slot pa n k : Nat) (h : k < (s.readPhys slot pa n).length) : (s.readPhys slot pa n)[k] =
    if s.lineSlot ((pa + k) / 64) = slot then (Cells.slice Memory.unlisted s.mem pa n)[k]'(by
      rw [Cells.length_slice]; rwa [State.length_readPhys] at h)
    else s.byteAt slot (pa + k) := by
  simp [State.readPhys]

/-- Bytes cut out of a read are a read. -/
theorem State.part_readPhys (s : State) (slot pa : Nat) {j n N : Nat} (h : j + n ≤ N) :
    ((s.readPhys slot pa N).drop j).take n = s.readPhys slot (pa + j) n := by
  have hslice := Cells.part_slice Memory.unlisted s.mem pa h
  refine List.ext_getElem (by simp only [List.length_take, List.length_drop, State.length_readPhys]; omega) (fun k h1 h2 => ?_)
  rw [State.length_readPhys] at h2
  have hk : (Cells.slice Memory.unlisted s.mem pa N)[j + k]'(by rw [Cells.length_slice]; omega) =
      (Cells.slice Memory.unlisted s.mem (pa + j) n)[k]'(by rw [Cells.length_slice]; exact h2) := by
    simp only [← hslice, List.getElem_take, List.getElem_drop]
  rw [List.getElem_take, List.getElem_drop, State.getElem_readPhys, State.getElem_readPhys, hk, Nat.add_assoc]

theorem part_range {α : Type} (f : Nat → α) {j n N : Nat} (h : j + n ≤ N) : (((List.range N).map f).drop j).take n = (List.range n).map (fun k => f (j + k)) := by
  refine List.ext_getElem (by simp only [List.length_take, List.length_drop, List.length_map, List.length_range]; omega) (fun k h1 h2 => ?_)
  simp only [List.getElem_take, List.getElem_drop, List.getElem_map, List.getElem_range]

/-- R343: the register windows are whole lines. -/
theorem inWindow_line (pa : Nat) : inWindow (pa / 64 * 64) = inWindow pa := by
  unfold inWindow
  have h1 : (0xFF0000000000 ≤ pa / 64 * 64) = (0xFF0000000000 ≤ pa) := by apply propext; omega
  have h2 : (pa / 64 * 64 < 2 ^ 48) = (pa < 2 ^ 48) := by apply propext; omega
  simp only [h1, h2]

/-- The line of a location in memory. -/
def Loc.line (c : Loc) : Loc := { c with pa := c.pa / 64 * 64 }

/-- R283: the bytes of a location are those of its line, from its place in it on. -/
theorem State.part_homeBytes (s : State) (c : Loc) {n : Nat} (hw : inWindow c.pa = false) (hn : c.pa % 64 + n ≤ 64) :
    ((s.homeBytes c.line 64).drop (c.pa % 64)).take n = s.homeBytes c n := by
  have hpa : c.pa / 64 * 64 + c.pa % 64 = c.pa := by omega
  unfold State.homeBytes Loc.line
  dsimp only
  rw [inWindow_line, hw]
  split
  · rw [part_range _ hn]
    refine List.map_congr_left (fun k _ => ?_)
    rw [← Nat.add_assoc, hpa]
  · rw [if_neg (by decide), if_neg (by decide), State.part_readPhys _ _ _ hn, hpa]

end Sys2Proof.Machine

/-! SUPPORT. The accesses of a load (R170, R278-R284): what each gives, and what they leave of the core's copies. -/

namespace Sys2Proof.Machine

/-! ### The state between two accesses of a load -/

/-- A copy of the line of a participant, as it stood at its home. -/
def FreshLine (s1 : State) (ok : List (Nat × Loc × Tr)) (c : L1Line) : Prop :=
  ∃ q ∈ ok, q.2.1.mt = 0 ∧ c.asid = q.2.1.asid ∧ c.va = q.2.1.va / 64 * 64 ∧ c.bytes = s1.homeBytes q.2.1.line 64

/-- What the accesses of a load leave of the state in which its participants have passed: only copies, counters and what goes out have changed,
and the core's copies are those it had or fresh ones; an acquire has none. -/
structure Loading (core : Nat) (s1 : State) (ok : List (Nat × Loc × Tr)) (plain : Bool) (u : State) : Prop where
  frame : { u with l1 := s1.l1, out := s1.out, dbg := s1.dbg } = s1
  lines : ∀ c ∈ u.l1, c.core = core → plain = true ∧ (c ∈ s1.l1 ∨ FreshLine s1 ok c)

section
variable {core : Nat} {s1 u : State} {ok : List (Nat × Loc × Tr)} {plain : Bool}

theorem Loading.homeBytes (h : Loading core s1 ok plain u) (c : Loc) (n : Nat) : u.homeBytes c n = s1.homeBytes c n := by
  rw [← h.frame]; rfl

theorem Loading.ownBytes (h : Loading core s1 ok plain u) (team grp : Nat) (lanes : Lanes) (c : Loc) (bs : List Byte) :
    u.ownBytes team grp lanes c bs = s1.ownBytes team grp lanes c bs := by
  rw [← h.frame]; rfl

theorem Loading.bytes (h : Loading core s1 ok plain u) (slot a : Nat) : u.byteAt slot a = s1.byteAt slot a := by
  rw [← h.frame]; rfl

theorem Loading.teams (h : Loading core s1 ok plain u) : u.teams = s1.teams := by have e := congrArg State.teams h.frame; exact e
theorem Loading.streams (h : Loading core s1 ok plain u) : u.streams = s1.streams := by have e := congrArg State.streams h.frame; exact e
theorem Loading.homeOps (h : Loading core s1 ok plain u) : u.homeOps = s1.homeOps := by have e := congrArg State.homeOps h.frame; exact e

theorem Loading.askHome (h : Loading core s1 ok plain u) (c : Loc) (n : Nat) : Loading core s1 ok plain (u.askHome c n) := by
  unfold State.askHome
  split
  · exact h
  · exact ⟨h.frame, h.lines⟩

theorem Loading.tally (h : Loading core s1 ok plain u) (t : Team) (e n : Nat) : Loading core s1 ok plain (u.tally t e n) := by
  rw [State.tally_eq]
  exact ⟨h.frame, h.lines⟩

theorem cacheable_mt {s : State} {c : Loc} (h : s.cacheable c = true) : c.mt = 0 := by
  unfold State.cacheable at h
  simp only [Bool.and_eq_true, beq_iff_eq] at h
  exact h.1

theorem Loading.install1 (h : Loading core s1 ok true u) {p : Nat × Loc × Tr} (hp : p ∈ ok) : Loading core s1 ok true (u.install1 core p.2.1) := by
  unfold State.install1
  split
  · exact h
  · rename_i hc
    refine ⟨h.frame, fun c hc' hcore => ?_⟩
    rcases List.mem_append.mp hc' with hold | hnew
    · exact h.lines c (List.mem_filter.mp hold).1 hcore
    · obtain rfl := List.mem_singleton.mp hnew
      exact ⟨rfl, .inr ⟨p, hp, cacheable_mt (by simpa using hc), rfl, rfl, h.homeBytes _ _⟩⟩

/-- What serves a participant of a load: its home, or, if it is plain, a copy of the core, either one it had or a fresh one. -/
def Served (core : Nat) (s1 : State) (ok : List (Nat × Loc × Tr)) (plain : Bool) (n : Nat) (c : Loc) (bs : List Byte) : Prop :=
  bs = s1.homeBytes c n ∨ plain = true ∧ ∃ y : L1Line, y.core = core ∧ y.asid = c.asid ∧ y.va = c.va / 64 * 64 ∧ c.mt = 0 ∧
    (y ∈ s1.l1 ∨ FreshLine s1 ok y) ∧ bs = (y.bytes.drop (c.va % 64)).take n

theorem Loading.fromL1 (h : Loading core s1 ok plain u) {c : Loc} {n : Nat} {bs : List Byte} (hb : u.fromL1 core c n = some bs) :
    Served core s1 ok plain n c bs := by
  unfold State.fromL1 at hb
  split at hb
  next y hy =>
    split at hy
    next hcache =>
      dsimp only at hb
      split at hb
      · obtain rfl := Option.some.inj hb
        have hkey := List.find?_some hy
        simp only [Bool.and_eq_true, beq_iff_eq] at hkey
        obtain ⟨⟨hcore, hasid⟩, hva⟩ := hkey
        obtain ⟨hplain, hline⟩ := h.lines y (List.mem_of_find?_eq_some hy) hcore
        exact .inr ⟨hplain, y, hcore, hasid, hva, cacheable_mt hcache, hline, rfl⟩
      · cases hb
    · cases hy
  · cases hb

/-- One access of a load. -/
theorem Loading.loadBytes (h : Loading core s1 ok plain u) {p : Nat × Loc × Tr} (hp : p ∈ ok) (team grp : Nat) (lanes : Lanes) (n : Nat) :
    Loading core s1 ok plain (u.loadBytes team grp core lanes p.2.1 n plain).1 ∧
      ∃ bs, (u.loadBytes team grp core lanes p.2.1 n plain).2.1 = s1.ownBytes team grp lanes p.2.1 bs ∧ Served core s1 ok plain n p.2.1 bs := by
  unfold State.loadBytes
  split
  next old hold =>
    have hb : u.fromL1 core p.2.1 n = some old := by
      cases plain
      · cases hold
      · exact hold
    exact ⟨h, old, h.ownBytes .., h.fromL1 hb⟩
  next =>
    have ha := h.askHome p.2.1 n
    refine ⟨?_, _, ha.ownBytes .., .inl (ha.homeBytes ..)⟩
    cases plain
    · exact ha
    · exact ha.install1 hp

end

/-! ### All accesses of a load -/

section
variable {i : Instr} {s s1 : State} {x : Issue} {d : Opr} {m : Mem} {sz : Sz} {ofs : BitVec 9} {ok : List (Nat × Loc × Tr)} {once plain : Bool}

/-- One participant of a load: the state, the register writes and the longest way so far. -/
def Issue.loadStep (x : Issue) (d : Opr) (sz : Sz) (once plain : Bool) (r : State × List RegWrite × Nat) (p : Nat × Loc × Tr) : State × List RegWrite × Nat :=
  let b := r.1.loadBytes x.agent x.gi x.coreIx (x.agentLanes once p.1) p.2.1 sz.bytes plain
  let s := if b.2.2 then b.1 else b.1.tally x.team 6 1
  (s, r.2.1 ++ loadWrites sz d p.1 (leNat b.2.1),
    max r.2.2 (if b.2.2 then 20 else if p.2.2.found = .slice then 90 else s.homeTime x.space.die p.2.1))

/-- The value a participant of a load obtains: what serves it, with the issuer's own stores laid over. -/
def Issue.Obtains (x : Issue) (s1 : State) (ok : List (Nat × Loc × Tr)) (once plain : Bool) (n : Nat) (p : Nat × Loc × Tr) (v : Nat) : Prop :=
  ∃ bs, v = leNat (s1.ownBytes x.agent x.gi (x.agentLanes once p.1) p.2.1 bs) ∧ Served x.coreIx s1 ok plain n p.2.1 bs

theorem Loading.loadStep {r : State × List RegWrite × Nat} (h : Loading x.coreIx s1 ok plain r.1) {p : Nat × Loc × Tr} (hp : p ∈ ok) :
    Loading x.coreIx s1 ok plain (x.loadStep d sz once plain r p).1 ∧
      ∃ v, (x.loadStep d sz once plain r p).2.1 = r.2.1 ++ loadWrites sz d p.1 v ∧ x.Obtains s1 ok once plain sz.bytes p v := by
  obtain ⟨hb, bs, hbs, hserved⟩ := h.loadBytes hp x.agent x.gi (x.agentLanes once p.1) sz.bytes
  refine ⟨?_, _, rfl, bs, congrArg leNat hbs, hserved⟩
  unfold Issue.loadStep
  dsimp only
  split
  · exact hb
  · exact hb.tally ..

theorem Loading.loadSteps (ps : List (Nat × Loc × Tr)) : ∀ {r : State × List RegWrite × Nat}, Loading x.coreIx s1 ok plain r.1 → (∀ p ∈ ps, p ∈ ok) →
    Loading x.coreIx s1 ok plain (ps.foldl (x.loadStep d sz once plain) r).1 ∧
      ∃ vs : List Nat, vs.length = ps.length ∧ (ps.foldl (x.loadStep d sz once plain) r).2.1 = r.2.1 ++ (ps.zip vs).flatMap (fun y => loadWrites sz d y.1.1 y.2) ∧
        ∀ y ∈ ps.zip vs, x.Obtains s1 ok once plain sz.bytes y.1 y.2 := by
  induction ps with
  | nil => exact fun h _ => ⟨h, [], rfl, by simp, fun y hy => by cases hy⟩
  | cons p ps ih =>
    intro r h hps
    obtain ⟨h1, v, hv, hobt⟩ := h.loadStep (d := d) (sz := sz) (once := once) (hps p List.mem_cons_self)
    obtain ⟨h2, vs, hlen, hvs, hobts⟩ := ih h1 (fun q hq => hps q (List.mem_cons_of_mem _ hq))
    refine ⟨h2, v :: vs, congrArg (· + 1) hlen, ?_, fun y hy => ?_⟩
    · rw [List.foldl_cons, hvs, hv, List.append_assoc]
      rfl
    · rcases List.mem_cons.mp hy with rfl | hy
      · exact hobt
      · exact hobts y hy

/-- R170: a load whose participants pass: its accesses, and their values as a pending result. -/
def Issue.loaded (x : Issue) (d : Opr) (sz : Sz) (once plain : Bool) (s : State) (ok : List (Nat × Loc × Tr)) : State :=
  let r := ok.foldl (x.loadStep d sz once plain) (if plain then s else x.acquired s, [], 0)
  x.variable r.1 (pendRegs (laneSet 64 (fun l => ok.any (fun p => p.1 == l))) (d.ref sz.regs)) r.2.1 0 0 (x.s.clock + r.2.2) false

theorem Issue.load_of (ha : x.acquiring = false) (hb : x.bankPending sz.bytes (x.parts (actsOnce m d) (x.addr m ofs.toInt sz.bytes)) = false)
    (hs : plain = false → x.busy HomeOp.syncs = false) : x.load d m sz ofs (!plain) =
      x.access .read true false sz.bytes (if plain then 0 else 6) (x.parts (actsOnce m d) (x.addr m ofs.toInt sz.bytes)) fun s ok =>
        .done (x.loaded d sz (actsOnce m d) plain s ok) := by
  have hgo : (x.acquiring || x.bankPending sz.bytes (x.parts (actsOnce m d) (x.addr m ofs.toInt sz.bytes)) || (!plain && x.busy HomeOp.syncs)) = false := by
    cases plain <;> simp [ha, hb, hs]
  unfold Issue.load
  refine (if_neg (by simp [hgo])).trans ?_
  cases plain <;> rfl

/-- The core's copies as the accesses of a load begin: an acquire drops them. -/
theorem Loading.start (x : Issue) (s1 : State) (ok : List (Nat × Loc × Tr)) (plain : Bool) :
    Loading x.coreIx s1 ok plain (if plain then s1 else x.acquired s1) := by
  cases plain with
  | true => exact ⟨rfl, fun c hc _ => ⟨rfl, .inl hc⟩⟩
  | false =>
    refine ⟨rfl, fun c hc hcore => ?_⟩
    have hne := (List.mem_filter.mp hc).2
    simp [hcore] at hne

/-- A datum that is aligned lies in one line. -/
theorem Sz.in_line (sz : Sz) {va : Nat} (h : va % sz.bytes = 0) : va % 64 + sz.bytes ≤ 64 := by
  cases sz <;> simp only [Sz.bytes] at h ⊢ <;> omega

theorem State.homeBytes_congr (s : State) {c e : Loc} (hpa : c.pa = e.pa) (hkey : c.key = e.key) (hpeer : c.peer = e.peer) (n : Nat) :
    s.homeBytes c n = s.homeBytes e n := by
  unfold State.homeBytes
  rw [hpa, hkey, hpeer]

/-- R283: a fresh copy of a participant's line holds its bytes as they stood at its home. -/
theorem FreshLine.part {y : L1Line} (hy : FreshLine s1 ok y) (hco : Coherent ok) {p : Nat × Loc × Tr} (hp : p ∈ ok) (hmt : p.2.1.mt = 0)
    (hasid : y.asid = p.2.1.asid) (hva : y.va = p.2.1.va / 64 * 64) {n : Nat} (hn : p.2.1.va % 64 + n ≤ 64) :
    (y.bytes.drop (p.2.1.va % 64)).take n = s1.homeBytes p.2.1 n := by
  obtain ⟨q, hq, -, hqasid, hqva, hbytes⟩ := hy
  obtain ⟨hplace, hwin, hline⟩ := hco p hp
  have hsame : p.2.1.va / 64 = q.2.1.va / 64 := by omega
  obtain ⟨hpa, hkey, -, hpeer⟩ := hline q hq hsame (hasid.symm.trans hqasid)
  have hw : inWindow p.2.1.pa = false := Bool.eq_false_iff.mpr (fun h => by rw [hwin h] at hmt; cases hmt)
  have hlines : s1.homeBytes q.2.1.line 64 = s1.homeBytes p.2.1.line 64 :=
    s1.homeBytes_congr (c := q.2.1.line) (e := p.2.1.line) (congrArg (· * 64) hpa.symm) hkey.symm hpeer.symm 64
  rw [hbytes, hlines, ← hplace]
  exact s1.part_homeBytes p.2.1 hw (by omega)

/-- What a load leaves. -/
theorem Issues.completesLoad (hi : Issues i s x) (hw : Walked x.s s1) (he : exec i s = .next (x.loaded d sz once plain s1 ok))
    (hal : ∀ p ∈ ok, p.2.1.va % sz.bytes = 0) : CompletesLoad i s x s1 d sz ok once plain := by
  obtain ⟨hl, vs, hlen, hws, hobt⟩ := (Loading.start x s1 ok plain).loadSteps (d := d) (sz := sz) (once := once) ok
    (r := (if plain then s1 else x.acquired s1, [], 0)) (fun _ h => h)
  obtain ⟨g, hg, hp, hsame⟩ := hi.group_variable (hl.teams.trans hw.teams) (hl.streams.trans hw.streams)
    (pendRegs (laneSet 64 (fun l => ok.any (fun p => p.1 == l))) (d.ref sz.regs)) _ 0 0 _ false
  refine ⟨_, g, _, _, vs, he, hg, hlen, hp.trans (by rw [hws, List.nil_append]), hsame, fun slot a => ?_, ?_, fun hpl => ?_, fun hpl hco y hy => ?_⟩
  · exact (x.variable_bytes ..).trans (hl.bytes slot a)
  · exact (x.modG_homeOps ..).trans hl.homeOps
  · refine ⟨fun y hy => ?_, fun c hc hcore => ?_⟩
    · obtain ⟨bs, hv, hserved⟩ := hobt y hy
      rcases hserved with rfl | ⟨hpl', -⟩
      · exact hv
      · rw [hpl] at hpl'; cases hpl'
    · have hc' : c ∈ (ok.foldl (x.loadStep d sz once plain) (if plain then s1 else x.acquired s1, [], 0)).1.l1 := (x.modG_l1 _ _) ▸ hc
      obtain ⟨hpl', -⟩ := hl.lines c hc' hcore
      rw [hpl] at hpl'; cases hpl'
  · have hy1 := (List.of_mem_zip hy).1
    obtain ⟨bs, hv, hserved⟩ := hobt y hy
    rcases hserved with rfl | ⟨-, c, hcore, hasid, hva, hmt, hold | hfresh, hbs⟩
    · exact .inl hv
    · exact .inr ⟨c, hold, hcore, hasid, hva, hv.trans (by rw [hbs])⟩
    · rw [hfresh.part hco hy1 hmt hasid hva (Sz.in_line sz (hal _ hy1))] at hbs
      exact .inl (hv.trans (by rw [hbs]))

end

end Sys2Proof.Machine

/-! SUPPORT. The extension of a loaded datum to its register (R166), and the loads of R170. -/

namespace Sys2Proof.Machine

theorem loadWrites_wide {sz : Sz} (h8 : sz ≠ .i8) (h16 : sz ≠ .i16) (d : Opr) (l v : Nat) : loadWrites sz d l v =
    match d with
    | .s n => [⟨.s n.val, BitVec.ofNat 64 v⟩]
    | .v n => (List.range sz.regs).map (fun j => ⟨.v (n.val + j) l, zext (v / 2 ^ (32 * j)) 32⟩) := by
  cases sz with
  | i8 => exact absurd rfl h8
  | i16 => exact absurd rfl h16
  | n8 | n16 | b32 | b64 | b128 => rfl

/-- R166: the signed value of a byte or half as 64 bits. -/
theorem toNat_sext_narrow {n : Nat} (hn : n = 8 ∨ n = 16) (v : Nat) :
    (sext v n).toNat = v % 2 ^ n + if 2 ^ (n - 1) ≤ v % 2 ^ n then 2 ^ 64 - 2 ^ n else 0 := by
  have hn0 : n ≠ 0 := by omega
  have hfull : v % 2 ^ n < 2 ^ 64 ∧ 2 ^ n ≤ 2 ^ 64 ∧ v % 2 ^ n < 2 ^ n := by rcases hn with rfl | rfl <;> omega
  unfold sext
  dsimp only
  rw [if_neg hn0]
  by_cases h : v % 2 ^ n < 2 ^ (n - 1)
  · rw [if_pos h, if_neg (Nat.not_le.mpr h), BitVec.toNat_ofNat, Nat.mod_eq_of_lt hfull.1, Nat.add_zero]
  · rw [if_neg h, if_pos (Nat.not_lt.mp h), BitVec.toNat_ofNat]
    omega

/-- R166: sign extension to a register of 64 bits. -/
theorem sext_signExtend {n : Nat} (hn : n = 8 ∨ n = 16) (v : Nat) : BitVec.ofNat 64 ((sext v n).toNat % 2 ^ 64) = (BitVec.ofNat n v).signExtend 64 := by
  refine BitVec.eq_of_toNat_eq ?_
  rw [BitVec.toNat_ofNat, toNat_sext_narrow hn, BitVec.toNat_signExtend, BitVec.msb_eq_decide, BitVec.toNat_setWidth, BitVec.toNat_ofNat]
  simp only [decide_eq_true_eq]
  rcases hn with rfl | rfl <;> split <;> omega

/-- R166: sign extension to a register of 32 bits. -/
theorem sext_signExtend32 {n : Nat} (hn : n = 8 ∨ n = 16) (v : Nat) :
    zext ((sext v n).toNat % 2 ^ 32 / 2 ^ (32 * 0)) 32 = ((BitVec.ofNat n v).signExtend 32).setWidth 64 := by
  refine BitVec.eq_of_toNat_eq ?_
  rw [toNat_zext _ _ (by omega), toNat_sext_narrow hn, BitVec.toNat_setWidth, BitVec.toNat_signExtend, BitVec.msb_eq_decide, BitVec.toNat_setWidth,
    BitVec.toNat_ofNat]
  simp only [decide_eq_true_eq]
  rcases hn with rfl | rfl <;> split <;> omega

/-! ### Loads -/

section
variable {s s1 : State} {x : Issue} {d : Opr} {m : Mem} {sz : Sz} {ofs : BitVec 9} {ok : List (Nat × Loc × Tr)}

theorem Issue.Reaches.aligned_va {a : Access} {rd q : Bool} {n kind : Nat} {ps : List (Nat × Word)} (h : x.Reaches a rd q n kind ps s1 ok) :
    ∀ p ∈ ok, p.2.1.va % n = 0 := by
  intro p hp
  obtain ⟨y, hy⟩ := exists_mem_zip_right h.length hp
  rw [(h.places _ hy).2]
  exact h.aligned y (List.of_mem_zip hy).1

/-- R170: a load, once its participants pass. -/
theorem Issues.load_completes {i : Instr} (hi : Issues i s x) {plain : Bool} (he : exec i s = word i s (fun x => x.load d m sz ofs (!plain)))
    (ha : x.acquiring = false) (hb : x.bankPending sz.bytes (x.parts (actsOnce m d) (x.addr m ofs.toInt sz.bytes)) = false)
    (hs : plain = false → x.busy HomeOp.syncs = false)
    (hr : x.Reaches .read true false sz.bytes (if plain then 0 else 6) (x.parts (actsOnce m d) (x.addr m ofs.toInt sz.bytes)) s1 ok) :
    CompletesLoad i s x s1 d sz ok (actsOnce m d) plain :=
  hi.completesLoad hr.walked (he.trans (word_done hi ((Issue.load_of ha hb hs).trans (Issue.access_of_reaches hr _)))) hr.aligned_va

end

end Sys2Proof.Machine

namespace Sys2Proof.Machine

/-- Settles O24: the accesses of a load keep `Loading`, and each participant obtains the bytes of its home or of a copy; what a fresh copy holds is what
stood at the home (`FreshLine.part`). -/
theorem loadsReturnMemory : Obligations.LoadsReturnMemory := by
  refine ⟨fun s x d m sz ofs ha hb => ⟨fun s1 ok hr => ?ld, fun s1 ok hr => ?lda, fun p hp hn => ?misaligned⟩, fun k l v => ?scalar, fun k l v => ?vector⟩
  case ld =>
    exact ⟨hr.walked, hr.address, fun h hi => hi.load_completes (m := m) (ofs := ofs) (plain := true) rfl ha hb (fun h => by cases h) hr⟩
  case lda =>
    exact ⟨hr.walked, hr.address, fun h hi hs => hi.load_completes (m := m) (ofs := ofs) (plain := false) rfl ha hb (fun _ => hs) hr⟩
  case misaligned =>
    obtain ⟨q, hq, hqn, htrap⟩ := Issue.access_misaligned (x := x) (a := .read) (rd := true) (q := false) (kind := 0) hp hn
      (fun t ok => .done (x.loaded d sz (actsOnce m d) true t ok))
    exact ⟨q, hq, hqn, fun h hi => word_trap hi ((Issue.load_of (plain := true) ha hb (fun h => by cases h)).trans htrap)⟩
  case scalar =>
    refine ⟨?_, ?_, fun sz h8 h16 => loadWrites_wide h8 h16 ..⟩
    · rw [← sext_signExtend (.inl rfl)]; rfl
    · rw [← sext_signExtend (.inr rfl)]; rfl
  case vector =>
    refine ⟨?_, ?_, fun sz h8 h16 => loadWrites_wide h8 h16 ..⟩
    · rw [← sext_signExtend32 (.inl rfl)]; rfl
    · rw [← sext_signExtend32 (.inr rfl)]; rfl

end Sys2Proof.Machine

/-! SUPPORT. The barriers of a team (R187-R194, R268): the entries of combiners, what discarding an arrival leaves, and what a completed
phase releases. -/

namespace Sys2Proof.Machine

/-! ### Combiner entries (R268) -/

section
variable (s : State)

theorem State.comb_is (seq span half idx : Nat) (pkg : Bool) : (s.comb seq span half idx pkg).is seq span half idx pkg = true := by
  unfold State.comb
  cases h : s.combiners.find? (fun c => c.is seq span half idx pkg) with
  | none => simp [emptyComb, Combiner.is]
  | some c =>
    have e := List.find?_some h
    exact e

/-- The key of an entry. -/
theorem Combiner.is_iff {c : Combiner} {seq span half idx : Nat} {pkg : Bool} :
    c.is seq span half idx pkg = true ↔ c.seq = seq ∧ c.span = span ∧ c.half = half ∧ c.idx = idx ∧ c.pkg = pkg := by
  unfold Combiner.is
  simp [and_assoc]

/-- An entry that is set is found under its key. -/
theorem State.comb_setComb_same (c : Combiner) {seq span half idx : Nat} {pkg : Bool} (hc : c.is seq span half idx pkg = true) :
    (s.setComb c).comb seq span half idx pkg = c := by
  obtain ⟨rfl, rfl, rfl, rfl, rfl⟩ := Combiner.is_iff.mp hc
  have hnone : (s.combiners.filter (fun d => !d.is c.seq c.span c.half c.idx c.pkg)).find? (fun d => d.is c.seq c.span c.half c.idx c.pkg) = none :=
    List.find?_eq_none.mpr (fun d hd => by simpa using (List.mem_filter.mp hd).2)
  unfold State.comb State.setComb
  dsimp only
  rw [List.find?_append, hnone, Option.none_or, List.find?_singleton, hc]
  rfl

/-- An entry under another key stands. -/
theorem State.comb_setComb_ne (c : Combiner) {seq span half idx : Nat} {pkg : Bool} (hc : c.is seq span half idx pkg = false) :
    (s.setComb c).comb seq span half idx pkg = s.comb seq span half idx pkg := by
  have hkeep : (fun d : Combiner => !d.is c.seq c.span c.half c.idx c.pkg && d.is seq span half idx pkg) = fun d => d.is seq span half idx pkg := by
    funext d
    cases hd : d.is seq span half idx pkg with
    | false => exact Bool.and_false _
    | true =>
      obtain ⟨rfl, rfl, rfl, rfl, rfl⟩ := Combiner.is_iff.mp hd
      have hne : d.is c.seq c.span c.half c.idx c.pkg = false := by
        refine Bool.eq_false_iff.mpr (fun h => ?_)
        obtain ⟨h1, h2, h3, h4, h5⟩ := Combiner.is_iff.mp h
        exact Bool.eq_false_iff.mp hc (Combiner.is_iff.mpr ⟨h1.symm, h2.symm, h3.symm, h4.symm, h5.symm⟩)
      rw [hne]; rfl
  unfold State.comb State.setComb
  dsimp only
  rw [List.find?_append, List.find?_filter, List.find?_singleton, hc]
  simp only [Bool.decide_and, Bool.decide_eq_true, hkeep]
  simp

end

/-! ### Discarding an arrival (R189) -/

/-- A change of the entries of combiners and of their messages alone. -/
def EntriesOnly (s t : State) : Prop := { t with combiners := s.combiners, combMsgs := s.combMsgs } = s

theorem State.discardArrival_entriesOnly (s : State) (t : Team) (nb : Nat) : EntriesOnly s (s.discardArrival t nb) := by
  unfold State.discardArrival
  cases (t.bar nb).fwd with
  | none => rfl
  | some k => exact iteInduction (fun _ => rfl) (fun _ => iteInduction (fun _ => rfl) (fun _ => rfl))

theorem State.discardArrival_none (s : State) {t : Team} {nb : Nat} (h : (t.bar nb).fwd = none) : s.discardArrival t nb = s := by
  unfold State.discardArrival
  rw [h]

/-- An arrival is on its way no longer, and the entry of its team's half does not count it. -/
def Discarded (t : Team) (nb k : Nat) (u : State) : Prop :=
  (∀ m ∈ u.combMsgs, m.id ≠ k) ∧ (u.comb t.seq t.span t.half nb false).arrived.any (fun y => y.2 == k) = false

/-- What is forwarded for a half goes to another entry: the other half's, or the package's. -/
theorem Combiner.far_is {c : Combiner} {t : Team} {nb : Nat} {up : Bool}
    (hc : if up then c.is t.seq 0 0 nb true = true else c.is t.seq t.span (1 - t.half) nb false = true) : c.is t.seq t.span t.half nb false = false := by
  refine Bool.eq_false_iff.mpr (fun h => ?_)
  obtain ⟨-, -, h3, -, h5⟩ := Combiner.is_iff.mp h
  cases up with
  | true =>
    obtain ⟨-, -, -, -, k5⟩ := Combiner.is_iff.mp hc
    rw [h5] at k5; cases k5
  | false =>
    obtain ⟨-, -, k3, -, -⟩ := Combiner.is_iff.mp hc
    omega

/-- A team's entry does not count an arrival. -/
def Uncounted (t : Team) (nb k : Nat) (u : State) : Prop := (u.comb t.seq t.span t.half nb false).arrived.any (fun y => y.2 == k) = false

theorem uncounted_setComb (u : State) (t : Team) (nb k : Nat) {c : Combiner} (hc : c.is t.seq t.span t.half nb false = true) {xs : List (Nat × Nat)}
    (hxs : c.arrived = xs.filter (fun a => a.2 != k)) : Uncounted t nb k (u.setComb c) := by
  unfold Uncounted
  rw [State.comb_setComb_same _ _ hc, hxs]
  exact List.any_eq_false.mpr (fun y hy => by simpa using (List.mem_filter.mp hy).2)

theorem Uncounted.setComb {u : State} {t : Team} {nb k : Nat} (h : Uncounted t nb k u) {c : Combiner} (hc : c.is t.seq t.span t.half nb false = false) :
    Uncounted t nb k (u.setComb c) := by
  unfold Uncounted
  rw [State.comb_setComb_ne _ _ hc]
  exact h

/-- R189: what was forwarded for the current phase is discarded wherever it is counted. -/
theorem State.discardArrival_some (s : State) {t : Team} {nb k : Nat} (h : (t.bar nb).fwd = some k) : Discarded t nb k (s.discardArrival t nb) := by
  have hmsgs : ∀ m ∈ s.combMsgs.filter (fun m => m.id != k), m.id ≠ k := fun m hm => by simpa using (List.mem_filter.mp hm).2
  have hkey := Combiner.is_iff.mp (s.comb_is t.seq t.span t.half nb false)
  have hfar := s.comb_is t.seq 0 0 nb true
  have hother := s.comb_is t.seq t.span (1 - t.half) nb false
  have hown (u : State) (f g : Bool) := uncounted_setComb u t nb k (c := { s.comb t.seq t.span t.half nb false with
    arrived := (s.comb t.seq t.span t.half nb false).arrived.filter (fun a => a.2 != k), fwd := f, pfwd := g }) (Combiner.is_iff.mpr hkey) rfl
  unfold State.discardArrival
  rw [h]
  refine iteInduction (motive := Discarded t nb k) (fun hno => ⟨hmsgs, ?_⟩) (fun _ => iteInduction (motive := Discarded t nb k)
    (fun _ => ⟨hmsgs, hown ..⟩) (fun _ => ⟨fun m hm => hmsgs m (List.mem_filter.mp hm).1, ?_⟩))
  · exact (Bool.not_eq_true' _).mp hno
  · refine Uncounted.setComb (hown ..) (Combiner.far_is (up := (t.bar nb).level == .pkg) ?_)
    cases (t.bar nb).level == BarLevel.pkg with
    | true => exact Combiner.is_iff.mpr (Combiner.is_iff.mp hfar)
    | false => exact Combiner.is_iff.mpr (Combiner.is_iff.mp hother)

end Sys2Proof.Machine

/-! SUPPORT. The phases of a barrier (R187, R190-R192, R196): what completing one does to the barrier, and which fragments it releases. -/

namespace Sys2Proof.Machine

/-! ### A team's barrier -/

theorem Bar.full_iff (b : Bar) : b.full = true ↔ b.arrg = b.expg ∧ b.arrt = b.expt + b.xadd ∧ 0 < b.expg + b.expt + b.xadd := by
  unfold Bar.full Bar.expected
  simp [and_assoc]

theorem Bar.passed_iff (b : Bar) (p : BitVec 32) :
    b.passed p = true ↔ (1 ≤ (b.phase - p).toNat ∧ (b.phase - p).toNat < 2 ^ 31) ∨ b.expg + b.expt + b.xadd = 0 := by
  unfold Bar.passed Bar.expected
  simp only [Bool.or_eq_true, Bool.and_eq_true, decide_eq_true_eq, beq_iff_eq]

/-- The barrier of a team after a change of it. -/
theorem Team.bar_modNth (t : Team) {n : Nat} (hn : n < t.bars.length) (f : Bar → Bar) : Team.bar { t with bars := modNth t.bars n f } n = f (t.bar n) := by
  unfold Team.bar
  rw [List.getD_eq_getElem?_getD, List.getD_eq_getElem?_getD, modNth_get, List.getElem?_eq_getElem hn]
  rfl

/-- Only a barrier that a team has can be full. -/
theorem Team.bar_lt_of_full {t : Team} {n : Nat} (h : (t.bar n).full = true) : n < t.bars.length := by
  refine Nat.not_le.mp (fun hn => ?_)
  unfold Team.bar at h
  rw [List.getD_eq_getElem?_getD, List.getElem?_eq_none hn] at h
  cases h

theorem State.team?_modBar {s : State} {tid n : Nat} {t : Team} (ht : s.team? tid = some t) (f : Bar → Bar) :
    (s.modBar tid n f).team? tid = some { t with bars := modNth t.bars n f } := by
  refine (State.team?_modTeam s tid tid (fun t => { t with bars := modNth t.bars n f }) (fun _ => rfl)).trans ?_
  rw [ht, Option.map_some, if_pos (State.team?_id ht)]

/-! ### Testing for completion (R191, R194) -/

section
variable {s : State} {tid n : Nat} {t : Team} (ht : s.team? tid = some t)
include ht

theorem State.testBar_stays (h : (t.bar n).full = false ∨ (t.bar n).fwd ≠ none) : s.testBar tid n = s := by
  have hc : (!(t.bar n).full || (t.bar n).fwd.isSome) = true := by
    rcases h with h | h
    · simp [h]
    · simp [Option.isSome_iff_ne_none.mpr h]
  unfold State.testBar
  rw [ht]
  exact if_pos hc

theorem State.testBar_completes (hfull : (t.bar n).full = true) (hfwd : (t.bar n).fwd = none) (hlevel : (t.bar n).level = .team) :
    s.testBar tid n = s.completePhase tid n := by
  unfold State.testBar
  rw [ht]
  exact (if_neg (by simp [hfull, hfwd])).trans (if_pos (by simp [hlevel]))

theorem State.testBar_forwards (hfull : (t.bar n).full = true) (hfwd : (t.bar n).fwd = none) (hlevel : (t.bar n).level ≠ .team) :
    s.testBar tid n = (s.modBar tid n (fun b => { b with fwd := some s.nextId })).sendComb t.seq n (.die t.span t.half t.idx false) 60 := by
  unfold State.testBar
  rw [ht]
  exact (if_neg (by simp [hfull, hfwd])).trans (if_neg (by simp [hlevel]))

end

/-! ### The fragments that a completed phase releases (R191, R192, R411) -/

/-- Every place of a group's split table, with the group's number, in the order in which a completed phase tests them. -/
def Team.places (t : Team) : List (Nat × Frag) := t.groups.zipIdx.flatMap (fun g => g.1.frags.map (fun f => (g.2, f)))

theorem State.completePhase_eq {s : State} {tid n : Nat} {t : Team} (ht : s.team? tid = some t) : s.completePhase tid n =
    if t.res = .resident then
      (Team.places t).foldl (fun u y => u.releaseFrag { t with bars := modNth t.bars n Bar.complete } n y.1 y.2) (s.modBar tid n Bar.complete)
    else s.modBar tid n Bar.complete := by
  unfold State.completePhase
  dsimp only
  rw [State.team?_modBar ht]
  dsimp only
  by_cases hr : t.res = .resident
  · rw [if_neg (by simp [hr]), if_pos hr]
    unfold Team.places
    rw [List.foldl_flatMap]
    simp only [List.foldl_map]
  · rw [if_pos (by simp [hr]), if_neg hr]

/-- A fold over a list in which only a meets a condition, whose other steps keep P and Q, and whose step at a leads from P to Q. -/
theorem foldl_once {α β : Type} {P Q : α → Prop} {c : β → Bool} {f : α → β → α} {b : β} (hP : ∀ a y, c y = false → P a → P (f a y))
    (hQ : ∀ a y, c y = false → Q a → Q (f a y)) (hb : ∀ a, P a → Q (f a b)) : ∀ {ys : List β} {a : α}, ys.filter c = [b] → P a → Q (ys.foldl f a)
  | [], _, h, _ => by cases h
  | y :: ys, a, h, ha => by
    cases hy : c y with
    | true =>
      rw [List.filter_cons_of_pos hy, List.cons.injEq] at h
      obtain ⟨rfl, hnone⟩ := h
      have hkeep : ∀ z ∈ ys, c z = false := fun z hz => by simpa using List.filter_eq_nil_iff.mp hnone z hz
      have hall : ∀ (zs : List β) (a : α), (∀ z ∈ zs, c z = false) → Q a → Q (zs.foldl f a) := by
        intro zs
        induction zs with
        | nil => exact fun _ _ h => h
        | cons z zs ih => exact fun a hz h => ih _ (fun w hw => hz w (List.mem_cons_of_mem _ hw)) (hQ a z (hz z List.mem_cons_self) h)
      exact hall ys _ hkeep (hb a ha)
    | false =>
      rw [List.filter_cons_of_neg (by simp [hy])] at h
      exact foldl_once (ys := ys) hP hQ hb h (hP a y hy ha)

theorem Group.frag?_modFrag_same {g : Group} {e : Nat} {f : Frag} (hf : g.frag? e = some f) (k : Frag → Frag) (hk : ∀ x, (k x).ent = x.ent) :
    (g.modFrag e k).frag? e = some (k f) := by
  have hent : f.ent = e := by simpa using List.find?_some hf
  have hpred : (fun x : Frag => x.ent == e) ∘ (fun x => if x.ent = e then k x else x) = fun x => x.ent == e := by
    funext x
    simp only [Function.comp]
    split
    · rw [hk]
    · rfl
  unfold Group.frag? Group.modFrag at *
  dsimp only
  rw [List.find?_map, hpred, hf, Option.map_some, if_pos hent]

theorem Group.frag?_modFrag_ne (g : Group) {e d : Nat} (hne : d ≠ e) (k : Frag → Frag) (hk : ∀ x, (k x).ent = x.ent) :
    (g.modFrag d k).frag? e = g.frag? e := by
  have hpred : (fun x : Frag => x.ent == e) ∘ (fun x => if x.ent = d then k x else x) = fun x => x.ent == e := by
    funext x
    simp only [Function.comp]
    split
    · rw [hk]
    · rfl
  unfold Group.frag? Group.modFrag
  dsimp only
  rw [List.find?_map, hpred]
  cases hf : g.frags.find? (fun x => x.ent == e) with
  | none => rfl
  | some f =>
    have hent : f.ent = e := by simpa using List.find?_some hf
    rw [Option.map_some, if_neg (by rw [hent]; exact Ne.symm hne)]

/-- A state in the midst of the releases of a completed phase: the team is t but for its groups, and debuggers and the clock stand. -/
structure Releasing (s : State) (t : Team) (u : State) (y : Team) : Prop where
  dbg   : u.dbg = s.dbg
  clock : u.clock = s.clock
  team  : u.team? t.id = some y
  rest  : { y with groups := t.groups } = t

section
variable {s u : State} {t y : Team} {gi ent : Nat} {f : Frag}

/-- The fragment of a place of the team. -/
def Team.fragAt (y : Team) (gi ent : Nat) : Option Frag := (y.groups[gi]?).bind (fun g => g.frag? ent)

theorem Team.fragAt_modNth_ne (y : Team) {gj : Nat} {d : Nat} (hne : gj ≠ gi ∨ d ≠ ent) (k : Frag → Frag) (hk : ∀ x, (k x).ent = x.ent) :
    Team.fragAt { y with groups := modNth y.groups gj (fun g => g.modFrag d k) } gi ent = y.fragAt gi ent := by
  unfold Team.fragAt
  dsimp only
  by_cases hg : gj = gi
  · subst hg
    rw [modNth_get]
    cases y.groups[gj]? with
    | none => rfl
    | some g => exact g.frag?_modFrag_ne (hne.resolve_left (fun h => h rfl)) k hk
  · rw [modNth_get_ne _ _ (Ne.symm hg)]

theorem Team.fragAt_modNth_same {y : Team} (hf : y.fragAt gi ent = some f) (k : Frag → Frag) (hk : ∀ x, (k x).ent = x.ent) :
    Team.fragAt { y with groups := modNth y.groups gi (fun g => g.modFrag ent k) } gi ent = some (k f) := by
  unfold Team.fragAt at *
  dsimp only
  rw [modNth_get]
  cases hg : y.groups[gi]? with
  | none => rw [hg] at hf; cases hf
  | some g =>
    rw [hg] at hf
    exact Group.frag?_modFrag_same hf k hk

/-- A fragment that a completed phase lets go on. -/
def Frag.goesOn (f : Frag) (pc : Word) (now : Nat) : Frag := { f with pc := pc, st := .ready, wake := max f.wake (now + 1), todo := none }

theorem Releasing.goOn (h : Releasing s t u y) (gj d : Nat) (pc : Word) :
    Releasing s t (u.goOn t gj d pc) { y with groups := modNth y.groups gj (fun g => g.modFrag d (fun f => f.goesOn pc s.clock)) } := by
  refine ⟨h.dbg, h.clock, ?_, h.rest⟩
  refine (State.team?_modGroup (u.acquire (64 * t.die + t.core)) t.id gj t.id _).trans ?_
  rw [show (u.acquire (64 * t.die + t.core)).team? t.id = some y from h.team, Option.map_some, if_pos (State.team?_id h.team), h.clock]
  rfl

/-- One test of a completed phase leaves a fragment as it was, or lets it go on. -/
theorem State.releaseFrag_cases (u : State) (t : Team) (nb gj : Nat) (f : Frag) :
    u.releaseFrag t nb gj f = u ∨ ∃ pc, u.releaseFrag t nb gj f = u.goOn t gj f.ent pc := by
  unfold State.releaseFrag
  split
  · exact .inl rfl
  · split
    · split
      · exact .inr ⟨_, rfl⟩
      · exact .inl rfl
    · split
      · exact .inr ⟨_, rfl⟩
      · exact .inl rfl
    · split
      · exact .inr ⟨_, rfl⟩
      · exact .inl rfl
    · exact .inl rfl

theorem Releasing.releaseFrag (h : Releasing s t u y) (nb gj : Nat) (k : Frag) : ∃ z, Releasing s t (u.releaseFrag t nb gj k) z ∧
    (gj ≠ gi ∨ k.ent ≠ ent → z.fragAt gi ent = y.fragAt gi ent) := by
  rcases u.releaseFrag_cases t nb gj k with he | ⟨pc, he⟩
  · exact ⟨y, by rw [he]; exact h, fun _ => rfl⟩
  · exact ⟨_, by rw [he]; exact h.goOn gj k.ent pc, fun hne => y.fragAt_modNth_ne hne (fun x => x.goesOn pc s.clock) (fun _ => rfl)⟩

/-- R192: a fragment that waits for a completed phase, and that no debugger holds, goes on at the next word. -/
theorem Releasing.releases (h : Releasing s t u y) {nb : Nat} {p : BitVec 32} (hf : y.fragAt gi f.ent = some f) (hd : s.debugHolds t gi f.ent = false)
    (hp : (t.bar nb).passed p = true) (hst : f.st = .blocked (.bar nb p) ∨ f.st = .blocked (.sync nb p)) :
    ∃ z, Releasing s t (u.releaseFrag t nb gi f) z ∧ z.fragAt gi f.ent = some (f.goesOn (nextPc f.pc) s.clock) := by
  have hd' : u.debugHolds t gi f.ent = false := by
    unfold State.debugHolds at hd ⊢
    rw [h.dbg, h.clock]
    exact hd
  have he : u.releaseFrag t nb gi f = u.goOn t gi f.ent (nextPc f.pc) := by
    unfold State.releaseFrag
    rcases hst with hst | hst <;> simp [hd', hst, hp]
  exact ⟨_, by rw [he]; exact h.goOn gi f.ent (nextPc f.pc), Team.fragAt_modNth_same hf (fun x => x.goesOn (nextPc f.pc) s.clock) (fun _ => rfl)⟩

end

/-- Of a list with its numbers, what the entry of one number gives. -/
theorem flatMap_zipIdx_single {α β : Type} (h : α → List β) : ∀ {xs : List α} {k j : Nat} {a : α}, xs[k]? = some a →
    (xs.zipIdx j).flatMap (fun y => if y.2 = k + j then h y.1 else []) = h a
  | [], _, _, _, hk => by cases hk
  | x :: xs, 0, j, a, hk => by
    obtain rfl := Option.some.inj hk
    have hrest : (xs.zipIdx (j + 1)).flatMap (fun y => if y.2 = 0 + j then h y.1 else []) = [] := by
      refine List.flatMap_eq_nil_iff.mpr (fun y hy => if_neg ?_)
      have := (List.mem_zipIdx hy).1
      omega
    rw [List.zipIdx_cons, List.flatMap_cons, hrest, if_pos (Nat.zero_add j).symm, List.append_nil]
  | x :: xs, k + 1, j, a, hk => by
    have ih := flatMap_zipIdx_single h (xs := xs) (j := j + 1) hk
    rw [List.zipIdx_cons, List.flatMap_cons, if_neg (by dsimp only; omega), List.nil_append]
    rw [show k + 1 + j = k + (j + 1) by omega]
    exact ih

/-- A fragment alone in its entry has one place in the team. -/
theorem Team.places_filter {t : Team} {gi : Nat} {g : Group} {f : Frag} (hg : t.groups[gi]? = some g) (hf : g.frags.filter (fun y => y.ent == f.ent) = [f]) :
    (Team.places t).filter (fun y => y.1 == gi && y.2.ent == f.ent) = [(gi, f)] := by
  have hgroup (y : Group × Nat) : (y.1.frags.map (fun k => (y.2, k))).filter (fun y => y.1 == gi && y.2.ent == f.ent) =
      if y.2 = gi + 0 then (y.1.frags.filter (fun k => k.ent == f.ent)).map (fun k => (gi, k)) else [] := by
    rw [List.filter_map]
    split
    next hy =>
      rw [Nat.add_zero] at hy
      subst hy
      congr 1
      refine List.filter_congr (fun k _ => ?_)
      simp
    next hy =>
      have hne : (y.2 == gi) = false := beq_eq_false_iff_ne.mpr hy
      rw [List.filter_eq_nil_iff.mpr (fun k _ => by simp [hne])]
      rfl
  unfold Team.places
  rw [List.filter_flatMap]
  simp only [hgroup]
  rw [flatMap_zipIdx_single (fun g : Group => (g.frags.filter (fun k => k.ent == f.ent)).map (fun k => (gi, k))) hg, hf]
  rfl

/-- R187: a team whose barrier has gone on to the next phase. -/
def Team.completed (t : Team) (n : Nat) : Team := { t with bars := modNth t.bars n Bar.complete }

theorem Releasing.bar {s u : State} {t y : Team} {n : Nat} (h : Releasing s (t.completed n) u y) (hn : n < t.bars.length) : y.bar n = (t.bar n).complete := by
  have hbars := congrArg Team.bars h.rest
  have hbar : y.bar n = (t.completed n).bar n := congrArg (fun bs : List Bar => bs.getD n Bar.zero) hbars
  exact hbar.trans (t.bar_modNth hn _)

section
variable {s : State} {tid n : Nat} {t : Team} (ht : s.team? tid = some t)
include ht

/-- R191, R200: a completed phase of a team that is not resident changes its barrier alone. -/
theorem State.completePhase_away (hr : t.res ≠ .resident) : s.completePhase tid n = s.modBar tid n Bar.complete :=
  (State.completePhase_eq ht).trans (if_neg hr)

theorem State.completePhase_resident (hr : t.res = .resident) : s.completePhase tid n =
    (Team.places t).foldl (fun u y => u.releaseFrag (t.completed n) n y.1 y.2) (s.modBar tid n Bar.complete) :=
  (State.completePhase_eq ht).trans (if_pos hr)

theorem Releasing.start : Releasing s (t.completed n) (s.modBar tid n Bar.complete) (t.completed n) := by
  refine ⟨rfl, rfl, ?_, rfl⟩
  have h := State.team?_modBar (n := n) ht Bar.complete
  rw [← State.team?_id ht] at h ⊢
  exact h

/-- R191: a completed phase leaves the team with its barrier in the next phase. -/
theorem State.completePhase_bar (hn : n < t.bars.length) : ∃ t', (s.completePhase tid n).team? tid = some t' ∧ t'.bar n = (t.bar n).complete := by
  by_cases hr : t.res = .resident
  · rw [State.completePhase_resident ht hr]
    obtain ⟨y, hy⟩ := foldl_keeps (P := fun u => ∃ y, Releasing s (t.completed n) u y) (fun u y => u.releaseFrag (t.completed n) n y.1 y.2)
      (fun u k h => by
        obtain ⟨y, hy⟩ := h
        obtain ⟨z, hz, -⟩ := hy.releaseFrag (gi := 0) (ent := 0) n k.1 k.2
        exact ⟨z, hz⟩) (Team.places t) ⟨_, Releasing.start ht⟩
    exact ⟨y, (congrArg _ (State.team?_id ht).symm).trans hy.team, hy.bar hn⟩
  · rw [State.completePhase_away ht hr]
    exact ⟨_, State.team?_modBar ht _, t.bar_modNth hn _⟩

/-- R192: a completed phase lets the fragments that wait for it go on. -/
theorem State.completePhase_releases (hn : n < t.bars.length) (hr : t.res = .resident) {gi : Nat} {g : Group} {f : Frag} {p : BitVec 32}
    (hg : t.groups[gi]? = some g) (hf : g.frags.filter (fun y => y.ent == f.ent) = [f]) (hd : s.debugHolds t gi f.ent = false)
    (hp : (t.bar n).complete.passed p = true) (hst : f.st = .blocked (.bar n p) ∨ f.st = .blocked (.sync n p)) :
    ∃ z, (s.completePhase tid n).team? tid = some z ∧ z.fragAt gi f.ent = some (f.goesOn (nextPc f.pc) s.clock) := by
  have hp' : ((t.completed n).bar n).passed p = true := by
    rw [show (t.completed n).bar n = (t.bar n).complete from t.bar_modNth hn _]
    exact hp
  have hfrag : (t.completed n).fragAt gi f.ent = some f := by
    unfold Team.fragAt
    rw [show (t.completed n).groups[gi]? = some g from hg, Option.bind_some, Group.frag?, ← List.head?_filter, hf]
    rfl
  have hkeep (v : Option Frag) : ∀ (u : State) (k : Nat × Frag), (k.1 == gi && k.2.ent == f.ent) = false →
      (∃ y, Releasing s (t.completed n) u y ∧ y.fragAt gi f.ent = v) →
        ∃ y, Releasing s (t.completed n) (u.releaseFrag (t.completed n) n k.1 k.2) y ∧ y.fragAt gi f.ent = v := by
    rintro u k hk ⟨y, hy, hv⟩
    obtain ⟨z, hz, hsame⟩ := hy.releaseFrag (gi := gi) (ent := f.ent) n k.1 k.2
    refine ⟨z, hz, (hsame ?_).trans hv⟩
    rcases Bool.and_eq_false_iff.mp hk with h | h
    · exact .inl (beq_eq_false_iff_ne.mp h)
    · exact .inr (beq_eq_false_iff_ne.mp h)
  rw [State.completePhase_resident ht hr]
  obtain ⟨z, hz, hfz⟩ := foldl_once (hkeep (some f)) (hkeep (some (f.goesOn (nextPc f.pc) s.clock)))
    (fun u hu => let ⟨_, hy, hfy⟩ := hu; hy.releases hfy hd hp' hst) (Team.places_filter hg hf) ⟨_, Releasing.start ht, hfrag⟩
  exact ⟨z, (congrArg _ (State.team?_id ht).symm).trans hz.team, hfz⟩

end

end Sys2Proof.Machine

/-! SUPPORT. The words of barriers, timelines and gangs (R189-R199, R204). -/

namespace Sys2Proof.Machine

variable {i : Instr} {s : State} {x : Issue}

/-! ### Arrivals (R190) -/

/-- R190: what an arrival waits for is done. -/
def Issue.arrivalClear (x : Issue) : Prop := x.enginesBusy = false ∧ x.groupBusy = false ∧ x.grp.acquiring x.grp.launched = false

/-- R190: the phase an arrival reports in its register. -/
def Issue.told (x : Issue) (n : Nat) (d : Option (Fin 64)) : State :=
  match d with
  | some r => x.fixed 4 [⟨.s r.val, (x.team.bar n).phase.setWidth 64⟩] 0
  | none => x.s

/-- R190: one arrival counted in a barrier. -/
def Bar.counted (b : Bar) (drop : Bool) (now : Nat) : Bar :=
  { b with arrg := b.arrg + 1, drops := b.drops + drop.toNat, lastAt := some now, told := false }

theorem Issue.told_clock (x : Issue) (n : Nat) (d : Option (Fin 64)) : (x.told n d).clock = x.s.clock := by
  cases d with
  | none => rfl
  | some r => exact x.modG_clock _ _

theorem Issue.arrive_overflows (hc : x.arrivalClear) (d : Option (Fin 64)) {nb : BitVec 4} (hfull : (x.team.bar nb.toNat).arrg = (x.team.bar nb.toNat).expg)
    (drop : Bool) (k : State → BitVec 32 → Act) : x.arrive d nb drop k = .trap { code := cBAROVF, tval := nb.setWidth 64 } := by
  obtain ⟨he, hg, ha⟩ := hc
  unfold Issue.arrive
  exact (if_neg (by simp [he, hg, ha])).trans (if_pos hfull)

theorem Issue.arrive_counts (hc : x.arrivalClear) (hclock : x.s.clock = s.clock) (d : Option (Fin 64)) {nb : BitVec 4}
    (hroom : (x.team.bar nb.toNat).arrg ≠ (x.team.bar nb.toNat).expg) (drop : Bool) (k : State → BitVec 32 → Act) : x.arrive d nb drop k =
      k (((x.told nb.toNat d).modBar x.team.id nb.toNat (fun b => b.counted drop s.clock)).testBar x.team.id nb.toNat) (x.team.bar nb.toNat).phase := by
  obtain ⟨he, hg, ha⟩ := hc
  have hdrop : (fun b : Bar => { b with arrg := b.arrg + 1, drops := if drop then b.drops + 1 else b.drops, lastAt := some (x.told nb.toNat d).clock, told := false }) =
      fun b => b.counted drop s.clock := by
    funext b
    rw [x.told_clock, hclock]
    cases drop <;> rfl
  unfold Issue.arrive
  refine (if_neg (by simp [he, hg, ha])).trans ((if_neg hroom).trans ?_)
  exact congrArg (fun f => k (((x.told nb.toNat d).modBar x.team.id nb.toNat f).testBar x.team.id nb.toNat) (x.team.bar nb.toNat).phase) hdrop

/-! ### Initialising a barrier (R189) -/

/-- R187, R189: a barrier as bar.init leaves it. -/
def Bar.initial (b : Bar) (ring : Bool) (v : Nat) (top : BarLevel) : Bar :=
  { phase := 0, ring := ring, level := clampLevel b.bind top, bind := b.bind, expg0 := v % 64,
    expg1 := if ring then v / 2 ^ 16 % 64 else v % 64, expt0 := v / 2 ^ 8 % 64, expt1 := if ring then v / 2 ^ 24 % 64 else v / 2 ^ 8 % 64,
    xadd := 0, arrg := 0, arrt := 0, drops := 0, lastAt := none, told := false, fwd := none, inited := true }

theorem exec_barInit {h : Hdr} {a : Fin 64} {nb : BitVec 4} {ring : Bool} (hi : Issues (.barInit h a nb ring) s x) (hw : x.team.waiters nb.toNat = []) :
    exec (.barInit h a nb ring) s = .next ((x.s.discardArrival x.team nb.toNat).modBar x.team.id nb.toNat (fun b => b.initial ring (x.sreg a).toNat x.la.topLevel)) := by
  refine word_done hi ((if_neg (by simp [hw])).trans ?_)
  simp [Bar.initial, Bar.zero, field, bits]

theorem EntriesOnly.modBar {t u : State} (h : EntriesOnly t u) (tid n : Nat) (f : Bar → Bar) : EntriesOnly (t.modBar tid n f) (u.modBar tid n f) := by
  have e := congrArg (fun v : State => v.modBar tid n f) h
  exact e

/-! ### Yielding (R199) -/

theorem Issue.rel_eq (x : Issue) (off : BitVec 16) : x.rel off = nextPc x.pc + sext off.toNat 16 * 8 := by
  have hs : sext off.toNat 16 = off.signExtend 64 := by
    have h := sext_signExtend (n := 16) (.inr rfl) off.toNat
    rwa [BitVec.ofNat_toNat, BitVec.setWidth_eq, Nat.mod_eq_of_lt (sext off.toNat 16).isLt, BitVec.ofNat_toNat, BitVec.setWidth_eq] at h
  have hm : BitVec.ofInt 64 (8 * off.toInt) = off.signExtend 64 * 8 := by
    rw [Int.mul_comm, BitVec.ofInt_mul]
    rfl
  unfold Issue.rel nextPc
  rw [hs, hm]

/-! ### Gangs (R204) -/

/-- R204: a group of the team that may be in a gang. -/
def Team.gangs (t : Team) (g : Nat) : Bool :=
  match t.groups[g]? with
  | some y => y.role == .m && y.launched != 0
  | none => false

theorem Team.gangs_iff (t : Team) (g : Nat) : t.gangs g = true ↔ ∃ y, t.groups[g]? = some y ∧ y.role = .m ∧ y.launched ≠ 0 := by
  unfold Team.gangs
  cases t.groups[g]? with
  | none => simp
  | some y => simp

end Sys2Proof.Machine

namespace Sys2Proof.Machine

/-- Settles O30: the words by their equations (`Issue.arrive_counts`, `exec_barInit`); a completed phase by the tests of its fragments, of which one
alone concerns each place (`State.completePhase_releases`). -/
theorem barriersTimelinesAndGang : Obligations.BarriersTimelinesAndGang := by
  refine ⟨⟨fun s x nb => ⟨?init, ?overflow, ?arrive, ?wait, ?expect, ?bind⟩, fun b => ?bar, fun s tid n t ht => ?phase⟩,
    fun s x => ⟨?tlwait, ?tlread, ?yield, ?gang⟩⟩
  case init =>
    intro h a ring hi
    refine ⟨fun hw => word_trap hi (if_pos (by simpa using hw)), fun hw => ⟨_, exec_barInit hi hw, fun hf => ?_, fun k hf => ?_, ?_⟩⟩
    · rw [State.discardArrival_none _ hf]
      exact ⟨rfl, rfl⟩
    · exact x.s.discardArrival_some hf
    · exact (x.s.discardArrival_entriesOnly x.team nb.toNat).modBar x.team.id nb.toNat _
  case overflow =>
    rintro hc hfull h d i (rfl | rfl | rfl) hi
    · exact word_trap hi (Issue.arrive_overflows hc d hfull false _)
    · exact word_trap hi (Issue.arrive_overflows hc d hfull true _)
    · exact word_trap hi (Issue.arrive_overflows hc d hfull false _)
  case arrive =>
    intro hc hroom h d
    refine ⟨fun hi => ?_, fun hi => ?_, fun hi => ?_⟩
    · exact word_done hi (Issue.arrive_counts hc hi.clock d hroom false _)
    · exact word_done hi (Issue.arrive_counts hc hi.clock d hroom true _)
    · refine (word_of_issues hi _).trans (congrArg Host.Outcome.next ((congrArg (Act.after s) (Issue.arrive_counts hc hi.clock d hroom false _)).trans ?_))
      exact apply_ite (Act.after s) _ _ _
  case wait =>
    intro h a hi ha hb
    refine (word_of_issues hi _).trans (congrArg Host.Outcome.next ((congrArg (Act.after s) (if_neg (by simp [ha, hb]))).trans ?_))
    exact apply_ite (Act.after s) _ _ _
  case expect =>
    intro h a hi hb
    have hf : field (x.sreg a) 5 0 = (x.sreg a).toNat % 64 := by simp [field, bits]
    rw [← hf]
    exact ⟨fun hk => word_trap hi ((if_neg (by simp [hb])).trans (if_pos hk)),
      fun hk => word_done hi ((if_neg (by simp [hb])).trans (if_neg (Nat.not_lt.mpr hk)))⟩
  case bind =>
    intro h lvl hi
    exact word_done hi rfl
  case bar => exact ⟨b.full_iff, rfl, rfl, rfl, rfl, rfl, rfl, rfl, rfl, rfl, rfl, b.passed_iff⟩
  case phase =>
    refine ⟨State.testBar_stays ht, fun hfull hfwd => ⟨State.testBar_completes ht hfull hfwd, State.testBar_forwards ht hfull hfwd, ?_⟩⟩
    have hn := Team.bar_lt_of_full hfull
    obtain ⟨t', ht', hbar⟩ := State.completePhase_bar ht hn
    refine ⟨t', ht', hbar, State.completePhase_away ht, fun hr gi g f p hg hf hd hp hst => ?_⟩
    obtain ⟨z, hz, hfz⟩ := State.completePhase_releases ht hn hr hg hf hd hp hst
    obtain rfl := Option.some.inj (ht'.symm.trans hz)
    exact Option.bind_eq_some_iff.mp hfz
  case tlwait =>
    intro h a tl hi ha hb
    refine (word_of_issues hi _).trans (congrArg Host.Outcome.next ((congrArg (Act.after s) (if_neg (by simp [ha, hb]))).trans ?_))
    unfold State.reached
    simp only [decide_eq_true_eq]
    exact apply_ite (Act.after s) _ _ _
  case tlread =>
    intro h d tl hi
    exact ⟨x.s.clock + 60, word_done hi rfl⟩
  case yield =>
    intro h cont b on hi ha hb go
    refine (word_of_issues hi _).trans (congrArg Host.Outcome.next ((congrArg (Act.after s) (if_neg (by simp [ha, hb]))).trans ?_))
    rw [← x.rel_eq]
    cases on with
    | bar n => exact apply_ite (Act.after s) _ _ _
    | tl k =>
      simp only [State.reached, decide_eq_true_eq]
      exact apply_ite (Act.after s) _ _ _
  case gang =>
    intro h a hi hlatch mask members good
    have hfree : x.team.latch.any (fun m => m.grp == x.gi) = false := List.any_eq_false.mpr (fun m hm => by simpa using hlatch m hm)
    have hgood : (decide (2 ≤ members.length) && decide (members.length ≤ 6) && mask.getLsbD x.gi && members.all x.team.gangs) = true ↔ good := by
      simp only [Bool.and_eq_true, decide_eq_true_eq, List.all_eq_true, Team.gangs_iff, and_assoc]
      rfl
    exact ⟨fun hg => word_done hi ((if_neg (by simp [hfree])).trans (if_pos (hgood.mpr hg))),
      fun hg => word_trap hi ((if_neg (by simp [hfree])).trans (if_neg (fun h => hg (hgood.mp h))))⟩

end Sys2Proof.Machine
